-- ==== Sys2Proof/Word.lean ====
section
/-! DEFINITION. The word types of the BKD-7400 (spec/00_scope.md R3: bits numbered from 0, little-endian). -/

namespace Sys2Proof

/-- One byte. -/
abbrev Byte := BitVec 8
/-- A 16-bit value. -/
abbrev Half := BitVec 16
/-- A 32-bit register entry or special register. -/
abbrev W32 := BitVec 32
/-- A 64-bit group-wide register, address, instruction word or literal word. -/
abbrev W64 := BitVec 64

end Sys2Proof
end

