-- ==== Sys2Proof/Config.lean ====
section
/-! DEFINITION. What an implementation fixes and the spec leaves open: free values without a body (no proof can see
one), and the sizes that 01 R13, R14 give. Each free value is named in the assumption log. -/

namespace Sys2Proof.Config

/-- Timebase cycles, beyond one, that the step numbered by its argument takes (DESIGN CHOICE, log 3: no duration is given). -/
opaque stepCycles : Nat → Nat

/-- The credit that the next hops grant to a newly bound send-allowance slot (17 R307; DESIGN CHOICE, log 9). -/
opaque hopCredit : Nat → Nat

/-- Whether an L1 line is evicted at the end of a step: by the step, the core, the context and the line (11 R199; DESIGN CHOICE,
log 18). -/
opaque l1Evicted : Nat → Nat → Nat → Nat → Bool

/-- Whether the firmware image's signature verifies (21 R359; the key is not given, DESIGN CHOICE, log 11). -/
opaque imageOk : List Byte → Bool

/-- The public key in ROM, as the coordinates of a point of P-384 (01 R28; not given, DESIGN CHOICE, log 11). -/
opaque romKey : Nat × Nat

/-- The signature at the end of the record that reset finds (01 R28; not given, DESIGN CHOICE, log 5). -/
opaque resetSignature : BitVec 768

/-- The version number of a firmware image (21 R357, R359; where it stands in the image is not given, DESIGN CHOICE, log 11). -/
opaque firmwareOf : List Byte → BitVec 32

/-- The minimum version of a firmware image that the ROM stores (21 R359; not given, DESIGN CHOICE, log 11). -/
opaque romMinimum : BitVec 32

/-- Whether a write of RQBASE makes the next report enter entry 0, as 21 R352 says, or the entry that its SEQ gives, as 21 R358
says (DESIGN CHOICE, log 74). -/
opaque rqFromZero : Bool

/-- The bytes of a section of a fatal dump, by its TYPE and the step that writes it (19 R350; no layout is given, DESIGN CHOICE, log 30). -/
opaque dumpSection : Nat → Nat → List Byte

/-- Cores of a cluster (01 R14). -/
abbrev coresPerCluster : Nat := 256
/-- Group slots of a core (01 R13). -/
abbrev groupSlots : Nat := 512
/-- Group slots of a control core (01 R18). -/
abbrev ccGroupSlots : Nat := 16
/-- Group registers of a core's main file (01 R13). -/
abbrev mainFileRegs : Nat := 24576
/-- Scratchpad bytes of a core (01 R13). -/
abbrev scratchBytes : Nat := 262144
/-- Bytes of a cluster's scratch window (01 R14). -/
abbrev windowBytes : Nat := 67108864
/-- Trigger entries of a cluster (01 R14). -/
abbrev triggerEntries : Nat := 1024
/-- Ordered-atomic buffer entries of a slice (01 R14). -/
abbrev orderedEntries : Nat := 512
/-- Lines of a core's L1: 128 KiB of 64-byte lines (01 R13). -/
abbrev l1Lines : Nat := 2048
/-- Version lines that one slice holds at most: 1 MiB of 64-byte lines (03 R52). -/
abbrev versionLines : Nat := 16384
/-- Launches that a context holds at most (03 R37). -/
abbrev launchTable : Nat := 4096
/-- Starts that a channel queues at most (13 R257). -/
abbrev channelQueue : Nat := 16
/-- Steps that a matrix unit queues at most (15 R278). -/
abbrev stepQueue : Nat := 8
/-- Ember lines that all contexts reserve at most on one cluster (11 R217). -/
abbrev emberLines : Nat := 2097152
/-- Hardware entries of a reconvergence stack (05 R91). -/
abbrev stackEntries : Nat := 32
/-- Instructions of a leg at most (05 R88). -/
abbrev legLimit : Nat := 24

end Sys2Proof.Config
end

