-- ==== Sys2Proof/Machine/Sha.lean ====
section
/-! DEFINITION. The digests that the spec names and does not spell out: SHA-256 (19 R350; 21 R357) and SHA-384 (01 R28; 21 R359).
They are those of FIPS 180-4 (PRESUMED, log 11). Their constants are computed from the primes that define them. -/

namespace Sys2Proof.Machine

/-- What the two digests differ in: the width of a word, the rounds, and the rotations. -/
structure Digest where
  width : Nat
  rounds : Nat
  /-- of the upper and of the lower half of the chaining value -/
  upper : Nat × Nat × Nat
  lower : Nat × Nat × Nat
  /-- two rotations and a shift, of the older and of the newer message word -/
  older : Nat × Nat × Nat
  newer : Nat × Nat × Nat

def narrow : Digest :=
  { width := 32, rounds := 64, upper := (2, 13, 22), lower := (6, 11, 25), older := (7, 18, 3), newer := (17, 19, 10) }

def wide : Digest :=
  { width := 64, rounds := 80, upper := (28, 34, 39), lower := (14, 18, 41), older := (1, 8, 7), newer := (19, 61, 6) }

/-- The greatest r + m, m below 2^n, whose k-th power is at most x. -/
def rootUpTo (k x : Nat) : Nat → Nat → Nat
  | 0, r => r
  | n + 1, r => rootUpTo k x n (if (r + 2 ^ n) ^ k ≤ x then r + 2 ^ n else r)

/-- The first b bits after the point of the k-th root of p, where the root is below 2⁸. -/
def rootFraction (b k p : Nat) : BitVec b := BitVec.ofNat b (rootUpTo k (p * 2 ^ (b * k)) (b + 8) 0)

/-- The primes below 410: the first 80. -/
def smallPrimes : List Nat :=
  (List.range 410).filter fun p => 2 ≤ p && (List.range 21).all fun q => q < 2 || p ≤ q || p % q ≠ 0

/-- The addends of the rounds. -/
def Digest.addends (d : Digest) : List (BitVec d.width) := (smallPrimes.take d.rounds).map (rootFraction d.width 3)

/-- Half of the chaining value: four words through which values pass, the newest first. -/
structure Quad (b : Nat) where
  first : BitVec b
  second : BitVec b
  third : BitVec b
  last : BitVec b

/-- A new word enters, the last one leaves. -/
def Quad.enter {b : Nat} (q : Quad b) (x : BitVec b) : Quad b :=
  { first := x, second := q.first, third := q.second, last := q.third }

def Quad.plus {b : Nat} (q r : Quad b) : Quad b :=
  { first := q.first + r.first, second := q.second + r.second, third := q.third + r.third, last := q.last + r.last }

/-- The four words as a number, the first the highest. -/
def Quad.toNat {b : Nat} (q : Quad b) : Nat :=
  ((q.first.toNat * 2 ^ b + q.second.toNat) * 2 ^ b + q.third.toNat) * 2 ^ b + q.last.toNat

def Quad.ofRoots (b : Nat) (ps : List Nat) : Quad b :=
  let root (i : Nat) : BitVec b := rootFraction b 2 (ps.getD i 0)
  { first := root 0, second := root 1, third := root 2, last := root 3 }

/-- The exclusive or of three rotations to the right. -/
def spread {b : Nat} (x : BitVec b) (r : Nat × Nat × Nat) : BitVec b :=
  x.rotateRight r.1 ^^^ (x.rotateRight r.2.1 ^^^ x.rotateRight r.2.2)

/-- The same of two rotations and a shift. -/
def stir {b : Nat} (x : BitVec b) (r : Nat × Nat × Nat) : BitVec b :=
  x >>> r.2.2 ^^^ (x.rotateRight r.1 ^^^ x.rotateRight r.2.1)

/-- One round on the upper and the lower half; t is the sum of the round's addend and its message word. -/
def Digest.round (d : Digest) (halves : Quad d.width × Quad d.width) (t : BitVec d.width) : Quad d.width × Quad d.width :=
  let (up, lo) := halves
  let chosen := lo.third ^^^ (lo.first &&& (lo.second ^^^ lo.third))
  let most := (up.first &&& up.second) ||| (up.third &&& (up.first ||| up.second))
  let fresh := spread lo.first d.lower + chosen + (lo.last + t)
  (up.enter (fresh + most + spread up.first d.upper), lo.enter (up.last + fresh))

/-- The next message word, from the last sixteen, the newest first. -/
def Digest.nextWord (d : Digest) (ws : List (BitVec d.width)) : BitVec d.width :=
  stir (ws.getD 14 0) d.older + stir (ws.getD 1 0) d.newer + (ws.getD 6 0 + ws.getD 15 0)

/-- The number that bytes give, the first of them the highest. -/
def bigEndian (bs : List (BitVec 8)) : Nat := bs.foldl (fun n b => 256 * n + b.toNat) 0

/-- What a block of sixteen words makes of the chaining value. -/
def Digest.block (d : Digest) (h : Quad d.width × Quad d.width) (block : List (BitVec 8)) : Quad d.width × Quad d.width :=
  let k := d.width / 8
  let given := (List.range 16).map fun i => BitVec.ofNat d.width (bigEndian ((block.drop (k * i)).take k))
  let words := ((d.rounds - 16).repeat (fun l => d.nextWord l :: l) given.reverse).reverse
  let (up, lo) := (List.zipWith (· + ·) d.addends words).foldl d.round h
  (h.1.plus up, h.2.plus lo)

/-- Bytes followed by a one bit, zeros, and their number of bits in two words, to whole blocks. -/
def Digest.padded (d : Digest) (bs : List (BitVec 8)) : List (BitVec 8) :=
  let k := d.width / 8
  let n := bs.length
  let tail := (List.range (2 * k)).reverse.map fun i => BitVec.ofNat 8 (n * 8 / 256 ^ i)
  bs ++ 0x80 :: (List.replicate ((32 * k - (n + 1 + 2 * k) % (16 * k)) % (16 * k)) 0 ++ tail)

/-- The upper and the lower half of the digest of a byte string, from the halves that it starts with. -/
def Digest.of (d : Digest) (start : Quad d.width × Quad d.width) (bs : List (BitVec 8)) : Quad d.width × Quad d.width :=
  let k := 2 * d.width
  let input := d.padded bs
  ((List.range (input.length / k)).map fun i => (input.drop (k * i)).take k).foldl d.block start

def sha256 (bs : List (BitVec 8)) : BitVec 256 :=
  let (up, lo) := narrow.of (Quad.ofRoots 32 smallPrimes, Quad.ofRoots 32 (smallPrimes.drop 4)) bs
  BitVec.ofNat 256 (up.toNat * 2 ^ 128 + lo.toNat)

/-- The digest starts from the ninth to the sixteenth prime, and drops its last two words. -/
def sha384 (bs : List (BitVec 8)) : BitVec 384 :=
  let (up, lo) := wide.of (Quad.ofRoots 64 (smallPrimes.drop 8), Quad.ofRoots 64 (smallPrimes.drop 12)) bs
  BitVec.ofNat 384 (up.toNat * 2 ^ 128 + lo.toNat / 2 ^ 128)

end Sys2Proof.Machine
end

