-- ==== Sys2Proof/Machine/Ecdsa.lean ====
section
/-! DEFINITION. ECDSA P-384 over SHA-384, with which the ROM checks what it starts from (01 R28; 21 R359). The spec names it by
FIPS 186-5 and does not spell it out; the curve's constants are those of that standard (PRESUMED, log 11). -/

namespace Sys2Proof.Machine.P384

/-- The prime of the field. -/
def prime : Nat := 2 ^ 384 - 2 ^ 128 - 2 ^ 96 + 2 ^ 32 - 1

/-- The number of points of the curve. -/
def order : Nat :=
  0xFFFFFFFFFFFFFFFFFFFFFFFFFFFFFFFFFFFFFFFFFFFFFFFFC7634D81F4372DDF581A0DB248B0A77AECEC196ACCC52973

/-- The curve is y² = x³ − 3x + constant. -/
def constant : Nat :=
  0xB3312FA7E23EE7E4988E056BE3F82D19181D9C6EFE8141120314088F5013875AC656398D8A2ED19D2A85C8EDD3EC2AEF

/-- The point that generates the curve. -/
def generator : Nat × Nat :=
  (0xAA87CA22BE8B05378EB1C71EF320AD746E1D3B628BA79B9859F741E082542A385502F25DBF55296C3A545E3872760AB7,
   0x3617DE4A96262C6F5D9E98BF9292DC29F8F41DBD289A147CE9DA3113B5F0B8C00A60B1CE1D7E819D7A431D7C90EA0E5F)

/-- x to the power of the low k bits of e, modulo m. -/
def power (m : Nat) : Nat → Nat → Nat → Nat
  | 0, _, _ => 1
  | k + 1, x, e => (if e % 2 = 1 then x else 1) * power m k (x * x % m) (e / 2) % m

/-- The inverse modulo a prime of at most 384 bits. -/
def inverse (m x : Nat) : Nat := power m 384 x (m - 2)

def onCurve (q : Nat × Nat) : Bool :=
  q.1 < prime && q.2 < prime && q.2 * q.2 % prime = (q.1 ^ 3 + (prime - 3) * q.1 + constant) % prime

/-- The sum of two points; none is the point at infinity. -/
def add : Option (Nat × Nat) → Option (Nat × Nat) → Option (Nat × Nat)
  | none, b => b
  | a, none => a
  | some (x, y), some (u, v) =>
    if x = u && (y + v) % prime = 0 then none
    else
      let slope := (if x = u then (3 * x * x + (prime - 3)) * inverse prime (2 * y % prime)
        else (v + (prime - y)) * inverse prime ((u + (prime - x)) % prime)) % prime
      let w := (slope * slope + (prime - x) + (prime - u)) % prime
      some (w, (slope * (x + (prime - w)) + (prime - y)) % prime)

/-- The multiple of a point by the low k bits of a number. -/
def times : Nat → Nat → Option (Nat × Nat) → Option (Nat × Nat)
  | 0, _, _ => none
  | k + 1, n, q => add (if n % 2 = 1 then q else none) (times k (n / 2) (add q q))

/-- The pair r, s signs a digest under a public key. -/
def verifies (key : Nat × Nat) (digest r s : Nat) : Bool :=
  let w := inverse order (s % order)
  let at_ := add (times 384 (digest * w % order) (some generator)) (times 384 (r * w % order) (some key))
  onCurve key && 1 ≤ r && r < order && 1 ≤ s && s < order
    && (match at_ with | none => false | some (x, _) => x % order = r)

end Sys2Proof.Machine.P384
end

