-- ==== Sys2Proof/Syntax.lean ====
section
/-! DEFINITION. The instructions as syntax: one constructor per row of spec/opcode_table.json. The rows that are
instruction words carry their operands; the rows that are steps of an engine, of the host link or of the management
controller carry the arguments that pick what they act on. -/

namespace Sys2Proof

/-- Element types, in the order of their TY codes (05 R65). -/
inductive Ty where
  | i32 | u32 | i64 | u64 | i16 | u16 | i8 | u8 | f32 | f16 | bf16 | e4m3 | e5m2 | e2m1 | i4 | b32
  deriving DecidableEq, Repr

/-- An operand specifier (05 R68). -/
inductive Opd where
  | v (n : Fin 512)
  | o (n : Fin 32)
  | l (n : Fin 4)
  | g (n : Fin 128)
  /-- immediate 0 to 127 -/
  | k (n : Fin 128)
  /-- immediate n − 64 -/
  | kn (n : Fin 64)
  | p (n : Fin 7)
  | q (n : Fin 7)
  | zero
  | lit
  deriving DecidableEq, Repr

/-- The fields every instruction word has (05 R64) and its literal word (05 R67). -/
structure Hdr where
  /-- once-per-group form -/
  g : Bool
  /-- ends its leg -/
  e : Bool
  /-- predicate number and PN; none stands for PR = 7 -/
  guard : Option (Fin 7 × Bool)
  fe1 : Bool
  fe2 : Bool
  fe3 : Bool
  lit : Option W64
  deriving DecidableEq, Repr

inductive MulFn where | lo | hi | wide
  deriving DecidableEq, Repr
inductive Cmp where | eq | ne | lt | le | gt | ge
  deriving DecidableEq, Repr
inductive FCmp where | eq | ne | lt | le | gt | ge | uno | ord
  deriving DecidableEq, Repr
inductive VoteFn where | any | all | ballot
  deriving DecidableEq, Repr
inductive ShflFn where | idx | up | down | xor
  deriving DecidableEq, Repr
/-- The folds of LSCAN, LRED, ATOMO and RRED. -/
inductive FoldFn where | add | min | max | and | or | xor
  deriving DecidableEq, Repr
/-- The operations of ATOM and RATOM (11 R203). -/
inductive AtomFn where | add | min | max | and | or | xor | exch | cas
  deriving DecidableEq, Repr
/-- Rounding modes (09 R153). -/
inductive Rm where | rne | rtz | rup | rdn | rsr
  deriving DecidableEq, Repr
/-- The functions of FUNC (09 R160). -/
inductive FuncFn where | exp2 | log2 | rcp | rsq | sqrt | sin | cos | tanh | erf
  deriving DecidableEq, Repr
/-- Memory orders (07 R140, 11 R203). -/
inductive Order where | rlx | acq | rel | ar
  deriving DecidableEq, Repr
/-- Memory spaces (07 R140). -/
inductive Space where | gl | sh | cw
  deriving DecidableEq, Repr
/-- Scopes, in the order of their codes (12 R229). -/
inductive Scope where | grp | team | core | clu | dev | node | job
  deriving DecidableEq, Repr
/-- Milestone kinds (13 R245). -/
inductive MsKind where | count | bytes | future | join
  deriving DecidableEq, Repr
/-- The field that MSQRY reads (13 R266). -/
inductive MsField where | phase | arrived | chunks | value | expect | head
  deriving DecidableEq, Repr

/-- The special registers (07 R130). -/
inductive SReg where
  | laneid | grpid | teamid | taskid | coreid | lcore | cyc | ric | dmode | ftv | depth | ngrp
  | teamx | teamy | teamz | serial | exm | win | ctx | tags | tagclr | wft
  | sa (k : Fin 32)
  | crd (a : Fin 5)
  | gdim | tcause | tpc | tmask | prq | pdl | tinfo | tlane | qflags | ftvmax | vshape
  deriving DecidableEq, Repr

/-- A place that runs groups: a core by its device-wide number, or the control core of a cluster (01 R15). -/
inductive Site where
  | core (n : Nat)
  | cc (cluster : Nat)
  deriving DecidableEq, Repr

/-- A group, by its context, its team's task identifier and its index in the team (03 R31). -/
structure GroupId where
  ctx : Nat
  task : W64
  grp : Nat
  deriving DecidableEq, Repr

/-- A place whose data can be found uncorrectable (19 R347, R348). -/
inductive Place where
  /-- 8-byte word of physical memory -/
  | mem (word : Nat)
  /-- 8-byte word of a cluster's scratch window -/
  | scratch (cluster word : Nat)
  /-- main-file register of a group -/
  | vreg (gid : GroupId) (n : Nat)
  /-- operand-file entry of a group -/
  | oent (gid : GroupId) (n : Nat)
  /-- group-wide register of a group -/
  | greg (gid : GroupId) (n : Nat)
  /-- row of an accumulator slot -/
  | slot (unit slot row : Nat)
  /-- the image of a team -/
  | image (ctx : Nat) (task : W64)
  /-- 8-byte word of a line in a core's L1, by IA -/
  | l1 (core ctx word : Nat)
  /-- 8-byte word of a team's version, by IA -/
  | vers (ctx : Nat) (task : W64) (word : Nat)
  /-- 8-byte word of an ember line in its slice, by IA -/
  | ember (ctx word : Nat)
  deriving DecidableEq, Repr

/-- A box of the job grid: one closed coordinate range per declared axis (17 R305). -/
abbrev Box := List (Nat × Nat)

/-- What a remote operation does where it lands (17 R313 to R323). -/
inductive RemOp where
  /-- a store: pieces of bytes at fabric offsets, in the order in which they are written -/
  | store (pieces : List (Nat × List Byte))
  /-- a combined reduction packet, with the operation, type and resolved source pattern of its reduction -/
  | packet (off : Nat) (fn : FoldFn) (ty : Ty) (srcPat : W64) (bytes : List Byte)
  /-- an atomic on one location for each lane -/
  | atom (op : AtomFn) (ty : Ty) (lanes : List (Nat × Nat × W64 × W64))
  /-- a read of w bytes for each lane -/
  | load (w : Nat) (lanes : List (Nat × Nat))
  /-- a segment of a remote copy; `last` carries the bytes counted for the whole copy -/
  | segment (off : Nat) (bytes : List Byte) (last : Option Nat)
  /-- an abandoned round of a reduction, which gives its destination milestone an error alone (17 R317) -/
  | void (err : Nat)
  deriving DecidableEq, Repr

/-- Who issued an operation: the coordinate, the slot it named, and its place in the order of issue at that port. -/
structure Origin where
  src : List Nat
  slot : Nat
  seq : Nat
  deriving DecidableEq, Repr

/-- A remote operation for one destination (17 R324): its origin (of a combined packet, those of all contributors), what
it does there, the destination milestone offset (0 = none), and the parties that receive an acknowledgement, each with
its own number for the operation. -/
structure Landing where
  /-- the job, of those that have partitions in this package -/
  job : Nat
  dst : List Nat
  origins : List Origin
  op : RemOp
  msOff : Nat
  acks : List (List Nat × Nat)
  /-- the sender's number for the operation, which its response carries back -/
  tag : Nat
  deriving DecidableEq, Repr

/-- An acknowledgement on its way to the sender (17 R325). -/
structure Ack where
  peer : List Nat
  tag : Nat
  err : Nat
  deriving DecidableEq, Repr

/-- A response to an RLD or RATOM (17 R321, R322): a value per lane, or an error. -/
structure Response where
  peer : List Nat
  tag : Nat
  err : Nat
  /-- lowest lane concerned by an error -/
  lanes : List (Nat × W64)
  deriving DecidableEq, Repr

/-- A contribution to a reduction, as it meets the others (17 R315). -/
structure Contribution where
  job : Nat
  origin : Origin
  dst : List Nat
  base : Nat
  op : FoldFn
  ty : Ty
  /-- the resolved source pattern -/
  srcPat : W64
  round : Nat
  elems : List W64
  msOff : Nat
  ack : Bool
  tag : Nat
  deriving DecidableEq, Repr

/-- Where a fabric port or a switch leads (17 R327). -/
inductive Toward where
  | device (coord : List Nat)
  | switch (n : Nat)
  deriving DecidableEq, Repr

/-- A switch: device-side ports with their prefix boxes, and the outward port (17 R327). -/
structure Switch where
  ports : List (Box × Toward)
  out : Option Nat
  deriving DecidableEq, Repr

/-- What the fabric manager gives (17 R301, R302, R327). -/
structure Assignment where
  /-- the partition, by its position in the package -/
  part : Nat
  /-- the job, of those that have partitions in this package -/
  job : Nat
  coord : List Nat
  sizes : List Nat
  jobCtx : Option Nat
  switches : List Switch
  /-- the switch that the partition's port is attached to -/
  attach : Option Nat
  deriving DecidableEq, Repr

/-- A peer package of a job, by the coordinate of its partition (17 R301, R329). -/
structure Peer where
  job : Nat
  coord : List Nat
  deriving DecidableEq, Repr

/-- What the sensors show (21 R362): powers in W, temperatures in °C. A die is a cluster die or the port die; the SRAM base dies show
with the cluster dies that they carry (DESIGN CHOICE, log 125). -/
structure Sensors where
  power : Nat
  /-- by cluster -/
  clusterPower : List Nat
  /-- hottest junction by die: the cluster dies, then the port die -/
  junction : List Nat
  /-- by stack -/
  hbm : List Nat
  coolant : Nat
  deriving DecidableEq, Repr

/-- One constructor per row of spec/opcode_table.json. -/
inductive Instr where
  -- control (07)
  | nop (h : Hdr)
  | bra (h : Hdr) (t : Opd)
  | brg (h : Hdr) (t : Opd)
  | jmp (h : Hdr) (t : Opd)
  | call (h : Hdr) (d t : Opd)
  | ret (h : Hdr) (a : Opd)
  | loop (h : Hdr) (d t : Opd)
  | exit (h : Hdr)
  | exitG (h : Hdr)
  | halt (h : Hdr)
  | bar (h : Hdr) (n : Opd)
  | yield (h : Hdr)
  | waitAny (h : Hdr) (c : Bool) (d m : Opd)
  | waitAll (h : Hdr) (c : Bool) (m : Opd)
  | waitMs (h : Hdr) (a ph : Opd)
  | ffr (h : Hdr) (c : Bool) (d m : Opd)
  | trapSys (h : Hdr) (code : Opd)
  | trapBrk (h : Hdr) (code : Opd)
  | trapretSame (h : Hdr)
  | trapretNext (h : Hdr)
  | abort (h : Hdr)
  | bsa (h : Hdr) (lt : Bool) (slot thr t : Opd)
  -- integer, logic (07)
  | iadd (h : Hdr) (sat : Bool) (ty : Ty) (d a b : Opd)
  | isub (h : Hdr) (sat : Bool) (ty : Ty) (d a b : Opd)
  | imul (h : Hdr) (fn : MulFn) (ty : Ty) (d a b : Opd)
  | imad (h : Hdr) (ty : Ty) (d a b c : Opd)
  | idiv (h : Hdr) (rem : Bool) (ty : Ty) (d a b : Opd)
  | imin (h : Hdr) (ty : Ty) (d a b : Opd)
  | imax (h : Hdr) (ty : Ty) (d a b : Opd)
  | iabs (h : Hdr) (ty : Ty) (d a : Opd)
  | ineg (h : Hdr) (ty : Ty) (d a : Opd)
  | and (h : Hdr) (ty : Ty) (d a b : Opd)
  | or (h : Hdr) (ty : Ty) (d a b : Opd)
  | xor (h : Hdr) (ty : Ty) (d a b : Opd)
  | andn (h : Hdr) (ty : Ty) (d a b : Opd)
  | orn (h : Hdr) (ty : Ty) (d a b : Opd)
  | not (h : Hdr) (ty : Ty) (d a : Opd)
  | shl (h : Hdr) (ty : Ty) (d a b : Opd)
  | shr (h : Hdr) (ty : Ty) (d a b : Opd)
  | sar (h : Hdr) (ty : Ty) (d a b : Opd)
  | rol (h : Hdr) (ty : Ty) (d a b : Opd)
  | popc (h : Hdr) (ty : Ty) (d a : Opd)
  | clz (h : Hdr) (ty : Ty) (d a : Opd)
  | ctz (h : Hdr) (ty : Ty) (d a : Opd)
  | brev (h : Hdr) (ty : Ty) (d a : Opd)
  | bfx (h : Hdr) (ty : Ty) (d a b c : Opd)
  | bfi (h : Hdr) (ty : Ty) (d a b c : Opd)
  | sel (h : Hdr) (ty : Ty) (d a b c : Opd)
  | icmp (h : Hdr) (fn : Cmp) (ty : Ty) (d a b : Opd)
  | lea (h : Hdr) (ty : Ty) (d a b c : Opd)
  | mov (h : Hdr) (ty : Ty) (d a : Opd)
  | movl (h : Hdr) (ty : Ty) (d a b : Opd)
  | cvt (h : Hdr) (sat : Bool) (ty sty : Ty) (d a : Opd)
  | pack (h : Hdr) (ty : Ty) (d a b c : Opd)
  | unpk (h : Hdr) (ty : Ty) (d a b : Opd)
  | idot4 (h : Hdr) (sat : Bool) (ty : Ty) (d a b c : Opd)
  | movsRead (h : Hdr) (r : SReg) (d : Opd)
  | movsWrite (h : Hdr) (r : SReg) (a : Opd)
  | tagclrWrite (h : Hdr) (a : Opd)
  -- predicates and cross-lane (07)
  | pand (h : Hdr) (d a b : Opd)
  | por (h : Hdr) (d a b : Opd)
  | pxor (h : Hdr) (d a b : Opd)
  | pnot (h : Hdr) (d a : Opd)
  | pmov (h : Hdr) (d a : Opd)
  | vote (h : Hdr) (fn : VoteFn) (d a : Opd)
  | shfl (h : Hdr) (fn : ShflFn) (ty : Ty) (d a b c : Opd)
  | permb (h : Hdr) (tbl : Bool) (d a b c : Opd)
  | lscan (h : Hdr) (fn : FoldFn) (excl : Bool) (ty : Ty) (d a : Opd)
  | lred (h : Hdr) (fn : FoldFn) (ty : Ty) (d a : Opd)
  | lanexGet (h : Hdr) (ty : Ty) (d a b : Opd)
  | lanexPut (h : Hdr) (ty : Ty) (d a b : Opd)
  -- float (09)
  | fadd (h : Hdr) (rm : Rm) (sat : Bool) (ty : Ty) (d a b : Opd)
  | fsub (h : Hdr) (rm : Rm) (sat : Bool) (ty : Ty) (d a b : Opd)
  | fmul (h : Hdr) (rm : Rm) (sat : Bool) (ty : Ty) (d a b : Opd)
  | ffma (h : Hdr) (rm : Rm) (sat : Bool) (ty : Ty) (d a b c : Opd)
  | fmin (h : Hdr) (ty : Ty) (d a b : Opd)
  | fmax (h : Hdr) (ty : Ty) (d a b : Opd)
  | fcmp (h : Hdr) (fn : FCmp) (ty : Ty) (d a b : Opd)
  | fclass (h : Hdr) (ty : Ty) (d a : Opd)
  | frnd (h : Hdr) (rm : Rm) (ty : Ty) (d a : Opd)
  | fcvt (h : Hdr) (rm : Rm) (sat : Bool) (ty sty : Ty) (d a b : Opd)
  | func (h : Hdr) (fn : FuncFn) (ty : Ty) (d a : Opd)
  | hfma2 (h : Hdr) (rm : Rm) (sat : Bool) (ty : Ty) (d a b c : Opd)
  | fdot4 (h : Hdr) (rm : Rm) (sat : Bool) (ty : Ty) (d a b c : Opd)
  | fabs (h : Hdr) (ty : Ty) (d a : Opd)
  | fneg (h : Hdr) (ty : Ty) (d a : Opd)
  | fcopysign (h : Hdr) (ty : Ty) (d a b : Opd)
  -- memory (07, 11)
  | ld (h : Hdr) (ord : Order) (sp : Space) (ty : Ty) (d a b : Opd) (scope : Scope)
  | st (h : Hdr) (ord : Order) (sp : Space) (ty : Ty) (d a b : Opd) (scope : Scope)
  | atom (h : Hdr) (fn : AtomFn) (ord : Order) (scope : Scope) (sp : Space) (ty : Ty) (d a b : Opd)
  | atomo (h : Hdr) (fn : FoldFn) (ty : Ty) (a b c : Opd)
  | fence (h : Hdr) (ord : Order) (scope : Scope)
  | pref (h : Hdr) (llc : Bool) (a b : Opd)
  | cmaintInv (h : Hdr) (a b : Opd)
  | cmaintInvall (h : Hdr)
  | tier (h : Hdr) (lp : Bool) (a b c : Opd)
  | ersv (h : Hdr) (d a b : Opd)
  | erel (h : Hdr) (a : Opd)
  | edisc (h : Hdr) (a b : Opd)
  | emig (h : Hdr) (a b c : Opd)
  | rmset (h : Hdr) (d a b c : Opd)
  | rmsetGet (h : Hdr) (d a b : Opd)
  | rmrefInc (h : Hdr) (d a b : Opd)
  | rmrefDec (h : Hdr) (d a b : Opd)
  | rmrefGet (h : Hdr) (d a b : Opd)
  | rmrefSet (h : Hdr) (d a b c : Opd)
  -- milestones, templates (13)
  | msinit (h : Hdr) (kind : MsKind) (rearm chunk : Bool) (d a b c : Opd)
  | msarrArr (h : Hdr) (rel : Bool) (d a b : Opd) (scope : Scope)
  | msarrExp (h : Hdr) (d a b : Opd)
  | msbind (h : Hdr) (a b : Opd)
  | msbindUnbind (h : Hdr) (a : Opd)
  | msqry (h : Hdr) (field : MsField) (acq : Bool) (d a : Opd)
  | trig (h : Hdr) (a b c : Opd)
  | tdef (h : Hdr) (a b : Opd)
  | tdefClr (h : Hdr) (b : Opd)
  | fres (h : Hdr) (a b : Opd)
  | freg (h : Hdr) (d a b : Opd)
  -- fabric (17)
  | rst (h : Hdr) (ty : Ty) (d a b : Opd)
  | rred (h : Hdr) (fn : FoldFn) (ty : Ty) (d a b c : Opd)
  | ratom (h : Hdr) (fn : AtomFn) (ty : Ty) (d a b c : Opd)
  | rld (h : Hdr) (ty : Ty) (d a b : Opd)
  | rcopy (h : Hdr) (a b : Opd)
  | sabind (h : Hdr) (a b c : Opd)
  | sabindDst (h : Hdr) (a b : Opd)
  | sabindClr (h : Hdr) (a : Opd)
  | pcnt (h : Hdr) (d a : Opd)
  -- quasi-random (09)
  | qld (h : Hdr) (a b c : Opd)
  | qset (h : Hdr) (a : Opd)
  | qrs (h : Hdr) (ty : Ty) (d a b : Opd)
  -- matrix (15)
  | mma (h : Hdr) (a b : Opd)
  | mmaNew (h : Hdr) (d a b : Opd)
  | mmas (h : Hdr) (a b c : Opd)
  | mmasNew (h : Hdr) (d a b c : Opd)
  | accrel (h : Hdr) (a : Opd)
  | accdr (h : Hdr) (ty : Ty) (d a b : Opd)
  | cmpsVal (h : Hdr) (ty : Ty) (d a : Opd)
  | cmpsMeta (h : Hdr) (ty : Ty) (d a : Opd)
  | cbdec (h : Hdr) (ty : Ty) (d a b : Opd)
  | strmCnt (h : Hdr) (d a : Opd)
  | strmDrop (h : Hdr) (d a b : Opd)
  | cbld (h : Hdr) (a : Opd)
  -- launch and window (03)
  | launch (h : Hdr) (d a : Opd)
  | rgrow (h : Hdr) (a : Opd)
  | rshrk (h : Hdr) (a : Opd)
  | probe (h : Hdr) (a : Opd)
  -- steps of the cores and distributors (03, 05, 09, 15, 19)
  | qrsStateLoad (core : Nat)
  | accdrRead (n : Nat)
  | legIssue (site : Site) (slot : Nat)
  | dmodeTimeshareSwitch (core : Nat)
  | loadDataLands (n : Nat)
  | probeTimer (gid : GroupId)
  | probeHop (n : Nat)
  | teamAdmit (cluster : Nat)
  | stealMessage (n : Nat)
  | stealHandover (n : Nat)
  | groupRelease (gid : GroupId)
  | teamRetire (ctx : Nat) (task : W64)
  | launchRetire (ctx : Nat) (serial : W32)
  | abortDiscardDone (ctx : Nat) (task : W64)
  | switchOutComplete (ctx : Nat) (task : W64)
  -- steps of the memory side and of the engines (11, 13, 15)
  | pageMigration (n : Nat)
  | tierPageMove (n : Nat)
  | tierComplete (n : Nat)
  | emberLineEvict (n : Nat)
  | atomoArrival (n : Nat)
  | atomoResend (n : Nat)
  | startResend (n : Nat)
  | copyBegin (cluster channel : Nat)
  | copyComplete (n : Nat)
  | tostreamTileEnter (unit : Nat) (b : Bool)
  | matrixStepBegin (unit : Nat)
  | matrixStepComplete (unit : Nat)
  -- steps of the fabric (17)
  | allowanceReturn (ctx slot grant : Nat)
  | rcopySegment (n : Nat)
  | switchCopy (n : Nat) (fromPeer : Option Contribution)
  | roundTimeout (n : Nat)
  | remoteLanding (n : Nat) (fromPeer : Option Landing)
  | ackArrival (n : Nat) (fromPeer : Option Ack)
  | remoteResponse (n : Nat) (fromPeer : Option Response)
  | remoteTimeout (n : Nat)
  | laneSparing (link lane : Nat)
  | peerRejoin (link : Nat) (peer : Peer) (key : Nat)
  -- pre-emption and context (19)
  | preemptDeadline (ctx : Nat)
  | contextSave (ctx : Nat)
  -- host messages and registers (21)
  | launchMessage (fn : Nat)
  | ctxstart (fn : Nat)
  | preempt (fn : Nat)
  | unpreempt (fn : Nat)
  | restore (fn : Nat)
  | fill (fn : Nat)
  | setdump (fn : Nat)
  | ctxend (fn : Nat)
  | mrtail (fn : Nat) (v : W32)
  | mrbase (fn : Nat) (v : W64)
  | rqbase (fn : Nat) (v : W64)
  | rqhead (fn : Nat) (v : W32)
  | registerWrite (fn : Nat) (off : Nat) (v : W64)
  -- management controller (19, 21)
  | deviceReset
  | softError (place : Place) (correctable : Bool) (unit : W32)
  | selfTestDone (n : Nat) (passed spare : Bool)
  | fatalError (cause : W32) (unit : W32)
  | powerSample (watts : Nat) (nearPeak : Bool)
  | powerAverage (watts : Nat) (celsius : Nat)
  | telemetryRefresh (sensors : Sensors)
  -- steps that the reading of the table added (13, 17, 21)
  | acknowledgementTimeout (n : Nat)
  | copyRowLanded (n : Nat)
  | hostWriteToDeviceMemory (addr : Nat) (bytes : List Byte)
  | fabricManagerAssignment (a : Assignment)
  | newImageOrRecord (image : List Byte) (record : List Byte)
  | marginSampling (link : Nat) (corrected margin : W32)
  deriving DecidableEq, Repr

end Sys2Proof
end

