-- ==== Sys2Proof/Machine/Shape.lean ====
section
/-! DEFINITION. The encoding tables of the spec as one table: for every instruction word its OP, FN and TY codes, the
forms that exist, where it runs, and what each of the four specifier fields may hold (05 R64 to R74, R92, R93; 07 R104,
R105; 09 R160; 11 R203; 13 R266; 15 R290; 17 R309; 03 R60). -/

namespace Sys2Proof

/-- Code of an element type (05 R65). -/
def Ty.code : Ty → Nat
  | .i32 => 0 | .u32 => 1 | .i64 => 2 | .u64 => 3 | .i16 => 4 | .u16 => 5 | .i8 => 6 | .u8 => 7
  | .f32 => 8 | .f16 => 9 | .bf16 => 10 | .e4m3 => 11 | .e5m2 => 12 | .e2m1 => 13 | .i4 => 14 | .b32 => 15

def Ty.ofCode : Nat → Ty
  | 0 => .i32 | 1 => .u32 | 2 => .i64 | 3 => .u64 | 4 => .i16 | 5 => .u16 | 6 => .i8 | 7 => .u8
  | 8 => .f32 | 9 => .f16 | 10 => .bf16 | 11 => .e4m3 | 12 => .e5m2 | 13 => .e2m1 | 14 => .i4 | _ => .b32

/-- Element width in bits. -/
def Ty.bits : Ty → Nat
  | .i64 | .u64 => 64
  | .i32 | .u32 | .f32 | .b32 => 32
  | .i16 | .u16 | .f16 | .bf16 => 16
  | .i8 | .u8 | .e4m3 | .e5m2 => 8
  | .e2m1 | .i4 => 4

/-- Integer types of codes 0 to 7: the I of 07 R105. -/
def Ty.isI (t : Ty) : Bool := t.code < 8

def Ty.isSigned : Ty → Bool
  | .i32 | .i64 | .i16 | .i8 | .i4 => true
  | _ => false

def Ty.isFloat : Ty → Bool
  | .f32 | .f16 | .bf16 | .e4m3 | .e5m2 | .e2m1 => true
  | _ => false

/-- 32-bit registers that an element of the type takes. -/
def Ty.regs (t : Ty) : Nat := if t.bits = 64 then 2 else 1

def MulFn.code : MulFn → Nat | .lo => 0 | .hi => 1 | .wide => 2
def MulFn.ofCode : Nat → MulFn | 0 => .lo | 1 => .hi | _ => .wide
def Cmp.code : Cmp → Nat | .eq => 0 | .ne => 1 | .lt => 2 | .le => 3 | .gt => 4 | .ge => 5
def Cmp.ofCode : Nat → Cmp | 0 => .eq | 1 => .ne | 2 => .lt | 3 => .le | 4 => .gt | _ => .ge
def FCmp.code : FCmp → Nat
  | .eq => 0 | .ne => 1 | .lt => 2 | .le => 3 | .gt => 4 | .ge => 5 | .uno => 6 | .ord => 7
def FCmp.ofCode : Nat → FCmp
  | 0 => .eq | 1 => .ne | 2 => .lt | 3 => .le | 4 => .gt | 5 => .ge | 6 => .uno | _ => .ord
def VoteFn.code : VoteFn → Nat | .any => 0 | .all => 1 | .ballot => 2
def VoteFn.ofCode : Nat → VoteFn | 0 => .any | 1 => .all | _ => .ballot
def ShflFn.code : ShflFn → Nat | .idx => 0 | .up => 1 | .down => 2 | .xor => 3
def ShflFn.ofCode : Nat → ShflFn | 0 => .idx | 1 => .up | 2 => .down | _ => .xor
def FoldFn.code : FoldFn → Nat | .add => 0 | .min => 1 | .max => 2 | .and => 3 | .or => 4 | .xor => 5
def FoldFn.ofCode : Nat → FoldFn | 0 => .add | 1 => .min | 2 => .max | 3 => .and | 4 => .or | _ => .xor
def AtomFn.code : AtomFn → Nat
  | .add => 0 | .min => 1 | .max => 2 | .and => 3 | .or => 4 | .xor => 5 | .exch => 6 | .cas => 7
def AtomFn.ofCode : Nat → AtomFn
  | 0 => .add | 1 => .min | 2 => .max | 3 => .and | 4 => .or | 5 => .xor | 6 => .exch | _ => .cas
def Rm.code : Rm → Nat | .rne => 0 | .rtz => 1 | .rup => 2 | .rdn => 3 | .rsr => 4
def Rm.ofCode : Nat → Rm | 0 => .rne | 1 => .rtz | 2 => .rup | 3 => .rdn | _ => .rsr
def FuncFn.code : FuncFn → Nat
  | .exp2 => 0 | .log2 => 1 | .rcp => 2 | .rsq => 3 | .sqrt => 4 | .sin => 5 | .cos => 6 | .tanh => 7 | .erf => 8
def FuncFn.ofCode : Nat → FuncFn
  | 0 => .exp2 | 1 => .log2 | 2 => .rcp | 3 => .rsq | 4 => .sqrt | 5 => .sin | 6 => .cos | 7 => .tanh | _ => .erf
def Order.code : Order → Nat | .rlx => 0 | .acq => 1 | .rel => 2 | .ar => 3
def Order.ofCode : Nat → Order | 0 => .rlx | 1 => .acq | 2 => .rel | _ => .ar
def Space.code : Space → Nat | .gl => 0 | .sh => 1 | .cw => 2
def Space.ofCode : Nat → Space | 0 => .gl | 1 => .sh | _ => .cw
def Scope.code : Scope → Nat
  | .grp => 0 | .team => 1 | .core => 2 | .clu => 3 | .dev => 4 | .node => 5 | .job => 6
def Scope.ofCode : Nat → Scope
  | 0 => .grp | 1 => .team | 2 => .core | 3 => .clu | 4 => .dev | 5 => .node | _ => .job
def MsKind.code : MsKind → Nat | .count => 0 | .bytes => 1 | .future => 2 | .join => 3
def MsKind.ofCode : Nat → MsKind | 0 => .count | 1 => .bytes | 2 => .future | _ => .join
def MsField.code : MsField → Nat
  | .phase => 0 | .arrived => 1 | .chunks => 2 | .value => 3 | .expect => 4 | .head => 5
def MsField.ofCode : Nat → MsField
  | 0 => .phase | 1 => .arrived | 2 => .chunks | 3 => .value | 4 => .expect | _ => .head

/-- Number of a special register (07 R130). -/
def SReg.code : SReg → Nat
  | .laneid => 0x000 | .grpid => 0x001 | .teamid => 0x002 | .taskid => 0x003 | .coreid => 0x004 | .lcore => 0x005
  | .cyc => 0x006 | .ric => 0x007 | .dmode => 0x008 | .ftv => 0x009 | .depth => 0x00A | .ngrp => 0x00B
  | .teamx => 0x00C | .teamy => 0x00D | .teamz => 0x00E | .serial => 0x00F | .exm => 0x010 | .win => 0x011
  | .ctx => 0x012 | .tags => 0x100 | .tagclr => 0x101 | .wft => 0x102
  | .sa k => 0x200 + k.val | .crd a => 0x280 + a.val | .gdim => 0x290
  | .tcause => 0x300 | .tpc => 0x301 | .tmask => 0x302 | .prq => 0x303 | .pdl => 0x304 | .tinfo => 0x305
  | .tlane => 0x306 | .qflags => 0x400 | .ftvmax => 0x401 | .vshape => 0x402

/-- The special register of a number; a number that names none answers some register of another number, which the
comparison of `decode` with the encoding refuses. -/
def SReg.ofCode (n : Nat) : SReg :=
  if 0x200 ≤ n && n < 0x220 then .sa ⟨(n - 0x200) % 32, Nat.mod_lt _ (by decide)⟩
  else if 0x280 ≤ n && n < 0x285 then .crd ⟨(n - 0x280) % 5, Nat.mod_lt _ (by decide)⟩
  else match n with
    | 0x000 => .laneid | 0x001 => .grpid | 0x002 => .teamid | 0x003 => .taskid | 0x004 => .coreid | 0x005 => .lcore
    | 0x006 => .cyc | 0x007 => .ric | 0x008 => .dmode | 0x009 => .ftv | 0x00A => .depth | 0x00B => .ngrp
    | 0x00C => .teamx | 0x00D => .teamy | 0x00E => .teamz | 0x00F => .serial | 0x010 => .exm | 0x011 => .win
    | 0x012 => .ctx | 0x100 => .tags | 0x101 => .tagclr | 0x102 => .wft | 0x290 => .gdim
    | 0x300 => .tcause | 0x301 => .tpc | 0x302 => .tmask | 0x303 => .prq | 0x304 => .pdl | 0x305 => .tinfo
    | 0x306 => .tlane | 0x400 => .qflags | 0x401 => .ftvmax | _ => .vshape

/-- 64-bit special registers (07 R130). -/
def SReg.is64 : SReg → Bool
  | .taskid | .cyc | .ric | .tags | .tagclr | .tpc | .tinfo => true
  | _ => false

/-- Registers that MOVS reads: all but %tagclr. -/
def SReg.readable : SReg → Bool
  | .tagclr => false
  | _ => true

/-- Registers absent from control cores (07 R130). -/
def SReg.coreOnly : SReg → Bool
  | .exm | .win | .sa _ => true
  | _ => false

/-- The 10-bit specifier of an operand (05 R68). -/
def Opd.bits : Opd → BitVec 10
  | .v n => BitVec.ofNat 10 n.val
  | .o n => BitVec.ofNat 10 (0x200 + n.val)
  | .l n => BitVec.ofNat 10 (0x220 + n.val)
  | .g n => BitVec.ofNat 10 (0x280 + n.val)
  | .k n => BitVec.ofNat 10 (0x300 + n.val)
  | .kn n => BitVec.ofNat 10 (0x380 + n.val)
  | .p n => BitVec.ofNat 10 (0x3C0 + n.val)
  | .q n => BitVec.ofNat 10 (0x3C8 + n.val)
  | .zero => 0x3FE
  | .lit => 0x3FF

/-- The operand of a specifier; a reserved pattern answers an operand of another pattern, which the comparison of
`decode` with the encoding refuses. -/
def Opd.ofBits (b : BitVec 10) : Opd :=
  let n := b.toNat
  if n < 0x200 then .v ⟨n % 512, Nat.mod_lt _ (by decide)⟩
  else if n < 0x220 then .o ⟨n % 32, Nat.mod_lt _ (by decide)⟩
  else if n < 0x224 then .l ⟨n % 4, Nat.mod_lt _ (by decide)⟩
  else if 0x280 ≤ n && n < 0x300 then .g ⟨n % 128, Nat.mod_lt _ (by decide)⟩
  else if 0x300 ≤ n && n < 0x380 then .k ⟨n % 128, Nat.mod_lt _ (by decide)⟩
  else if 0x380 ≤ n && n < 0x3C0 then .kn ⟨n % 64, Nat.mod_lt _ (by decide)⟩
  else if 0x3C0 ≤ n && n < 0x3C7 then .p ⟨(n - 0x3C0) % 7, Nat.mod_lt _ (by decide)⟩
  else if 0x3C8 ≤ n && n < 0x3CF then .q ⟨(n - 0x3C8) % 7, Nat.mod_lt _ (by decide)⟩
  else if n = 0x3FF then .lit
  else .zero

def Opd.isV : Opd → Bool | .v _ => true | _ => false
def Opd.isVO : Opd → Bool | .v _ | .o _ => true | _ => false
def Opd.isVOL : Opd → Bool | .v _ | .o _ | .l _ => true | _ => false
def Opd.isG : Opd → Bool | .g _ => true | _ => false
def Opd.isP : Opd → Bool | .p _ => true | _ => false
def Opd.isQ : Opd → Bool | .q _ => true | _ => false
def Opd.isK : Opd → Bool | .k _ | .kn _ => true | _ => false
def Opd.isX : Opd → Bool | .lit => true | _ => false
def Opd.isZ : Opd → Bool | .zero => true | _ => false
def Opd.isGX (o : Opd) : Bool := o.isG || o.isX
def Opd.isKX (o : Opd) : Bool := o.isK || o.isX
def Opd.isGKX (o : Opd) : Bool := o.isG || o.isK || o.isX
def Opd.isGKXZ (o : Opd) : Bool := o.isGKX || o.isZ
def Opd.isGZ (o : Opd) : Bool := o.isG || o.isZ
def Opd.isGXZ (o : Opd) : Bool := o.isGX || o.isZ
def Opd.isQZ (o : Opd) : Bool := o.isQ || o.isZ
/-- An immediate from 0 to m. -/
def Opd.isKle (m : Nat) : Opd → Bool | .k n => n.val ≤ m | _ => false

/-- "any" as a source (05 R71): every kind for G = 0; g, q, immediate, literal, zero for G = 1. -/
def Opd.anySrc (g : Bool) : Opd → Bool
  | .v _ | .o _ | .l _ | .p _ => !g
  | .g _ | .q _ | .k _ | .kn _ | .zero | .lit => true

/-- "any" as a destination (05 R70, R71). -/
def Opd.anyDst (g : Bool) : Opd → Bool
  | .v _ | .o _ | .p _ => !g
  | .g _ => g
  | .q _ | .zero => true
  | .l _ | .k _ | .kn _ | .lit => false

/-- What a specifier field holds: nothing (the zero specifier, 05 R66), a source, a destination, with whether the
operand's kind is one the entry lists and how many 32-bit registers it names, or raw bits. -/
inductive Fld where
  | un
  | src (o : Opd) (ok : Bool) (n : Nat)
  | dst (o : Opd) (ok : Bool) (n : Nat)
  | raw (b : BitVec 10)
  deriving DecidableEq, Repr

def Fld.bits : Fld → BitVec 10
  | .un => 0x3FE
  | .src o _ _ => o.bits
  | .dst o _ _ => o.bits
  | .raw b => b

/-- A main-file or operand-file operand of n registers is named by a multiple of n (05 R71, 11 R205). -/
def Opd.aligned (n : Nat) : Opd → Bool
  | .v m => m.val % n = 0
  | .o m => m.val % n = 0
  | _ => true

def Fld.ok : Fld → Bool
  | .un => true
  | .src o ok n => ok && o.aligned n
  | .dst o ok n => ok && o.aligned n
  | .raw _ => true

/-- The field is a source that names the literal word. -/
def Fld.isLit : Fld → Bool
  | .src .lit _ _ => true
  | _ => false

/-- The field is a main-file source: only such a field may have its FE bit (05 R66). -/
def Fld.isVSrc : Fld → Bool
  | .src (.v _) _ _ => true
  | _ => false

/-- Where an instruction runs (05 R92). -/
inductive RunsOn where | both | coreOnly | ccOnly
  deriving DecidableEq, Repr

/-- One row of the encoding tables. -/
structure Shape where
  h : Hdr
  op : Nat
  fn : Nat
  ty : Nat
  /-- the per-lane form exists -/
  g0 : Bool
  /-- the group-wide form exists -/
  g1 : Bool
  d : Fld
  s1 : Fld
  s2 : Fld
  s3 : Fld
  /-- TY and FN are accepted -/
  ok : Bool := true
  on : RunsOn := .both
  /-- writes its destination later: never pushes (05 R74) -/
  late : Bool := false
  /-- the destination is read as a source too (17 R309) -/
  dRead : Bool := false
  /-- its own rule lets it raise no UNCORR (11 R212, R213, R220) -/
  calm : Bool := false

/-- A destination that is read. -/
def Fld.asSrc : Fld → Fld
  | .dst o ok n => .src o ok n
  | f => f

/-- The fields whose data an instruction consumes. -/
def Shape.reads (s : Shape) : List Fld := [if s.dRead then s.d.asSrc else s.d, s.s1, s.s2, s.s3]

/-- FN of an operation with a saturation bit. -/
def satFn (b : Bool) (n : Nat) : Nat := n + (if b then 8 else 0)
/-- A flag as an FN value. -/
def fnBit (b : Bool) (n : Nat) : Nat := if b then n else 0

/-- "any" source and destination fields. -/
def anyS (h : Hdr) (n : Nat) (o : Opd) : Fld := .src o (o.anySrc h.g) n
def anyD (h : Hdr) (n : Nat) (o : Opd) : Fld := .dst o (o.anyDst h.g) n
/-- Base of a memory operand (07 R141). -/
def baseS (h : Hdr) (o : Opd) : Fld := .src o (if h.g then o.isGKXZ else o.isVO || o.isGZ) 2
/-- Offset of a memory operand (07 R141). -/
def offS (h : Hdr) (o : Opd) : Fld := .src o (o.isGKXZ || (!h.g && o.isVOL)) 1
/-- Address of ATOM and ATOMO (11 R203). -/
def atomAddr (h : Hdr) (o : Opd) : Fld := .src o (o.isGX || (!h.g && o.isVO)) 2
/-- Address of RST, RATOM and RLD (17 R309). -/
def remAddr (h : Hdr) (o : Opd) : Fld := .src o (if h.g then o.isGX else o.isVO || o.isG) 2
/-- Slot operand of the fabric instructions (17 R309). -/
def slotS (o : Opd) : Fld := .src o (o.isG || o.isKle 31) 1
/-- Operand of an atomic (11 R203, R205). -/
def atomOpd (h : Hdr) (fn : AtomFn) (ty : Ty) (o : Opd) : Fld :=
  match fn with
  | .cas =>
    if ty.bits = 64 then
      .src o ((!h.g && o.isVO) || (match o with | .g k => k.val % 2 = 0 | _ => false)) 4
    else .src o ((!h.g && o.isVO) || o.isGKX) 2
  | _ => anyS h ty.regs o
/-- Types of ATOM, ATOMO and RATOM: codes 0 to 3, and f32 for add, min, max, exch (11 R203). -/
def atomTy (fn : Nat) (ty : Ty) : Bool := ty.code < 4 || (ty.code = 8 && (fn < 3 || fn = 6))
/-- Late destination of a load (07 R142). -/
def loadD (h : Hdr) (n : Nat) (o : Opd) : Fld := .dst o (if h.g then o.isGZ else o.isV || o.isZ) n
/-- The scope field of an ordered access (07 R140): an immediate, or the zero specifier when unordered. -/
def scopeS (ordered : Bool) (s : Scope) : Fld :=
  if ordered then .src (.k ⟨s.code % 128, Nat.mod_lt _ (by decide)⟩) true 1 else .un

/-- Control (07 R104): TY 0. -/
def ctl (h : Hdr) (op fn : Nat) (g0 g1 : Bool) (d s1 s2 : Fld) (on : RunsOn := .both) (ok : Bool := true) : Shape :=
  { h, op, fn, ty := 0, g0, g1, d, s1, s2, s3 := .un, ok, on }

/-- Integer rows of 07 R105 with both forms. -/
def intg (h : Hdr) (op fn : Nat) (ty : Ty) (ok : Bool) (d s1 s2 s3 : Fld) : Shape :=
  { h, op, fn, ty := ty.code, g0 := true, g1 := true, d, s1, s2, s3, ok }

/-- Integer rows with a destination and two sources of the type. -/
def int2 (h : Hdr) (op fn : Nat) (ty : Ty) (ok : Bool) (d a b : Opd) : Shape :=
  intg h op fn ty ok (anyD h ty.regs d) (anyS h ty.regs a) (anyS h ty.regs b) .un

/-- Integer rows with a destination and one source of the type. -/
def int1 (h : Hdr) (op fn : Nat) (ty : Ty) (ok : Bool) (d a : Opd) : Shape :=
  intg h op fn ty ok (anyD h ty.regs d) (anyS h ty.regs a) .un .un

/-- Float arithmetic (09 R160): FN holds the rounding and the saturation. -/
def flt (h : Hdr) (op fn : Nat) (ty : Ty) (ok : Bool) (d a b c : Fld) : Shape :=
  { h, op, fn, ty := ty.code, g0 := true, g1 := true, d, s1 := a, s2 := b, s3 := c, ok }

/-- TY 8, 9 or 10. -/
def Ty.isF3 (t : Ty) : Bool := 8 ≤ t.code && t.code ≤ 10
/-- TY I or b32. -/
def Ty.isIB (t : Ty) : Bool := t.isI || t.code = 15
/-- TY 0–12 or 15: the types of LD, ST, MOV, RST, RLD. -/
def Ty.isMem (t : Ty) : Bool := t.code ≤ 12 || t.code = 15
/-- TY b32 or u64: the types of SHFL and LANEX. -/
def Ty.isBU (t : Ty) : Bool := t.code = 15 || t.code = 3
/-- TY 0–3 or 8. -/
def Ty.isScan (t : Ty) : Bool := t.code < 4 || t.code = 8

/-- Group-wide instruction of TY 0 (chapters 11, 13, 15, 17, 03). -/
def gw (h : Hdr) (op fn : Nat) (d s1 s2 s3 : Fld) (ok : Bool := true) (on : RunsOn := .both) : Shape :=
  { h, op, fn, ty := 0, g0 := false, g1 := true, d, s1, s2, s3, ok, on }

/-- A source or destination field with its own kinds. -/
def S (o : Opd) (ok : Bool) (n : Nat := 1) : Fld := .src o ok n
def D (o : Opd) (ok : Bool) (n : Nat := 1) : Fld := .dst o ok n

/-- MOVS holds its register number raw (07 R128). -/
def movsShape (h : Hdr) (r : SReg) (write : Bool) (d s1 : Fld) (ok : Bool) : Shape :=
  { h, op := 0x25, fn := (r.code / 1024 % 4) * 4 + fnBit write 1, ty := 0, g0 := true, g1 := true
    d, s1, s2 := .un, s3 := .raw (BitVec.ofNat 10 r.code), ok
    on := if r.coreOnly then .coreOnly else .both }

/-- Width in registers of the MOVS operand of a register. -/
def SReg.regs (r : SReg) : Nat := if r.is64 then 2 else 1

/-- Raw S3 of ATOM (11 R203). -/
def atomCtl (ord : Order) (scope : Scope) (sp : Space) : BitVec 10 :=
  BitVec.ofNat 10 (sp.code * 32 + scope.code * 4 + ord.code)

/-- The encoding row of an instruction word; none for the steps of engines, host and management. The source of LANEX.get may be
V, O or L: 07 R139 lists no kinds for it (DEDUCED, log 101). -/
def Instr.shape : Instr → Option Shape
  | .nop h => some (ctl h 0x00 0 true true .un .un .un)
  | .bra h t => some (ctl h 0x01 0 true false .un (S t t.isKX) .un)
  | .brg h t => some (ctl h 0x02 0 false true .un (S t t.isKX) .un)
  | .jmp h t => some (ctl h 0x03 0 false true .un (S t t.isGKX) .un)
  | .call h d t => some (ctl h 0x04 0 false true (D d d.isG) (S t t.isGKX) .un)
  | .ret h a => some (ctl h 0x05 0 false true .un (S a a.isG) .un)
  | .loop h d t => some (ctl h 0x06 0 false true (D d d.isG) (S t t.isKX) .un)
  | .exit h => some (ctl h 0x07 0 true false .un .un .un)
  | .exitG h => some (ctl h 0x07 0 false true .un .un .un)
  | .halt h => some (ctl h 0x26 0 false true .un .un .un .ccOnly)
  | .bar h n => some (ctl h 0x08 0 false true .un (S n (n.isKle 15 || n.isZ)) .un)
  | .yield h => some (ctl h 0x09 0 false true .un .un .un)
  | .waitAny h c d m => some (ctl h 0x0A (satFn c 0) false true (D d d.isGZ) (S m m.isGKX) .un)
  | .waitAll h c m => some (ctl h 0x0A (satFn c 1) false true .un (S m m.isGKX) .un)
  | .waitMs h a ph => some (ctl h 0x0A 2 false true .un (S a a.isG) (S ph ph.isGKX))
  | .ffr h c d m => some (ctl h 0x0B (satFn c 0) false true (D d d.isG) (S m m.isGKX) .un)
  | .trapSys h c => some (ctl h 0x0C 0 true true .un (S c c.isGKX) .un)
  | .trapBrk h c => some (ctl h 0x0C 1 true true .un (S c c.isGKX) .un)
  | .trapretSame h => some (ctl h 0x0D 0 false true .un .un .un)
  | .trapretNext h => some (ctl h 0x0D 1 false true .un .un .un)
  | .abort h => some (ctl h 0x0E 0 false true .un .un .un)
  | .bsa h lt sl thr t => some (gw h 0x0F (fnBit lt 1) .un (slotS sl) (S thr thr.isGKX) (S t t.isKX))
  | .iadd h sat ty d a b => some (int2 h 0x10 (fnBit sat 1) ty ty.isI d a b)
  | .isub h sat ty d a b => some (int2 h 0x11 (fnBit sat 1) ty ty.isI d a b)
  | .imul h fn ty d a b =>
    some (intg h 0x12 fn.code ty (ty.isI && (fn ≠ .wide || ty.bits ≠ 64))
      (anyD h (if fn = .wide && ty.bits = 32 then 2 else ty.regs) d) (anyS h ty.regs a) (anyS h ty.regs b) .un)
  | .imad h ty d a b c =>
    some (intg h 0x13 0 ty ty.isI (anyD h ty.regs d) (anyS h ty.regs a) (anyS h ty.regs b) (anyS h ty.regs c))
  | .idiv h r ty d a b => some (int2 h 0x14 (fnBit r 1) ty ty.isI d a b)
  | .imin h ty d a b => some (int2 h 0x15 0 ty ty.isI d a b)
  | .imax h ty d a b => some (int2 h 0x16 0 ty ty.isI d a b)
  | .iabs h ty d a => some (int1 h 0x17 0 ty (ty.isI && ty.isSigned) d a)
  | .ineg h ty d a => some (int1 h 0x17 1 ty ty.isI d a)
  | .and h ty d a b => some (int2 h 0x18 0 ty ty.isIB d a b)
  | .or h ty d a b => some (int2 h 0x18 1 ty ty.isIB d a b)
  | .xor h ty d a b => some (int2 h 0x18 2 ty ty.isIB d a b)
  | .andn h ty d a b => some (int2 h 0x18 3 ty ty.isIB d a b)
  | .orn h ty d a b => some (int2 h 0x18 4 ty ty.isIB d a b)
  | .not h ty d a => some (int1 h 0x18 5 ty ty.isIB d a)
  | .shl h ty d a b => some (intg h 0x19 0 ty ty.isIB (anyD h ty.regs d) (anyS h ty.regs a) (anyS h 1 b) .un)
  | .shr h ty d a b => some (intg h 0x19 1 ty ty.isIB (anyD h ty.regs d) (anyS h ty.regs a) (anyS h 1 b) .un)
  | .sar h ty d a b => some (intg h 0x19 2 ty ty.isIB (anyD h ty.regs d) (anyS h ty.regs a) (anyS h 1 b) .un)
  | .rol h ty d a b => some (intg h 0x19 3 ty ty.isIB (anyD h ty.regs d) (anyS h ty.regs a) (anyS h 1 b) .un)
  | .popc h ty d a => some (int1 h 0x1A 0 ty ty.isIB d a)
  | .clz h ty d a => some (int1 h 0x1A 1 ty ty.isIB d a)
  | .ctz h ty d a => some (int1 h 0x1A 2 ty ty.isIB d a)
  | .brev h ty d a => some (int1 h 0x1A 3 ty ty.isIB d a)
  | .bfx h ty d a b c =>
    some (intg h 0x1B 0 ty ty.isI (anyD h ty.regs d) (anyS h ty.regs a) (anyS h 1 b) (anyS h 1 c))
  | .bfi h ty d a b c =>
    some (intg h 0x1C 0 ty ty.isIB (anyD h ty.regs d) (anyS h ty.regs a) (anyS h ty.regs b) (anyS h 1 c))
  | .sel h ty d a b c =>
    some (intg h 0x1D 0 ty ty.isIB (anyD h ty.regs d) (anyS h ty.regs a) (anyS h ty.regs b) (anyS h ty.regs c))
  | .icmp h fn ty d a b =>
    some (intg h 0x1E fn.code ty ty.isI (anyD h ty.regs d) (anyS h ty.regs a) (anyS h ty.regs b) .un)
  | .lea h ty d a b c =>
    some (intg h 0x1F 0 ty (ty.code = 2 || ty.code = 3) (anyD h 2 d) (anyS h 2 a) (anyS h 1 b) (S c (c.isKle 7)))
  | .mov h ty d a => some (int1 h 0x20 0 ty ty.isMem d a)
  | .movl h ty d a b => some (int2 h 0x21 0 ty ty.isI d a b)
  | .cvt h sat ty sty d a =>
    some (intg h 0x22 (satFn sat (sty.code % 8)) ty (ty.isI && sty.isI) (anyD h ty.regs d) (anyS h sty.regs a) .un .un)
  | .pack h ty d a b c =>
    some (intg h 0x23 0 ty ((4 ≤ ty.code && ty.code ≤ 7) || ty.code = 14) (anyD h 1 d) (anyS h 1 a) (anyS h 1 b)
      (anyS h 1 c))
  | .unpk h ty d a b =>
    some (intg h 0x23 1 ty ((4 ≤ ty.code && ty.code ≤ 7) || ty.code = 14) (anyD h 1 d) (anyS h 1 a) (anyS h 1 b) .un)
  | .idot4 h sat ty d a b c =>
    some { h, op := 0x24, fn := fnBit sat 1, ty := ty.code, g0 := true, g1 := false
           d := anyD h 1 d, s1 := anyS h 1 a, s2 := anyS h 1 b, s3 := anyS h 1 c, ok := ty.code = 6 || ty.code = 7 }
  | .movsRead h r d =>
    some (movsShape h r false (D d (if h.g then d.isGZ else d.isVO || d.isZ) r.regs) .un r.readable)
  | .movsWrite h r a =>
    some (movsShape h r true .un (anyS h r.regs a) (match r with | .exm | .wft => true | _ => false))
  | .tagclrWrite h a => some (movsShape h .tagclr true .un (anyS h 2 a) true)
  | .pand h d a b => some (ctl h 0x28 0 true true (pq h d) (pqs h a) (pqs h b))
  | .por h d a b => some (ctl h 0x28 1 true true (pq h d) (pqs h a) (pqs h b))
  | .pxor h d a b => some (ctl h 0x28 2 true true (pq h d) (pqs h a) (pqs h b))
  | .pnot h d a => some (ctl h 0x28 3 true true (pq h d) (pqs h a) .un)
  | .pmov h d a =>
    some (ctl h 0x28 4 true true
      (D d (if h.g then d.isQ else d.isP || (d.isG && a.isP)))
      (S a (if h.g then a.isQ else a.isP || (a.isG && d.isP))) .un)
  | .vote h fn d a =>
    some { h, op := 0x29, fn := fn.code, ty := 0, g0 := true, g1 := false
           d := D d (d.isVO || d.isG || (fn ≠ .ballot && (d.isP || d.isQ))), s1 := anyS h 1 a, s2 := .un, s3 := .un }
  | .shfl h fn ty d a b c =>
    some { h, op := 0x2A, fn := fn.code, ty := ty.code, g0 := true, g1 := false
           d := D d d.isVO ty.regs, s1 := S a a.isVOL ty.regs, s2 := anyS h 1 b, s3 := anyS h ty.regs c, ok := ty.isBU }
  | .permb h tbl d a b c =>
    some { h, op := 0x2B, fn := fnBit tbl 1, ty := 15, g0 := true, g1 := false
           d := D d d.isVO, s1 := S a a.isVOL
           s2 := if tbl then S b (b.isGX || b.isV) 2 else anyS h 1 b
           s3 := if tbl then S c (c.isGX || c.isV) 2 else anyS h 1 c }
  | .lscan h fn ex ty d a =>
    some { h, op := 0x2C, fn := satFn ex fn.code, ty := ty.code, g0 := true, g1 := false
           d := D d d.isVO ty.regs, s1 := anyS h ty.regs a, s2 := .un, s3 := .un
           ok := ty.isScan && (ty ≠ .f32 || fn.code < 3) }
  | .lred h fn ty d a =>
    some { h, op := 0x2D, fn := fn.code, ty := ty.code, g0 := true, g1 := false
           d := D d (d.isVO || d.isG) ty.regs, s1 := anyS h ty.regs a, s2 := .un, s3 := .un
           ok := ty.isScan && (ty ≠ .f32 || fn.code < 3) }
  | .lanexGet h ty d a b =>
    some { h, op := 0x2E, fn := 0, ty := ty.code, g0 := true, g1 := false
           d := D d d.isG, s1 := S a a.isVOL ty.regs, s2 := S b b.isGKX, s3 := .un, ok := ty.isBU }
  | .lanexPut h ty d a b =>
    some { h, op := 0x2E, fn := 1, ty := ty.code, g0 := true, g1 := false
           d := D d d.isVO ty.regs, s1 := S a a.isGKX, s2 := S b b.isGKX, s3 := .un, ok := ty.isBU }
  | .fadd h rm sat ty d a b => some (flt2 h 0x30 rm sat ty d a b)
  | .fsub h rm sat ty d a b => some (flt2 h 0x31 rm sat ty d a b)
  | .fmul h rm sat ty d a b => some (flt2 h 0x32 rm sat ty d a b)
  | .ffma h rm sat ty d a b c =>
    some (flt h 0x33 (satFn sat rm.code) ty (ty.isF3 && rm ≠ .rsr) (anyD h 1 d) (anyS h 1 a) (anyS h 1 b) (anyS h 1 c))
  | .fmin h ty d a b => some (flt h 0x34 0 ty ty.isF3 (anyD h 1 d) (anyS h 1 a) (anyS h 1 b) .un)
  | .fmax h ty d a b => some (flt h 0x35 0 ty ty.isF3 (anyD h 1 d) (anyS h 1 a) (anyS h 1 b) .un)
  | .fcmp h fn ty d a b =>
    some (flt h 0x36 fn.code ty ty.isF3 (D d (d.anyDst h.g || d.isG)) (anyS h 1 a) (anyS h 1 b) .un)
  | .fclass h ty d a =>
    some (flt h 0x37 0 ty (8 ≤ ty.code && ty.code ≤ 13) (anyD h 1 d) (anyS h 1 a) .un .un)
  | .frnd h rm ty d a => some (flt h 0x38 rm.code ty (ty.isF3 && rm ≠ .rsr) (anyD h 1 d) (anyS h 1 a) .un .un)
  | .fcvt h rm sat ty sty d a b =>
    some (flt h 0x39 (satFn sat rm.code) ty
      (ty.code ≤ 14 && sty.code ≤ 14 && (ty.isFloat || sty.isFloat))
      (anyD h ty.regs d) (anyS h sty.regs a)
      (S b (if rm = .rsr then (if h.g then b.isGKX else true) else b.isZ))
      (.raw (BitVec.ofNat 10 sty.code)))
  | .func h fn ty d a =>
    some { h, op := 0x3A, fn := fn.code, ty := ty.code, g0 := true, g1 := false
           d := anyD h 1 d, s1 := anyS h 1 a, s2 := .un, s3 := .un, ok := ty.code = 8 || ty.code = 10 }
  | .hfma2 h rm sat ty d a b c =>
    some { h, op := 0x3B, fn := satFn sat rm.code, ty := ty.code, g0 := true, g1 := false
           d := anyD h 1 d, s1 := anyS h 1 a, s2 := anyS h 1 b, s3 := anyS h 1 c
           ok := (ty.code = 9 || ty.code = 10) && rm ≠ .rsr }
  | .fdot4 h rm sat ty d a b c =>
    some { h, op := 0x3C, fn := satFn sat rm.code, ty := ty.code, g0 := true, g1 := false
           d := anyD h 1 d, s1 := anyS h 1 a, s2 := anyS h 1 b, s3 := anyS h 1 c
           ok := (ty.code = 11 || ty.code = 12) && rm ≠ .rsr }
  | .fabs h ty d a => some (flt h 0x3D 0 ty (8 ≤ ty.code && ty.code ≤ 13) (anyD h 1 d) (anyS h 1 a) .un .un)
  | .fneg h ty d a => some (flt h 0x3D 1 ty (8 ≤ ty.code && ty.code ≤ 13) (anyD h 1 d) (anyS h 1 a) .un .un)
  | .fcopysign h ty d a b =>
    some (flt h 0x3D 2 ty (8 ≤ ty.code && ty.code ≤ 13) (anyD h 1 d) (anyS h 1 a) (anyS h 1 b) .un)
  | .ld h ord sp ty d a b sc =>
    some { h, op := 0x40, fn := 4 * ord.code + sp.code, ty := ty.code, g0 := true, g1 := true
           d := loadD h ty.regs d, s1 := baseS h a, s2 := offS h b, s3 := scopeS (ord ≠ .rlx) sc
           ok := ty.isMem && (ord = .rlx || ord = .acq) && (ord ≠ .rlx || sc = .grp), late := true }
  | .st h ord sp ty d a b sc =>
    some { h, op := 0x41, fn := 4 * ord.code + sp.code, ty := ty.code, g0 := true, g1 := true
           d := anyS h ty.regs d, s1 := baseS h a, s2 := offS h b, s3 := scopeS (ord ≠ .rlx) sc
           ok := ty.isMem && (ord = .rlx || ord = .rel) && (ord ≠ .rlx || sc = .grp) }
  | .atom h fn ord scope sp ty d a b =>
    some { h, op := 0x42, fn := fn.code, ty := ty.code, g0 := true, g1 := true
           d := loadD h ty.regs d, s1 := atomAddr h a, s2 := atomOpd h fn ty b, s3 := .raw (atomCtl ord scope sp)
           ok := atomTy fn.code ty, late := !d.isZ }
  | .atomo h fn ty a b c =>
    some { h, op := 0x43, fn := fn.code, ty := ty.code, g0 := true, g1 := true
           d := .un, s1 := atomAddr h a, s2 := anyS h ty.regs b, s3 := anyS h 1 c, ok := atomTy fn.code ty }
  | .fence h ord sc => some (gw h 0x44 ord.code .un .un .un (scopeS true sc) (ord ≠ .rlx))
  | .pref h llc a b =>
    some { h, op := 0x45, fn := fnBit llc 1, ty := 0, g0 := true, g1 := true
           d := .un, s1 := baseS h a, s2 := offS h b, s3 := .un, calm := true }
  | .cmaintInv h a b => some { gw h 0x46 0 .un (S a a.isGX) (S b b.isGKX) .un with calm := true }
  | .cmaintInvall h => some (gw h 0x46 1 .un .un .un .un)
  | .tier h lp a b c => some (gw h 0x47 (fnBit lp 1) .un (S a a.isGX) (S b b.isGKX) (S c c.isGXZ))
  | .ersv h d a b => some { gw h 0x4C 0 (D d d.isQZ) (S a a.isGKX) (S b b.isGKX) .un with calm := true }
  | .erel h a => some { gw h 0x4D 0 .un (S a a.isGKX) .un .un with calm := true }
  | .edisc h a b => some (gw h 0x4E 0 .un (S a a.isGX) (S b b.isGKX) .un)
  | .emig h a b c => some (gw h 0x4F 0 .un (S a a.isGX) (S b b.isGKX) (S c c.isGKX))
  | .rmset h d a b c => some (gw h 0x6D 0 (D d d.isGZ) (S a a.isGX) (S b b.isGKX) (S c c.isGKXZ))
  | .rmsetGet h d a b => some (gw h 0x6D 1 (D d d.isGZ) (S a a.isGX) (S b b.isGKX) .un)
  | .rmrefInc h d a b => some (gw h 0x6E 0 (D d d.isGZ) (S a a.isGX) (S b b.isGKX) .un)
  | .rmrefDec h d a b => some (gw h 0x6E 1 (D d d.isGZ) (S a a.isGX) (S b b.isGKX) .un)
  | .rmrefGet h d a b => some (gw h 0x6E 2 (D d d.isGZ) (S a a.isGX) (S b b.isGKX) .un)
  | .rmrefSet h d a b c => some (gw h 0x6E 3 (D d d.isGZ) (S a a.isGX) (S b b.isGKX) (S c c.isGKXZ))
  | .msinit h kind rearm chunk d a b c =>
    some (gw h 0x50 (kind.code + fnBit rearm 4 + fnBit chunk 8) (S d d.isGZ) (S a a.isGX) (S b b.isGKXZ)
      (if chunk || kind = .join then S c c.isGX else S c c.isZ)
      ((!rearm || kind ≠ .future) && (!chunk || kind = .bytes)))
  | .msarrArr h rel d a b sc =>
    some (gw h 0x51 (fnBit rel 2) (D d d.isGZ) (S a a.isGX) (S b b.isGKX) (scopeS rel sc) (rel || sc = .grp))
  | .msarrExp h d a b => some (gw h 0x51 1 (D d d.isGZ) (S a a.isGX) (S b b.isGKX) .un)
  | .msbind h a b => some (gw h 0x52 0 .un (S a a.isGX) (S b (b.isG || b.isKle 63)) .un)
  | .msbindUnbind h a => some (gw h 0x52 1 .un (S a a.isGX) .un .un)
  | .msqry h field acq d a => some (gw h 0x53 (satFn acq field.code) (D d d.isG) (S a a.isGX) .un .un)
  | .trig h a b c => some (gw h 0x54 0 .un (S a a.isGX) (S b b.isGKX) (S c c.isGX))
  | .tdef h a b => some (gw h 0x55 0 .un (S a a.isGX) (S b b.isGKX) .un)
  | .tdefClr h b => some (gw h 0x55 1 .un .un (S b b.isGKX) .un)
  | .fres h a b => some (gw h 0x56 0 .un (S a a.isGX) (S b b.isGKXZ) .un)
  | .freg h d a b => some (gw h 0x57 0 (D d d.isQZ) (S a a.isGX) (S b b.isGX) .un)
  | .rst h ty d a b =>
    some { h, op := 0x58, fn := 0, ty := ty.code, g0 := true, g1 := true
           d := anyS h ty.regs d, s1 := remAddr h a, s2 := slotS b, s3 := .un, ok := ty.isMem }
  | .rred h fn ty d a b c =>
    some { h, op := 0x59, fn := fn.code, ty := ty.code, g0 := true, g1 := false
           d := anyS h ty.regs d, s1 := S a a.isGX, s2 := slotS b, s3 := S c c.isGX
           ok := ty.code < 4 || (ty.isF3 && fn.code < 3) }
  | .ratom h fn ty d a b c =>
    some { h, op := 0x5A, fn := fn.code, ty := ty.code, g0 := true, g1 := true
           d := loadD h ty.regs d, s1 := remAddr h a, s2 := atomOpd h fn ty b, s3 := slotS c
           ok := atomTy fn.code ty, late := !d.isZ, dRead := true }
  | .rld h ty d a b =>
    some { h, op := 0x5B, fn := 0, ty := ty.code, g0 := true, g1 := true
           d := D d (if h.g then d.isG else d.isV) ty.regs, s1 := remAddr h a, s2 := slotS b, s3 := .un
           ok := ty.isMem, late := true }
  | .rcopy h a b => some (gw h 0x5C 0 .un (slotS a) (S b b.isGX) .un)
  | .sabind h a b c => some (gw h 0x5D 0 .un (slotS a) (S b b.isGX) (S c c.isGXZ))
  | .sabindDst h a b => some (gw h 0x5D 1 .un (slotS a) (S b b.isGKX) .un)
  | .sabindClr h a => some (gw h 0x5D 2 .un (slotS a) .un .un)
  | .pcnt h d a => some (gw h 0x5E 0 (D d d.isG) (S a a.isGX) .un .un)
  | .qld h a b c => some (gw h 0x60 0 .un (S a a.isGXZ) (S b b.isGKX) (S c c.isGKX))
  | .qset h a => some (gw h 0x62 0 .un (S a a.isGKX) .un .un)
  | .qrs h ty d a b =>
    some { h, op := 0x61, fn := 0, ty := ty.code, g0 := true, g1 := false
           d := D d d.isVO, s1 := anyS h 1 a, s2 := anyS h 1 b, s3 := .un, ok := ty.code = 1 || ty.code = 8 }
  | .mma h a b => some (gw h 0x64 0 .un (S a a.isGKX) (S b b.isGX) .un (on := .ccOnly))
  | .mmaNew h d a b => some (gw h 0x64 1 (D d d.isG) (S a a.isGKX) (S b b.isGX) .un (on := .ccOnly))
  | .mmas h a b c => some (gw h 0x65 0 .un (S a a.isGKX) (S b b.isGX) (S c c.isGX) (on := .ccOnly))
  | .mmasNew h d a b c => some (gw h 0x65 1 (D d d.isG) (S a a.isGKX) (S b b.isGX) (S c c.isGX) (on := .ccOnly))
  | .accrel h a => some (gw h 0x66 0 .un (S a a.isGKX) .un .un (on := .ccOnly))
  | .accdr h ty d a b =>
    some { h, op := 0x67, fn := 0, ty := ty.code, g0 := true, g1 := false
           d := D d d.isV (if ty = .f32 then 2 else 1), s1 := S a a.isGKX, s2 := S b b.isGKX, s3 := .un
           ok := ty.code = 8 || ty.code = 10, on := .coreOnly, late := true }
  | .cmpsVal h ty d a =>
    some { h, op := 0x68, fn := 0, ty := ty.code, g0 := true, g1 := false
           d := D d d.isVO, s1 := S a a.isVO 2, s2 := .un, s3 := .un
           ok := ty.code = 6 || (9 ≤ ty.code && ty.code ≤ 14), on := .coreOnly }
  | .cmpsMeta h ty d a =>
    some { h, op := 0x68, fn := 1, ty := ty.code, g0 := true, g1 := false
           d := D d d.isVO, s1 := S a a.isVO 2, s2 := .un, s3 := .un
           ok := ty.code = 6 || (9 ≤ ty.code && ty.code ≤ 14), on := .coreOnly }
  | .cbdec h ty d a b =>
    some { h, op := 0x69, fn := 0, ty := ty.code, g0 := true, g1 := false
           d := D d d.isVO, s1 := anyS h 1 a, s2 := anyS h 1 b, s3 := .un
           ok := 8 ≤ ty.code && ty.code ≤ 11, on := .coreOnly }
  | .strmCnt h d a => some (gw h 0x6A 0 (D d d.isG) (S a a.isGKX) .un .un (on := .ccOnly))
  | .strmDrop h d a b => some (gw h 0x6A 1 (D d d.isGZ) (S a a.isGKX) (S b b.isGKX) .un (on := .ccOnly))
  | .cbld h a => some (gw h 0x6B 0 .un (S a a.isGX) .un .un (on := .ccOnly))
  | .launch h d a => some (gw h 0x70 0 (D d d.isGZ) (S a a.isGX) .un .un)
  | .rgrow h a => some (gw h 0x71 0 .un (S a (a.isGX || a.isKle 127)) .un .un (on := .coreOnly))
  | .rshrk h a => some (gw h 0x72 0 .un (S a (a.isGX || a.isKle 127)) .un .un (on := .coreOnly))
  | .probe h a => some (gw h 0x73 0 .un (S a a.isG) .un .un)
  | .qrsStateLoad _ | .accdrRead _ | .legIssue _ _ | .dmodeTimeshareSwitch _ | .loadDataLands _ | .probeTimer _
  | .probeHop _ | .teamAdmit _ | .stealMessage _ | .stealHandover _ | .groupRelease _ | .teamRetire _ _
  | .launchRetire _ _ | .abortDiscardDone _ _ | .switchOutComplete _ _ | .pageMigration _ | .tierPageMove _
  | .tierComplete _ | .emberLineEvict _ | .atomoArrival _ | .atomoResend _ | .startResend _ | .copyBegin _ _
  | .copyComplete _ | .tostreamTileEnter _ _ | .matrixStepBegin _ | .matrixStepComplete _ | .allowanceReturn _ _ _
  | .rcopySegment _ | .switchCopy _ _ | .roundTimeout _ | .remoteLanding _ _ | .ackArrival _ _ | .remoteResponse _ _
  | .remoteTimeout _ | .laneSparing _ _ | .peerRejoin _ _ _ | .preemptDeadline _ | .contextSave _ | .launchMessage _
  | .ctxstart _ | .preempt _ | .unpreempt _ | .restore _ | .fill _ | .setdump _ | .ctxend _ | .mrtail _ _
  | .mrbase _ _ | .rqbase _ _ | .rqhead _ _ | .registerWrite _ _ _ | .deviceReset | .softError _ _ _
  | .selfTestDone _ _ _ | .fatalError _ _ | .powerSample _ _ | .powerAverage _ _ | .telemetryRefresh _
  | .acknowledgementTimeout _ | .copyRowLanded _ | .hostWriteToDeviceMemory _ _ | .fabricManagerAssignment _
  | .newImageOrRecord _ _ | .marginSampling _ _ _ => none
where
  /-- destination of predicate logic (07 R133) -/
  pq (h : Hdr) (o : Opd) : Fld := .dst o (if h.g then o.isQ else o.isP) 1
  /-- source of predicate logic -/
  pqs (h : Hdr) (o : Opd) : Fld := .src o (if h.g then o.isQ else o.isP) 1
  /-- FADD, FSUB, FMUL -/
  flt2 (h : Hdr) (op : Nat) (rm : Rm) (sat : Bool) (ty : Ty) (d a b : Opd) : Shape :=
    flt h op (satFn sat rm.code) ty (ty.isF3 && rm ≠ .rsr) (anyD h 1 d) (anyS h 1 a) (anyS h 1 b) .un

/-- A literal word is there exactly when a source names it (05 R67). -/
def Shape.litOk (s : Shape) : Bool :=
  s.h.lit.isSome == (s.d.isLit || s.s1.isLit || s.s2.isLit || s.s3.isLit)

/-- An FE bit is set only beside a main-file source (05 R66). -/
def Shape.feOk (s : Shape) : Bool :=
  (!s.h.fe1 || s.s1.isVSrc) && (!s.h.fe2 || s.s2.isVSrc) && (!s.h.fe3 || s.s3.isVSrc)

/-- The form exists (05 R92). -/
def Shape.formOk (s : Shape) : Bool := if s.h.g then s.g1 else s.g0

/-- Every operand has a kind that its entry lists and names an aligned register (05 R71, R93). -/
def Shape.opdsOk (s : Shape) : Bool := s.d.ok && s.s1.ok && s.s2.ok && s.s3.ok

/-- Words of an instruction, its literal included. -/
def Hdr.len (h : Hdr) : Nat := if h.lit.isSome then 2 else 1

end Sys2Proof
end

