-- ==== Sys2Proof/WellFormed.lean ====
section
/-! DEFINITION. When an instruction is one that a word can encode (05 R66, R67, R71, R92, R93). The checks themselves
stand with the encoding table in Sys2Proof/Machine/Shape.lean. -/

namespace Sys2Proof

/-- TY and FN are accepted, the form exists, every operand kind is listed and aligned, the literal and the FE bits are
where R66 and R67 allow them. A step of an engine, of the host or of the management controller has no word. -/
def Instr.wf (i : Instr) : Bool :=
  match i.shape with
  | none => false
  | some s => s.ok && s.formOk && s.opdsOk && s.litOk && s.feOk

end Sys2Proof
end

