-- ==== Sys2Proof/Decode.lean ====
section
/-! DEFINITION. The decoder, total on any words, and the encoder (05 R64 to R68, R92, R93; 07 R104, R105, R128, R140;
09 R160; 11 R203; 13 R266; 15 R290; 17 R309; 03 R60). A word decodes to an instruction exactly when that instruction is
well-formed and encodes to the same word, so a reserved field, an unlisted kind or a nonzero unused field is refused. -/

namespace Sys2Proof

/-- The bits [lo + len − 1 : lo] of a word, as a number. -/
def bitsOf (w : W64) (lo len : Nat) : Nat := w.toNat / 2 ^ lo % 2 ^ len

/-- The word of the fields of 05 R64. -/
def packWord (op fn ty g e pr pn fe d s1 s2 s3 : Nat) : W64 :=
  BitVec.ofNat 64 (op * 2 ^ 57 + fn * 2 ^ 53 + ty * 2 ^ 49 + g * 2 ^ 48 + e * 2 ^ 47 + pr * 2 ^ 44 + pn * 2 ^ 43
    + fe * 2 ^ 40 + d * 2 ^ 30 + s1 * 2 ^ 20 + s2 * 2 ^ 10 + s3)

/-- The PR field: 7 for no predicate (05 R64). -/
def Hdr.pr (h : Hdr) : Nat := match h.guard with | none => 7 | some (p, _) => p.val
/-- The PN field (05 R64). -/
def Hdr.pn (h : Hdr) : Nat := match h.guard with | none => 0 | some (_, n) => n.toNat
/-- The FE field (05 R64). -/
def Hdr.fe (h : Hdr) : Nat := h.fe1.toNat * 4 + h.fe2.toNat * 2 + h.fe3.toNat

/-- The words of an encoding row: the instruction word and its literal word (05 R64, R67). -/
def Shape.words (s : Shape) : W64 × Option W64 :=
  (packWord s.op s.fn s.ty s.h.g.toNat s.h.e.toNat s.h.pr s.h.pn s.h.fe s.d.bits.toNat
    s.s1.bits.toNat s.s2.bits.toNat s.s3.bits.toNat,
   s.h.lit)

/-- The words of an instruction; none for a step that no word encodes. -/
def encode (i : Instr) : Option (W64 × Option W64) := i.shape.map Shape.words

/-- The fields of a word, read one by one. -/
structure Raw where
  h : Hdr
  op : Nat
  fn : Nat
  ty : Ty
  d : Opd
  s1 : Opd
  s2 : Opd
  s3 : Opd
  /-- S3 as a number, for the instructions that hold it raw -/
  r3 : Nat

/-- MOVS, FCVT and ATOM hold a number in S3, which is no specifier (07 R128, 09 R160, 11 R203). -/
def rawS3 (op : Nat) : Bool := op == 0x25 || op == 0x39 || op == 0x42

/-- A source field names the literal specifier. -/
def namesLit (w : W64) : Bool :=
  bitsOf w 30 10 == 0x3FF || bitsOf w 20 10 == 0x3FF || bitsOf w 10 10 == 0x3FF
    || (!rawS3 (bitsOf w 57 7) && bitsOf w 0 10 == 0x3FF)

def Raw.of (w : W64) (lit : Option W64) : Raw :=
  { h :=
      { g := bitsOf w 48 1 = 1, e := bitsOf w 47 1 = 1
        guard := if bitsOf w 44 3 = 7 then none
          else some (⟨bitsOf w 44 3 % 7, Nat.mod_lt _ (by decide)⟩, bitsOf w 43 1 = 1)
        fe1 := bitsOf w 42 1 = 1, fe2 := bitsOf w 41 1 = 1, fe3 := bitsOf w 40 1 = 1, lit }
    op := bitsOf w 57 7, fn := bitsOf w 53 4, ty := Ty.ofCode (bitsOf w 49 4)
    d := Opd.ofBits (BitVec.ofNat 10 (bitsOf w 30 10)), s1 := Opd.ofBits (BitVec.ofNat 10 (bitsOf w 20 10))
    s2 := Opd.ofBits (BitVec.ofNat 10 (bitsOf w 10 10)), s3 := Opd.ofBits (BitVec.ofNat 10 (bitsOf w 0 10))
    r3 := bitsOf w 0 10 }

/-- The scope that a specifier stands for (12 R229). -/
def scopeOf : Opd → Scope
  | .k n => Scope.ofCode n.val
  | _ => .grp

/-- Control and BSA: OP 0x00 to 0x0F. -/
def buildCtl (r : Raw) : Option Instr :=
  match r.op with
  | 0x00 => some (.nop r.h)
  | 0x01 => some (.bra r.h r.s1)
  | 0x02 => some (.brg r.h r.s1)
  | 0x03 => some (.jmp r.h r.s1)
  | 0x04 => some (.call r.h r.d r.s1)
  | 0x05 => some (.ret r.h r.s1)
  | 0x06 => some (.loop r.h r.d r.s1)
  | 0x07 => some (if r.h.g then .exitG r.h else .exit r.h)
  | 0x08 => some (.bar r.h r.s1)
  | 0x09 => some (.yield r.h)
  | 0x0A => some (if r.fn % 8 = 0 then .waitAny r.h (8 ≤ r.fn) r.d r.s1
      else if r.fn % 8 = 1 then .waitAll r.h (8 ≤ r.fn) r.s1 else .waitMs r.h r.s1 r.s2)
  | 0x0B => some (.ffr r.h (8 ≤ r.fn) r.d r.s1)
  | 0x0C => some (if r.fn = 0 then .trapSys r.h r.s1 else .trapBrk r.h r.s1)
  | 0x0D => some (if r.fn = 0 then .trapretSame r.h else .trapretNext r.h)
  | 0x0E => some (.abort r.h)
  | 0x0F => some (.bsa r.h (r.fn = 1) r.s1 r.s2 r.s3)
  | _ => none

/-- Integer, logic and MOVS: OP 0x10 to 0x26. -/
def buildInt (r : Raw) : Option Instr :=
  match r.op with
  | 0x10 => some (.iadd r.h (r.fn = 1) r.ty r.d r.s1 r.s2)
  | 0x11 => some (.isub r.h (r.fn = 1) r.ty r.d r.s1 r.s2)
  | 0x12 => some (.imul r.h (MulFn.ofCode r.fn) r.ty r.d r.s1 r.s2)
  | 0x13 => some (.imad r.h r.ty r.d r.s1 r.s2 r.s3)
  | 0x14 => some (.idiv r.h (r.fn = 1) r.ty r.d r.s1 r.s2)
  | 0x15 => some (.imin r.h r.ty r.d r.s1 r.s2)
  | 0x16 => some (.imax r.h r.ty r.d r.s1 r.s2)
  | 0x17 => some (if r.fn = 0 then .iabs r.h r.ty r.d r.s1 else .ineg r.h r.ty r.d r.s1)
  | 0x18 => some (match r.fn with
    | 0 => .and r.h r.ty r.d r.s1 r.s2
    | 1 => .or r.h r.ty r.d r.s1 r.s2
    | 2 => .xor r.h r.ty r.d r.s1 r.s2
    | 3 => .andn r.h r.ty r.d r.s1 r.s2
    | 4 => .orn r.h r.ty r.d r.s1 r.s2
    | _ => .not r.h r.ty r.d r.s1)
  | 0x19 => some (match r.fn with
    | 0 => .shl r.h r.ty r.d r.s1 r.s2
    | 1 => .shr r.h r.ty r.d r.s1 r.s2
    | 2 => .sar r.h r.ty r.d r.s1 r.s2
    | _ => .rol r.h r.ty r.d r.s1 r.s2)
  | 0x1A => some (match r.fn with
    | 0 => .popc r.h r.ty r.d r.s1
    | 1 => .clz r.h r.ty r.d r.s1
    | 2 => .ctz r.h r.ty r.d r.s1
    | _ => .brev r.h r.ty r.d r.s1)
  | 0x1B => some (.bfx r.h r.ty r.d r.s1 r.s2 r.s3)
  | 0x1C => some (.bfi r.h r.ty r.d r.s1 r.s2 r.s3)
  | 0x1D => some (.sel r.h r.ty r.d r.s1 r.s2 r.s3)
  | 0x1E => some (.icmp r.h (Cmp.ofCode r.fn) r.ty r.d r.s1 r.s2)
  | 0x1F => some (.lea r.h r.ty r.d r.s1 r.s2 r.s3)
  | 0x20 => some (.mov r.h r.ty r.d r.s1)
  | 0x21 => some (.movl r.h r.ty r.d r.s1 r.s2)
  | 0x22 => some (.cvt r.h (8 ≤ r.fn) r.ty (Ty.ofCode (r.fn % 8)) r.d r.s1)
  | 0x23 => some (if r.fn = 0 then .pack r.h r.ty r.d r.s1 r.s2 r.s3 else .unpk r.h r.ty r.d r.s1 r.s2)
  | 0x24 => some (.idot4 r.h (r.fn = 1) r.ty r.d r.s1 r.s2 r.s3)
  | 0x25 => some (buildMovs r (SReg.ofCode (r.fn / 4 * 1024 + r.r3)))
  | 0x26 => some (.halt r.h)
  | _ => none
where
  buildMovs (r : Raw) (s : SReg) : Instr :=
    if r.fn % 2 = 0 then .movsRead r.h s r.d
    else if s = .tagclr then .tagclrWrite r.h r.s1 else .movsWrite r.h s r.s1

/-- Predicates, cross-lane and float: OP 0x28 to 0x3D. -/
def buildLaneFloat (r : Raw) : Option Instr :=
  match r.op with
  | 0x28 => some (match r.fn with
    | 0 => .pand r.h r.d r.s1 r.s2
    | 1 => .por r.h r.d r.s1 r.s2
    | 2 => .pxor r.h r.d r.s1 r.s2
    | 3 => .pnot r.h r.d r.s1
    | _ => .pmov r.h r.d r.s1)
  | 0x29 => some (.vote r.h (VoteFn.ofCode r.fn) r.d r.s1)
  | 0x2A => some (.shfl r.h (ShflFn.ofCode r.fn) r.ty r.d r.s1 r.s2 r.s3)
  | 0x2B => some (.permb r.h (r.fn = 1) r.d r.s1 r.s2 r.s3)
  | 0x2C => some (.lscan r.h (FoldFn.ofCode (r.fn % 8)) (8 ≤ r.fn) r.ty r.d r.s1)
  | 0x2D => some (.lred r.h (FoldFn.ofCode r.fn) r.ty r.d r.s1)
  | 0x2E => some (if r.fn = 0 then .lanexGet r.h r.ty r.d r.s1 r.s2 else .lanexPut r.h r.ty r.d r.s1 r.s2)
  | 0x30 => some (.fadd r.h (Rm.ofCode (r.fn % 8)) (8 ≤ r.fn) r.ty r.d r.s1 r.s2)
  | 0x31 => some (.fsub r.h (Rm.ofCode (r.fn % 8)) (8 ≤ r.fn) r.ty r.d r.s1 r.s2)
  | 0x32 => some (.fmul r.h (Rm.ofCode (r.fn % 8)) (8 ≤ r.fn) r.ty r.d r.s1 r.s2)
  | 0x33 => some (.ffma r.h (Rm.ofCode (r.fn % 8)) (8 ≤ r.fn) r.ty r.d r.s1 r.s2 r.s3)
  | 0x34 => some (.fmin r.h r.ty r.d r.s1 r.s2)
  | 0x35 => some (.fmax r.h r.ty r.d r.s1 r.s2)
  | 0x36 => some (.fcmp r.h (FCmp.ofCode r.fn) r.ty r.d r.s1 r.s2)
  | 0x37 => some (.fclass r.h r.ty r.d r.s1)
  | 0x38 => some (.frnd r.h (Rm.ofCode r.fn) r.ty r.d r.s1)
  | 0x39 => some (.fcvt r.h (Rm.ofCode (r.fn % 8)) (8 ≤ r.fn) r.ty (Ty.ofCode r.r3) r.d r.s1 r.s2)
  | 0x3A => some (.func r.h (FuncFn.ofCode r.fn) r.ty r.d r.s1)
  | 0x3B => some (.hfma2 r.h (Rm.ofCode (r.fn % 8)) (8 ≤ r.fn) r.ty r.d r.s1 r.s2 r.s3)
  | 0x3C => some (.fdot4 r.h (Rm.ofCode (r.fn % 8)) (8 ≤ r.fn) r.ty r.d r.s1 r.s2 r.s3)
  | 0x3D => some (match r.fn with
    | 0 => .fabs r.h r.ty r.d r.s1
    | 1 => .fneg r.h r.ty r.d r.s1
    | _ => .fcopysign r.h r.ty r.d r.s1 r.s2)
  | _ => none

/-- Memory, milestones and templates: OP 0x40 to 0x57. -/
def buildMem (r : Raw) : Option Instr :=
  match r.op with
  | 0x40 => some (.ld r.h (Order.ofCode (r.fn / 4)) (Space.ofCode (r.fn % 4)) r.ty r.d r.s1 r.s2 (scopeOf r.s3))
  | 0x41 => some (.st r.h (Order.ofCode (r.fn / 4)) (Space.ofCode (r.fn % 4)) r.ty r.d r.s1 r.s2 (scopeOf r.s3))
  | 0x42 => some (.atom r.h (AtomFn.ofCode r.fn) (Order.ofCode (r.r3 % 4)) (Scope.ofCode (r.r3 / 4 % 8))
      (Space.ofCode (r.r3 / 32 % 4)) r.ty r.d r.s1 r.s2)
  | 0x43 => some (.atomo r.h (FoldFn.ofCode r.fn) r.ty r.s1 r.s2 r.s3)
  | 0x44 => some (.fence r.h (Order.ofCode r.fn) (scopeOf r.s3))
  | 0x45 => some (.pref r.h (r.fn = 1) r.s1 r.s2)
  | 0x46 => some (if r.fn = 0 then .cmaintInv r.h r.s1 r.s2 else .cmaintInvall r.h)
  | 0x47 => some (.tier r.h (r.fn = 1) r.s1 r.s2 r.s3)
  | 0x4C => some (.ersv r.h r.d r.s1 r.s2)
  | 0x4D => some (.erel r.h r.s1)
  | 0x4E => some (.edisc r.h r.s1 r.s2)
  | 0x4F => some (.emig r.h r.s1 r.s2 r.s3)
  | 0x50 => some (.msinit r.h (MsKind.ofCode (r.fn % 4)) (r.fn / 4 % 2 = 1) (8 ≤ r.fn) r.d r.s1 r.s2 r.s3)
  | 0x51 => some (if r.fn = 1 then .msarrExp r.h r.d r.s1 r.s2
      else .msarrArr r.h (r.fn = 2) r.d r.s1 r.s2 (scopeOf r.s3))
  | 0x52 => some (if r.fn = 0 then .msbind r.h r.s1 r.s2 else .msbindUnbind r.h r.s1)
  | 0x53 => some (.msqry r.h (MsField.ofCode (r.fn % 8)) (8 ≤ r.fn) r.d r.s1)
  | 0x54 => some (.trig r.h r.s1 r.s2 r.s3)
  | 0x55 => some (if r.fn = 0 then .tdef r.h r.s1 r.s2 else .tdefClr r.h r.s2)
  | 0x56 => some (.fres r.h r.s1 r.s2)
  | 0x57 => some (.freg r.h r.d r.s1 r.s2)
  | _ => none

/-- Fabric, quasi-random, matrix, remap and launch: OP 0x58 to 0x73. -/
def buildSys (r : Raw) : Option Instr :=
  match r.op with
  | 0x58 => some (.rst r.h r.ty r.d r.s1 r.s2)
  | 0x59 => some (.rred r.h (FoldFn.ofCode r.fn) r.ty r.d r.s1 r.s2 r.s3)
  | 0x5A => some (.ratom r.h (AtomFn.ofCode r.fn) r.ty r.d r.s1 r.s2 r.s3)
  | 0x5B => some (.rld r.h r.ty r.d r.s1 r.s2)
  | 0x5C => some (.rcopy r.h r.s1 r.s2)
  | 0x5D => some (match r.fn with
    | 0 => .sabind r.h r.s1 r.s2 r.s3
    | 1 => .sabindDst r.h r.s1 r.s2
    | _ => .sabindClr r.h r.s1)
  | 0x5E => some (.pcnt r.h r.d r.s1)
  | 0x60 => some (.qld r.h r.s1 r.s2 r.s3)
  | 0x61 => some (.qrs r.h r.ty r.d r.s1 r.s2)
  | 0x62 => some (.qset r.h r.s1)
  | 0x64 => some (if r.fn = 0 then .mma r.h r.s1 r.s2 else .mmaNew r.h r.d r.s1 r.s2)
  | 0x65 => some (if r.fn = 0 then .mmas r.h r.s1 r.s2 r.s3 else .mmasNew r.h r.d r.s1 r.s2 r.s3)
  | 0x66 => some (.accrel r.h r.s1)
  | 0x67 => some (.accdr r.h r.ty r.d r.s1 r.s2)
  | 0x68 => some (if r.fn = 0 then .cmpsVal r.h r.ty r.d r.s1 else .cmpsMeta r.h r.ty r.d r.s1)
  | 0x69 => some (.cbdec r.h r.ty r.d r.s1 r.s2)
  | 0x6A => some (if r.fn = 0 then .strmCnt r.h r.d r.s1 else .strmDrop r.h r.d r.s1 r.s2)
  | 0x6B => some (.cbld r.h r.s1)
  | 0x6D => some (if r.fn = 0 then .rmset r.h r.d r.s1 r.s2 r.s3 else .rmsetGet r.h r.d r.s1 r.s2)
  | 0x6E => some (match r.fn with
    | 0 => .rmrefInc r.h r.d r.s1 r.s2
    | 1 => .rmrefDec r.h r.d r.s1 r.s2
    | 2 => .rmrefGet r.h r.d r.s1 r.s2
    | _ => .rmrefSet r.h r.d r.s1 r.s2 r.s3)
  | 0x70 => some (.launch r.h r.d r.s1)
  | 0x71 => some (.rgrow r.h r.s1)
  | 0x72 => some (.rshrk r.h r.s1)
  | 0x73 => some (.probe r.h r.s1)
  | _ => none

/-- The instruction that the fields read as, before the comparison with the encoding. A field that no entry lists is
read as something else here, and refused by that comparison. -/
def build (r : Raw) : Option Instr :=
  if r.op < 0x10 then buildCtl r
  else if r.op < 0x27 then buildInt r
  else if r.op < 0x40 then buildLaneFloat r
  else if r.op < 0x58 then buildMem r
  else buildSys r

/-- An instruction word with the word after it, for its literal (05 R67). None is ILL at decode (05 R93) for the word's
own fields; the site, block and leg rules are checked where the word executes. -/
def decode (w : W64) (after : Option W64) : Option Instr :=
  let lit := if namesLit w then after else none
  if namesLit w && after.isNone then none
  else match build (Raw.of w lit) with
    | none => none
    | some i => if i.wf && encode i == some (w, lit) then some i else none

/-- Little-endian value of bytes (00 R3). -/
def leNat : List Byte → Nat
  | [] => 0
  | b :: bs => b.toNat + 256 * leNat bs

/-- The n low bytes of a number, lowest first. -/
def leBytes : Nat → Nat → List Byte
  | 0, _ => []
  | n + 1, x => BitVec.ofNat 8 x :: leBytes n (x / 256)

/-- Decoding bytes: the instruction and the bytes after it. -/
def decodeBytes (bs : List Byte) : Option (Instr × List Byte) :=
  if bs.length < 8 then none
  else
    let w := BitVec.ofNat 64 (leNat (bs.take 8))
    let rest := bs.drop 8
    let after := if rest.length < 8 then none else some (BitVec.ofNat 64 (leNat (rest.take 8)))
    match decode w after with
    | none => none
    | some i => some (i, if namesLit w then rest.drop 8 else rest)

/-- The bytes of an instruction's words. -/
def encodeBytes (i : Instr) : List Byte :=
  match encode i with
  | none => []
  | some (w, lit) => leBytes 8 w.toNat ++ (match lit with | none => [] | some x => leBytes 8 x.toNat)

/-- The instruction that the decoder reads from the words numbered as spec/opcode_table.json numbers them: the first
word is the low 64 bits, the literal word the next 64, and every bit at or above nbits is 0. -/
def decodeTableWord (nbits w : Nat) : Option Instr :=
  match decodeBytes (leBytes 16 (w % 2 ^ nbits)) with
  | none => none
  | some (i, _) => some i

end Sys2Proof
end

