-- ==== Sys2Proof/Machine/State.lean ====
section
/-! DEFINITION. The state of one BKD-7400 package as plain data, and the state after reset. INVENTORY.md lists every
field with the rule that names it. The one State holds every agent; `agenda` says which one moves next (DESIGN CHOICE, log 2). -/

namespace Sys2Proof.Machine

/-- A reason to stop with a fault. -/
inductive Fault where
  /-- an instruction word is executed while no group is issuing; raised by `exec` alone, never by `step`, which always
  names a group. Safe: no hardware does this. -/
  | noGroup
  deriving DecidableEq, Repr

/-- A reason to refuse. -/
inductive Refusal where
  /-- an instruction that has no meaning in the model yet. Raised by an arm of `exec`. Safe: the run ends. -/
  | notModelled (mnemonic : String)
  deriving DecidableEq, Repr

/-- One 32-bit register over the 32 lanes of a group. -/
abbrev Row := List W32

/-- The causes of 19 R330, with their codes in `Cause.code`. -/
inductive Cause where
  | none | ill | brt | legempty | empty | align | prot | pattern | dres | mserr | tmpl | qrsdim | ftvbad | accslot
  | nest | rstack | vovf | sys | brk | deadlock | uncorr | window
  deriving DecidableEq, Repr

/-- A trap: its cause and what %tinfo and %tlane receive (07 R132, 19 R331). -/
structure Trap where
  cause : Cause
  info : W64 := 0
  lanes : W32 := 0
  deriving DecidableEq, Repr

/-- An entry of the reconvergence stack (05 R89). -/
structure RcEntry where
  addr : W64
  mask : W32
  path : Bool
  deriving DecidableEq, Repr

/-- The block that is executing: the address of its signpost and the signpost word (05 R83). -/
structure Block where
  addr : W64
  word : W64
  deriving DecidableEq, Repr

/-- What a switched-out team waits for (11 R192, R219, R226, 19 R337). -/
inductive Miss where
  | page (ia : Nat)
  /-- the ember backing pool of the one who waits -/
  | ember
  | freeList (ia : Nat)
  | pool (pos : Nat)
  deriving DecidableEq, Repr

/-- Where bytes stand: at an offset of a cluster's scratch window, at an IA of a context, or at an offset of the saved
share of a switched-out team (19 R338). -/
inductive Loc where
  | win (cluster off : Nat)
  | mem (ctx ia : Nat)
  | img (ctx : Nat) (task : W64) (off : Nat)
  deriving DecidableEq, Repr

/-- The format block of a step, as read (15 R282). -/
structure FmtBlock where
  afmt : Nat
  bfmt : Nat
  abl : Nat
  bbl : Nat
  deriving DecidableEq, Repr

/-- A queued matrix step (15 R278, R291). -/
structure MStep where
  id : Nat
  ctx : Nat
  gid : GroupId
  slot : Nat
  fmt : FmtBlock
  ascale : List Byte
  bscale : List Byte
  /-- metadata of MMAS; none for MMA -/
  mdata : Option (List Byte)
  /-- the step has begun -/
  begun : Bool := false
  deriving DecidableEq, Repr

/-- A launch record (03 R32). -/
structure LRec where
  code : W64
  params : W64
  x : Nat
  y : Nat
  z : Nat
  groups : Nat
  regs : Nat
  regmax : Nat
  prio : Nat
  dmode : Bool
  control : Bool
  vectorOnly : Bool
  scratch : Nat
  depms : W64
  depphase : Nat
  ftv : W32
  donems : W64
  resolves : W64
  handler : W64
  deriving DecidableEq, Repr

/-- Why a group is parked (03 R47, 15 R276), with what its wake-up tests. -/
inductive Park where
  | bar (n : Nat)
  | waitAny (mask : W64) (clr : Bool) (d : Opd)
  | waitAll (mask : W64) (clr : Bool)
  | waitMs (ref : W64) (phase : Nat)
  | allowance (slot cost : Nat)
  | rgrow (n : Nat)
  | triggers
  /-- the destination and the copied record of a LAUNCH that waits for a launch-table entry (03 R61) -/
  | launches (d : Opd) (r : LRec)
  | unit (u : Nat)
  | accslot (u : Nat) (d : Opd) (st : MStep)
  | steps (u : Nat) (st : MStep)
  | drop (u : Nat)
  | cbld (ids : List Nat) (a : W64)
  | probe
  deriving DecidableEq, Repr

/-- Where a group stands in its life. -/
inductive GSt where
  | ready
  /-- its leg is in this issue slot -/
  | issuing (slot : Nat)
  | parked (why : Park)
  /-- saved with its team's image; what it was parked on is kept, for its barrier arrival (19 R339) and for probes (03 R59) -/
  | saved (why : Option Park)
  /-- exited, waiting for its outstanding loads (07 R111) -/
  | exited
  deriving DecidableEq, Repr

/-- The trap save of a group (19 R331). -/
structure TrapSave where
  exm : W32
  stack : List RcEntry
  spill : Nat
  o : List (Option Row)
  l : List (Option (List W64))
  legPos : Nat
  block : Option Block
  /-- address of the word after the trapping instruction and its literal, and that instruction's E -/
  next : W64
  e : Bool
  /-- resume point of a trap raised after issue -/
  resume : Option W64
  /-- instructions that are still to be issued once more before the resume point (07 R119) -/
  reissue : List W64
  /-- traps raised after issue that were still to be taken (07 R146) -/
  pend : List (W64 × Trap)
  /-- operand-file entries that are uncorrectable (19 R348) -/
  bad : List Opd
  deriving DecidableEq, Repr

/-- A group (03 R31, R36). -/
structure Group where
  id : GroupId
  site : Site
  st : GSt
  /-- window: 32-bit registers v0 … of 32 lanes, with their full bits -/
  v : List Row
  full : List Bool
  o : List (Option Row)
  l : List (Option (List W64))
  g : List W64
  p : List W32
  q : List Bool
  exm : W32
  /-- hardware entries of the reconvergence stack, top first -/
  stack : List RcEntry
  /-- the spill area it took, and the number of its spilled entries (05 R91, 19 R335) -/
  area : Option Nat
  spill : Nat
  pc : W64
  /-- none: an arrival at pc is still to be made (05 R84) -/
  block : Option Block
  /-- instructions of the leg already executed -/
  legPos : Nat
  tcause : Cause
  tpc : W64
  tmask : Bool
  tinfo : W64
  tlane : W32
  tsave : Option TrapSave
  /-- traps raised after issue and not yet taken, with the addresses of their instructions, in order -/
  pend : List (W64 × Trap)
  /-- instructions that TRAPRET.same issues once more before the group goes on at pc, the next first (07 R119) -/
  reissue : List W64
  /-- it has arrived at CODE (03 R34, 05 R84) -/
  started : Bool
  ric : W64
  wft : W32
  ftv : W32
  /-- it was eligible, or in a slot, at the end of the last step -/
  elig : Bool
  /-- cycle since which that has not changed -/
  since : Nat
  /-- cycle of its next probe -/
  probeAt : Nat
  /-- order of parking -/
  seq : Nat
  /-- a slot of a unit that a .new has been granted and not yet queued a step on (15 R288) -/
  granted : Option (Nat × Nat)
  /-- words and E of the instruction on which it is parked -/
  ilen : Nat
  ie : Bool
  /-- the window that a pending RGROW asks for; 0 when none is pending -/
  want : Nat
  /-- main-file, operand-file and group-wide registers that are uncorrectable (19 R348) -/
  bad : List Opd
  deriving DecidableEq, Repr

/-- Why a team is being switched out (19 R337). -/
inductive Leave where
  | missing | rdeadlock | disabled | timeshare | preempt
  deriving DecidableEq, Repr

/-- Where a team stands. -/
inductive TSt where
  /-- in its distributor's queue: unstarted, or to be restored -/
  | queued
  /-- handed over by a steal, on its way -/
  | moving
  | resident
  /-- step 1 to 3 of a switch-out -/
  | leaving (why : Leave)
  /-- out, waiting for fills -/
  | out
  /-- an abort's discard is under way, with the trap record's TYPE and the record -/
  | aborting (report : List Byte)
  /-- its last group has exited: its last publish waits for pages (03 R364) -/
  | retiring
  deriving DecidableEq, Repr

/-- What a restore knows of the PHASE of a milestone at the save of a team that bound it (13 R255). -/
inductive Since where
  /-- it is not the milestone that the team bound -/
  | other
  /-- its page was missing at the save -/
  | unknown
  | phase (n : Nat)
  deriving DecidableEq, Repr

/-- A binding that moves from one site to another; the tag is set there where PHASE has changed since the save (13 R255). -/
structure Moved where
  old : Site
  new : Site
  since : Since
  deriving DecidableEq, Repr

/-- An update that the device makes to a milestone (13 R248 to R252). -/
inductive MsUpd where
  /-- sets ERR when it is 0 and the code is not, then arrives n -/
  | arrive (n : Nat) (err : Nat)
  /-- sets ERR and makes no arrival -/
  | fail (err : Nat)
  /-- a launch's resolve (03 R39) -/
  | resolve (v : W64) (err : Nat)
  /-- a copy or tier move of so many bytes completes -/
  | done (bytes : Nat)
  /-- raises EXPECT -/
  | expect (n : Nat)
  /-- a copy has landed these ranges (first byte, length), the latest first, in window form or in global form; chunks that the
  first `old` of them complete have been set before -/
  | chunks (win : Bool) (ranges : List (Nat × Nat)) (old : Nat)
  /-- the bindings of a tag move, all at once -/
  | rebind (tag : Nat) (moves : List Moved)
  deriving DecidableEq, Repr

/-- A write or milestone update held back for a switched-out team, at an offset of its share (19 R338). -/
inductive Held where
  | bytes (off : Nat) (bs : List Byte)
  | upd (off : Nat) (u : MsUpd)
  /-- the milestone as an instruction of another team leaves it, with whether that flips it, or initialises it -/
  | put (off : Nat) (bs : List Byte) (flip init : Bool)
  deriving DecidableEq, Repr

/-- What a wait of the device for a page ends with: the page's FILL (11 R192), or else the end of its migration or a lifted fence (11
R197; 19 R347). -/
structure Hold where
  page : Nat
  fill : Bool
  deriving DecidableEq, Repr

/-- A milestone update that waits for its page: a reference named in the window of a cluster (13 R250; 11 R192, R197). -/
structure LateUpd where
  ctx : Nat
  task : W64
  cluster : Nat
  ref : W64
  upd : MsUpd
  hold : Hold
  deriving DecidableEq, Repr

/-- A team (03 R31). -/
structure Team where
  ctx : Nat
  task : W64
  serial : W32
  idx : Nat
  /-- cluster whose distributor holds or placed it -/
  cluster : Nat
  st : TSt
  /-- scratchpad share: device-wide core number and offset in the core -/
  share : Option (Nat × Nat)
  /-- it has run before, and its groups are saved -/
  requeued : Bool
  /-- order of admission -/
  admitted : Nat
  missing : List Miss
  /-- version bytes by IA, addresses rising (03 R49) -/
  version : List Host.Cell
  /-- words of the version, by IA / 8, that are uncorrectable (19 R348) -/
  verBad : List Nat
  /-- lines of the version that stand in the spill area, each with its entry there (03 R52) -/
  spilled : List (Nat × Nat)
  /-- share, its saved bytes, and what was held back, while out -/
  former : Option (Nat × Nat)
  image : List Byte
  held : List Held
  frames : List Nat
  /-- milestone bindings that its groups made: site, tag, reference, PHASE at the save, none while that is unknown (13 R255) -/
  binds : List (Site × Nat × W64 × Option Nat)
  /-- while it is out, the cluster from which it was saved, or onto which that maps (13 R255, 19 R345) -/
  window : Nat
  /-- must be restored to this core and offset (19 R345) -/
  pinned : Option (Nat × Nat)
  /-- saved with its context -/
  away : Bool
  /-- rotation position of its logical core: the group whose turn comes next (03 R55, 20 R351) -/
  turn : Nat
  /-- the group whose leg has begun and not ended (03 R55) -/
  inLeg : Option Nat
  deriving DecidableEq, Repr

/-- A version line that stands in its slice: context, task, line address (03 R52). -/
structure VLine where
  ctx : Nat
  task : W64
  line : Nat
  deriving DecidableEq, Repr

/-- Whether the dependency of a launch has been met (03 R38). -/
inductive Dep where | waiting | met | cancelled
  deriving DecidableEq, Repr

/-- An accepted launch that has not retired (03 R37). -/
structure Launch where
  ctx : Nat
  serial : W32
  lrec : LRec
  depth : Nat
  parent : Option W32
  dep : Dep
  aborted : Bool
  /-- teams not yet retired -/
  left : Nat
  /-- retirement steps done: 0 none, 2 arrived at DONEMS, 3 resolved RESOLVES -/
  step : Nat
  /-- what the test of DEPMS (03 R38) or a retirement step waits for -/
  waits : List Miss
  deriving DecidableEq, Repr

/-- A range register (11 R187). -/
structure Range where
  base : W64
  limit : W64
  target : W64
  attr : W64
  deriving DecidableEq, Repr

/-- A dimension of the quasi-random tables (09 R178). -/
structure QDim where
  dir : List W32
  row : List W32
  shift : W32
  deriving DecidableEq, Repr

/-- The binding of a send-allowance slot (17 R306). -/
structure Binding where
  pat : W64
  ms : W64
  /-- the cluster in whose window SABIND named the milestone -/
  cluster : Nat
  dst : Nat
  deriving DecidableEq, Repr

/-- A next hop of a send-allowance slot (17 R307): its switch, the buffer space that it grants, the costs deducted for data that
has not left its buffer, and those of data that it has passed on since costs last returned; in units of 256 bytes. -/
structure Credit where
  hop : Nat
  grant : Nat
  owed : Nat
  passed : Nat
  deriving DecidableEq, Repr

/-- Whether a context is on its partition (19 R343). -/
inductive CSt where | resident | saving | saved
  deriving DecidableEq, Repr

/-- A context (01 R29, 19 R336). -/
structure Ctx where
  no : Nat
  /-- the function that owns it -/
  fn : Nat
  /-- the partition it runs on -/
  part : Nat
  st : CSt
  /-- physical address of its context record -/
  recAddr : Nat
  migt : Nat
  rsent : Nat
  rsareas : Nat
  ptroot : Nat
  rsbase : Nat
  vsbase : Nat
  vsbytes : Nat
  /-- RING and SIZE of the HBM pools by cluster position, of the LPDDR pool and of the ember backing pool, as read with the
  record (11 R194, 19 R336) -/
  pools : List (Nat × Nat)
  ranges : List Range
  /-- the next launch serial -/
  serial : W32
  /-- defined templates by index -/
  templates : List (Nat × List Byte)
  codebook : List W32
  qdims : List QDim
  qn : Nat
  scramble : Bool
  /-- bound slots by number -/
  slots : List (Nat × Binding)
  /-- the next hops of each slot -/
  credits : List (List Credit)
  prq : Bool
  /-- cycle at which %pdl reaches 0 -/
  pdlAt : Nat
  /-- ember reservation by cluster position -/
  ember : List Nat
  /-- the saved image can be restored onto its own partition only -/
  bound : Bool
  /-- bindings that groups of retired teams made: tag, cluster and reference (13 R255) -/
  binds : List (Nat × Nat × W64)
  deriving DecidableEq, Repr

/-- Which registers a load fills. -/
inductive LDst where
  | v (n regs : Nat)
  | g (n : Nat)
  | none
  deriving DecidableEq, Repr

/-- How a load ends. -/
inductive LKind where
  /-- memory and ATOM: the values were read at issue; `bad` is there when some met uncorrectable data, with the
  lanes that a trap reports -/
  | mem (vals : List (Nat × W64)) (bad : Option W32)
  /-- ACCDR: read at the unit (15 R293) -/
  | acc (unit slot row : Nat) (lanes : List Nat) (bf : Bool)
  /-- RLD and RATOM: a response is awaited until a cycle (17 R322); `lanes` are those that asked -/
  | remote (ty : Ty) (g1 : Bool) (ms : W64) (cluster : Nat) (addrs : List (Nat × W64)) (until_ : Nat)
  deriving DecidableEq, Repr

/-- An outstanding load, atomic, remote read or drain (05 R77). -/
structure Load where
  id : Nat
  gid : GroupId
  pc : W64
  dst : LDst
  kind : LKind
  deriving DecidableEq, Repr

/-- Where an ordered contribution stands (11 R207, R208). -/
inductive OSt where | sent | refused | buffered
  deriving DecidableEq, Repr

/-- An ATOMO contribution (11 R207). -/
structure Ordered where
  id : Nat
  gid : GroupId
  cluster : Nat
  slice : Nat
  ia : Nat
  op : FoldFn
  ty : Ty
  val : W64
  rank : W32
  st : OSt
  deriving DecidableEq, Repr

/-- Where a start stands (13 R257). -/
inductive SSt where | refused | queued
  deriving DecidableEq, Repr

/-- A start of a template (13 R256, R257, 17 R323). -/
structure Start where
  id : Nat
  ctx : Nat
  /-- the group whose later starts follow it; none for a trigger's start -/
  gid : Option GroupId
  task : W64
  cluster : Nat
  channel : Nat
  idx : Nat
  /-- the template, as copied at acceptance -/
  tmpl : List Byte
  param : W32
  vectorOnly : Bool
  /-- the slot and its binding, for RCOPY -/
  remote : Option (Nat × Binding)
  st : SSt
  /-- what it waits for at its begin -/
  waits : List Miss := []
  deriving DecidableEq, Repr

/-- A copy that has begun (13 R260). -/
structure Copy where
  id : Nat
  start : Start
  /-- rows landed, or handed to the port -/
  row : Nat
  /-- bytes of the current row already sent, for RCOPY -/
  sent : Nat
  waits : List Miss
  /-- it stopped at an access with this error -/
  err : Nat
  /-- its first rows, whose chunks it has set (13 R252) -/
  marked : Nat := 0
  deriving DecidableEq, Repr

/-- A trigger entry (13 R264). -/
structure Trigger where
  id : Nat
  ctx : Nat
  cluster : Nat
  loc : Loc
  ref : W64
  phase : Nat
  idx : Nat
  param : W32
  channel : Nat
  task : W64
  vectorOnly : Bool
  /-- what has come of it while the trigger table is fenced: it fires, or is cancelled (19 R347) -/
  fate : Option Bool := none
  deriving DecidableEq, Repr

/-- A JOIN launch that waits for its record's page, or for a launch-table entry (13 R250). -/
structure Join where
  ctx : Nat
  addr : W64
  hold : Option Hold
  deriving DecidableEq, Repr

/-- An FRES that has claimed its future and not yet resolved it (13 R273). -/
structure Claim where
  loc : Loc
  gid : GroupId
  /-- no MSINIT has ended it -/
  live : Bool
  deriving DecidableEq, Repr

/-- Class of an accumulator element (09 R174). -/
inductive EClass where | fin | pinf | ninf | nan
  deriving DecidableEq, Repr

/-- An accumulator slot (09 R174, 15 R288, R289): its context, none when free; the elements in row order, the empty list
standing for 8,192 finite zeros. -/
structure Slot where
  ctx : Option Nat
  /-- released: the identifiers of the steps that were queued on it before -/
  wait : Option (List Nat)
  e : Int
  elems : List (EClass × Int)
  /-- rows that are uncorrectable (19 R348) -/
  bad : List Nat := []
  deriving DecidableEq, Repr

/-- A position of an operand stream (13 R262). -/
structure TilePos where
  ctx : Nat
  /-- the copy that fills it; 0 once the tile has entered -/
  copy : Nat
  esize : Nat
  bytes : List Byte
  whole : Bool
  entered : Bool
  deriving DecidableEq, Repr

/-- A matrix unit (15 R277 to R280). -/
structure MUnit where
  slots : List Slot
  steps : List MStep
  a : List TilePos
  b : List TilePos
  deriving DecidableEq, Repr

/-- A line of a core's L1 (11 R198 to R200): context, line address, its bytes as last brought in, whether its page is of
kind C, and its uncorrectable words. -/
structure L1Line where
  core : Nat
  ctx : Nat
  line : Nat
  bytes : List Byte
  coherent : Bool
  bad : List Nat
  deriving DecidableEq, Repr

/-- An ember line held in the slices of a cluster (11 R216). -/
structure Ember where
  ctx : Nat
  cluster : Nat
  line : Nat
  bytes : List Byte
  /-- its uncorrectable words (19 R348) -/
  bad : List Nat := []
  deriving DecidableEq, Repr

/-- A migration under way (11 R196): at most one of a page. -/
structure Migration where
  ctx : Nat
  page : Nat
  cluster : Nat
  deriving DecidableEq, Repr

/-- A tier move under way (11 R214). -/
structure Tier where
  id : Nat
  ctx : Nat
  task : W64
  cluster : Nat
  lp : Bool
  pages : List Nat
  ms : W64
  bytes : Nat
  /-- the ERR it sets at the end; 0 = it arrives -/
  err : Nat
  /-- what its completion waits for -/
  waits : List Miss := []
  deriving DecidableEq, Repr

/-- The logical core that a physical core keeps resident; the group on which its rotation waits, and since which cycle
(03 R55, R56). -/
structure Hosting where
  core : Nat
  lcore : Nat
  waits : Option (Nat × Nat)
  /-- its team has retired: the core turns to its next logical core with work (03 R56) -/
  done : Bool
  deriving DecidableEq, Repr

/-- A wait-for probe (03 R59, R63): where it goes next, and the identifiers visited. -/
structure Probe where
  id : Nat
  origin : GroupId
  target : W64
  hops : List W64
  /-- sent by PROBE -/
  byInstr : Bool
  deriving DecidableEq, Repr

/-- A steal message, and its answer (03 R43). -/
structure Steal where
  id : Nat
  ctx : Nat
  serial : W32
  asker : Nat
  asked : Nat
  /-- the tasks handed over; none while the message is under way -/
  answer : Option (List W64)
  deriving DecidableEq, Repr

/-- A request for registers (03 R45). -/
structure GrowReq where
  gid : GroupId
  n : Nat
  deriving DecidableEq, Repr

/-- A milestone that a group of a core last bound to one of the core's tags (13 R255). -/
structure TagRef where
  site : Site
  tag : Nat
  ref : W64
  gid : GroupId
  deriving DecidableEq, Repr

/-- What an operation waits for at the sender (17 R325, R329). -/
structure Await where
  tag : Nat
  ctx : Nat
  /-- the slot's milestone reference and the cluster whose window it names -/
  ms : W64
  cluster : Nat
  /-- destinations that have not acknowledged -/
  from_ : List (List Nat)
  /-- none until the operation has been sent whole -/
  until_ : Option Nat
  deriving DecidableEq, Repr

/-- A copy of an operation under way in the fabric (17 R327). -/
structure FCopy where
  /-- the sender's partition -/
  part : Nat
  /-- the switch it has reached, and the device-side port by which it came there, none for the outward port; none at the
  sender's own port -/
  at_ : Option (Nat × Option Nat)
  reach : Box
  nself : Bool
  /-- units of allowance that it cost (17 R308) -/
  cost : Nat
  /-- the operation, addressed to no single destination yet -/
  body : Landing
  deriving DecidableEq, Repr

/-- An operation at its destination (17 R324). -/
structure Arrived where
  part : Nat
  waits : List Miss
  body : Landing
  deriving DecidableEq, Repr

/-- A remote copy of which segments have landed at a destination: its number, its error, and the ranges of intermediate
addresses that it has written, the latest first (13 R252; 17 R324). -/
structure SegSeen where
  part : Nat
  src : List Nat
  tag : Nat
  err : Nat
  ranges : List (Nat × Nat)
  deriving DecidableEq, Repr

/-- A peer that has reset and rejoined: its job, its coordinate, the number below which operations were sealed under the old key,
and the link that counts what is dropped (17 R329). -/
structure Rejoin where
  job : Nat
  coord : List Nat
  below : Nat
  link : Nat
  deriving DecidableEq, Repr

/-- A remote store or contribution that a group sent: the job, the sender's coordinate, and its number there (07 R145; 17 R326). -/
structure Sent where
  gid : GroupId
  job : Nat
  src : List Nat
  seq : Nat
  deriving DecidableEq, Repr

/-- A round of a reduction (17 R315). -/
structure Round where
  id : Nat
  first : Contribution
  parts : List Contribution
  until_ : Nat
  /-- devices that have reset since it began: what they send now is no part of it (17 R329) -/
  lost : List (List Nat)
  deriving DecidableEq, Repr

/-- A coordinate's count of contributions to one reduction (17 R315). -/
structure RedCount where
  key : Contribution
  count : Nat
  deriving DecidableEq, Repr

/-- A fabric link (17 R328); what only its other end can see is left out (DESIGN CHOICE, log 100). -/
structure Link where
  /-- active lanes; lane 8 is the spare -/
  lanes : List Nat
  key : Nat
  dropped : Nat
  corrected : W32
  margin : W32
  deriving DecidableEq, Repr

/-- A host message (21 R353). -/
structure Msg where
  seq : W32
  bytes : List Byte
  deriving DecidableEq, Repr

/-- A report waiting to be written (21 R356): its TYPE and body. -/
structure Report where
  type : Nat
  body : List Byte
  deriving DecidableEq, Repr

/-- A function on the host link (21 R352). -/
structure Fn where
  mrbase : W64
  mrsize : W32
  mrtail : W32
  rqbase : W64
  /-- SEQ of the report after the last write of RQBASE -/
  rqstart : W32
  rqsize : W32
  rqhead : W32
  lastrx : W32
  lasttx : W32
  /-- fetch position -/
  fetch : W32
  /-- stopped by a gap (21 R354) -/
  gap : Bool
  /-- accepted messages that have not taken effect -/
  pending : List Msg
  /-- reports held while the queue is full (21 R358) -/
  held : List Report
  /-- the page that the LAUNCH at the head waits for (03 R35) -/
  waits : Option Hold
  /-- duplicates dropped and counted (21 R354) -/
  dups : Nat
  deriving DecidableEq, Repr

/-- A partition's place in the job grid (17 R301, R302). -/
structure Place5 where
  coord : List Nat
  sizes : List Nat
  /-- its job context -/
  job : Option Nat
  jobNo : Nat
  switches : List Switch
  /-- the switch that its port is attached to -/
  attach : Option Nat
  deriving DecidableEq, Repr

/-- A saved context's engine state (19 R344), by cluster position. -/
structure SavedUnit where
  ctx : Nat
  pos : Nat
  unit : Nat
  state : MUnit
  deriving DecidableEq, Repr

/-- A move: an issue slot's, or a step of the table that is no instruction word (DESIGN CHOICE, log 2). -/
inductive Move where
  | issue (site : Site) (slot : Nat)
  | dev (i : Instr)
  deriving DecidableEq, Repr

/-- A unit that the controller has fenced for a self-test (19 R347). -/
structure Fence where
  id : Nat
  unit : W32
  deriving DecidableEq, Repr

/-- What the sideband returns (21 R362), as last refreshed. -/
structure Telemetry extends Sensors where
  throttles : Nat
  corrected : Nat
  spared : Nat
  deriving DecidableEq, Repr

/-- Telemetry before its first refresh (DESIGN CHOICE, log 23). -/
def resetTelemetry : Telemetry :=
  { power := 0, clusterPower := List.replicate 4 0, junction := List.replicate 5 0, hbm := List.replicate 8 0, coolant := 0
    throttles := 0, corrected := 0, spared := 0 }

structure State where
  -- the model's own fields (DESIGN CHOICE, logs 2, 3 and 81)
  agenda : List Move
  focus : Site × Nat
  /-- the group whose instruction is executed -/
  cur : Option GroupId
  /-- counts the steps made: what the free values are applied to -/
  tick : Nat
  -- device
  /-- timebase cycles since reset (00 R4) -/
  now : Nat
  mhz : Nat
  mem : List Host.Cell
  scratch : List Host.Cell
  hostMem : List Host.Cell
  poison : List Place
  image : List Byte
  recBytes : List Byte
  arrange : Nat
  lpshare : List Nat
  envelope : Nat
  ftimeout : Nat
  recSerial : W32
  recovery : Bool
  disabled : List W32
  spares : List (W32 × W32 × W32)
  fences : List Fence
  fatal : Bool
  throttled : Bool
  avgThrottled : Bool
  power : Nat
  average : Nat
  celsius : Nat
  telemetry : Telemetry
  /-- events counted since reset: throttle events, corrected errors, spared rows (21 R362) -/
  throttles : Nat
  corrected : Nat
  spared : Nat
  /-- cores being disabled, whose teams are leaving (01 R26) -/
  closing : List Nat
  firmware : W32
  -- work
  ctxs : List Ctx
  launches : List Launch
  teams : List Team
  groups : List Group
  growq : List GrowReq
  tags : List (Site × W64)
  tagrefs : List TagRef
  qunits : List (Nat × Nat)
  /-- loads of a context's state that a core's unit has been asked for (09 R179) -/
  qloads : List (Nat × Nat)
  /-- logical cores resident on physical cores -/
  hostings : List Hosting
  probes : List Probe
  steals : List Steal
  -- memory side
  l1 : List L1Line
  ember : List Ember
  /-- version lines in the slices, least recently used first -/
  vlines : List VLine
  counters : List ((Nat × Nat × Nat) × Nat)
  migrations : List Migration
  tiers : List Tier
  ordered : List Ordered
  claims : List Claim
  joins : List Join
  /-- milestone updates that wait for their pages -/
  late : List LateUpd
  loads : List Load
  -- engines
  starts : List Start
  copies : List Copy
  triggers : List Trigger
  units : List MUnit
  savedUnits : List SavedUnit
  savedTrigs : List Trigger
  savedStarts : List Start
  -- fabric
  places : List Place5
  fcopies : List FCopy
  rounds : List Round
  redcounts : List RedCount
  awaits : List Await
  landings : List Arrived
  segs : List SegSeen
  rejoins : List Rejoin
  /-- remote stores and contributions of which releases may still have to wait (07 R145) -/
  sent : List Sent
  /-- groups parked for allowance, by slot, in order (17 R308) -/
  allowq : List (Nat × GroupId)
  acks : List (Nat × Ack)
  resps : List (Nat × Response)
  links : List Link
  -- host
  fns : List Fn
  /-- the dump area that the latest SETDUMP named: its address and size (21 R360) -/
  dump : Option (Nat × Nat)
  deriving DecidableEq, Repr

/-- A free slot. -/
def freeSlot : Slot := { ctx := none, wait := none, e := -32768, elems := [] }

/-- An idle matrix unit. -/
def idleUnit : MUnit := { slots := List.replicate 16 freeSlot, steps := [], a := [], b := [] }

/-- The body of a Ready report (21 R357). -/
def readyBody (firmware serial : W32) (clusters : List Nat) (hash : BitVec 256) : List Byte :=
  leBytes 4 firmware.toNat ++ leBytes 4 serial.toNat ++ leBytes 8 (clusters.foldl (fun a c => a + 2 ^ c) 0)
    ++ (leBytes 32 hash.toNat).reverse

/-- A function's registers at reset (DESIGN CHOICE, log 22; LASTRX and LASTTX by 21 R354). -/
def resetFn : Fn :=
  { mrbase := 0, mrsize := 0, mrtail := 0, rqbase := 0, rqstart := 0, rqsize := 0, rqhead := 0, lastrx := 0, lasttx := 0, fetch := 0
    gap := false, pending := [], held := [], waits := none, dups := 0 }

/-- The configuration record that the model starts with: the full arrangement, every other field zero, and a signature
of which nothing is said (DESIGN CHOICE, log 5). -/
def resetRecord : List Byte :=
  leBytes 4 0x43444B42 ++ leBytes 2 1 ++ leBytes 2 0 ++ leBytes 4 160 ++ leBytes 4 0 ++ leBytes 48 0 ++ leBytes 96 Config.resetSignature.toNat

/-- A link at reset (DESIGN CHOICE, log 25). -/
def resetLink : Link :=
  { lanes := [0, 1, 2, 3, 4, 5, 6, 7], key := 0, dropped := 0, corrected := 0, margin := 0 }

/-- A partition outside any job. -/
def noPlace : Place5 := { coord := [], sizes := [], job := none, jobNo := 0, switches := [], attach := none }

/-- The state right after reset and bring-up (21 R359): one full partition, no context, nothing in memory; the Ready
report waits for the host to give its queue. DESIGN CHOICE, log 7. -/
def State.reset : State :=
  { agenda := [], focus := (.core 0, 0), cur := none, tick := 0
    now := 0, mhz := 4000, mem := [], scratch := [], hostMem := [], poison := []
    image := [], recBytes := resetRecord, arrange := 0, lpshare := [0, 0, 0, 0], envelope := 2800, ftimeout := 2000
    recSerial := 0, recovery := false, disabled := [], spares := [], fences := [], fatal := false
    throttled := false, avgThrottled := false, power := 0, average := 0, celsius := 0, telemetry := resetTelemetry, throttles := 0
    corrected := 0, spared := 0, closing := [], firmware := 0
    ctxs := [], launches := [], teams := [], groups := [], growq := [], tags := [], tagrefs := [], qunits := [], qloads := []
    hostings := [], probes := [], steals := []
    l1 := [], ember := [], vlines := [], counters := [], migrations := [], tiers := [], ordered := [], claims := [], joins := [], late := [], loads := []
    starts := [], copies := [], triggers := [], units := List.replicate 128 idleUnit, savedUnits := []
    savedTrigs := [], savedStarts := []
    places := [noPlace], fcopies := [], rounds := []
    redcounts := [], awaits := [], landings := [], segs := [], rejoins := [], sent := [], allowq := [], acks := [], resps := [], links := List.replicate 32 resetLink
    fns := [{ resetFn with held := [{ type := 9, body := readyBody 0 0 [0, 1, 2, 3] (sha256 resetRecord) }] }]
    dump := none }

end Sys2Proof.Machine
end

