-- ==== Sys2Proof/Machine/Memory.lean ====
section
/-! DEFINITION. Memory: bytes in canonical lists, physical memory with its uncorrectable words, partitions and frames,
the page table, published memory, ember lines, range registers and remap windows (01 R17, R23 to R28; 11 R186 to R228). -/

namespace Sys2Proof.Machine

/-! Canonical byte lists. -/

/-- A byte that nothing has written reads as 0 (DESIGN CHOICE, log 1). -/
def blank : Byte := 0

/-- The byte at an address. DESIGN CHOICE, log 8. -/
def cellGet (m : List Host.Cell) (a : Nat) : Byte :=
  match m with
  | [] => blank
  | (k, b) :: t => if k = a then b else cellGet t a

/-- Removes the entry of an address. -/
def cellDel : List Host.Cell → Nat → List Host.Cell
  | [], _ => []
  | (k, b) :: t, a => if k = a then t else if a < k then (k, b) :: t else (k, b) :: cellDel t a

/-- Puts an entry, addresses strictly rising. -/
def cellSet : List Host.Cell → Nat → Byte → List Host.Cell
  | [], a, x => [(a, x)]
  | (k, b) :: t, a, x =>
    if k = a then (a, x) :: t else if a < k then (a, x) :: (k, b) :: t else (k, b) :: cellSet t a x

/-- Writes one byte, keeping the canonical form: the blank byte is not listed. -/
def cellPut (m : List Host.Cell) (a : Nat) (x : Byte) : List Host.Cell :=
  if x = blank then cellDel m a else cellSet m a x

/-- The bytes at n addresses from a. -/
def cellRead (m : List Host.Cell) (a : Nat) : Nat → List Byte
  | 0 => []
  | n + 1 => cellGet m a :: cellRead m (a + 1) n

/-- Writes bytes from an address on. -/
def cellWrite (m : List Host.Cell) (a : Nat) : List Byte → List Host.Cell
  | [] => m
  | b :: bs => cellWrite (cellPut m a b) (a + 1) bs

/-- Addresses strictly rise, all above a bound. -/
def cellsAbove : Option Nat → List Host.Cell → Bool
  | _, [] => true
  | lo, (k, _) :: t => (match lo with | none => true | some n => n < k) && cellsAbove (some k) t

/-- The canonical form: addresses strictly rise, and no entry is blank. -/
def Memory.wf (m : List Host.Cell) : Bool := cellsAbove none m && m.all fun c => c.2 != blank

/-! Bits. -/

/-- bits(x, hi, lo) of a number (00 R2). -/
def bitsN (x hi lo : Nat) : Nat := x / 2 ^ lo % 2 ^ (hi + 1 - lo)

def nat8 (bs : List Byte) (off n : Nat) : Nat := leNat ((bs.drop off).take n)

/-! Units, partitions, frames. -/

/-- UNIT encoding (19 R350). -/
def unitCode (cluster kind index : Nat) : W32 := BitVec.ofNat 32 (cluster * 2 ^ 30 + kind * 2 ^ 24 + index)

def unitKind (u : W32) : Nat := bitsN u.toNat 29 24
def unitCluster (u : W32) : Nat := bitsN u.toNat 31 30
def unitIndex (u : W32) : Nat := bitsN u.toNat 23 0

/-- The controller has fenced the unit (19 R347). -/
def State.fenced (s : State) (u : W32) : Bool := s.fences.any fun f => f.unit = u

def State.off (s : State) (cluster kind index : Nat) : Bool := s.disabled.contains (unitCode cluster kind index)

/-- The arrangements of 01 R23. -/
def arrangement : Nat → List (List Nat)
  | 0 => [[0, 1, 2, 3]]
  | 1 => [[0, 1], [2, 3]]
  | 2 => [[0, 1], [2], [3]]
  | 3 => [[0], [1], [2, 3]]
  | _ => [[0], [1], [2], [3]]

/-- Clusters of a partition, ascending. -/
def State.clusters (s : State) (part : Nat) : List Nat := (arrangement s.arrange).getD part []

/-- The partition of a cluster. -/
def State.partOf (s : State) (cluster : Nat) : Nat :=
  ((arrangement s.arrange).findIdx? fun cs => cs.contains cluster).getD 0

/-- Position of a cluster in its partition. -/
def State.posOf (s : State) (cluster : Nat) : Nat :=
  ((s.clusters (s.partOf cluster)).findIdx? fun c => c = cluster).getD 0

def gib : Nat := 1073741824

/-- The HBM stack of a physical address (11 R191). -/
def stackOf (pa : Nat) : Option Nat :=
  let k := pa / 2 ^ 36
  if k < 8 && pa % 2 ^ 36 < 48 * gib then some k else none

/-- The LPDDR share of a partition holds an address (01 R28). -/
def State.inLp (s : State) (part pa : Nat) : Bool :=
  let before := ((s.lpshare.take part).foldl (· + ·) 0) * gib
  let n := s.lpshare.getD part 0 * gib
  2 ^ 40 + before ≤ pa && pa < 2 ^ 40 + before + n

def isLp (pa : Nat) : Bool := 2 ^ 40 ≤ pa

/-- The partition owns the frame (01 R24, 11 R192). -/
def State.owns (s : State) (part pa : Nat) : Bool :=
  match stackOf pa with
  | some k => (s.clusters part).contains (k / 2)
  | none => s.inLp part pa

/-- The partition owns the first and the last of n bytes: a request to others would cross into another partition, and is not made
(01 R24). -/
def State.ownsBytes (s : State) (part pa n : Nat) : Bool := s.owns part pa && s.owns part (pa + n - 1)

/-- brev6 of 01 R26. -/
def brev6 (j : Nat) : Nat :=
  (j % 2) * 32 + (j / 2 % 2) * 16 + (j / 4 % 2) * 8 + (j / 8 % 2) * 4 + (j / 16 % 2) * 2 + j / 32 % 2

/-- The slice of a cluster that serves the line of an IA (01 R17, R26). Where a configuration record disables every slice of
the cluster, which the controller itself never does, the line stays with its own slice (DESIGN CHOICE, log 85). -/
def State.slice (s : State) (cluster ia : Nat) : Nat :=
  let k := Nat.xor (bitsN ia 11 6) (bitsN ia 17 12)
  if !s.off cluster 4 k then k
  else ((List.range 63).map fun j => Nat.xor k (brev6 (j + 1))).find? (fun j => !s.off cluster 4 j) |>.getD k

/-! Physical memory. -/

/-- Some word of n bytes from a is uncorrectable. -/
def State.badMem (s : State) (a n : Nat) : Bool :=
  s.poison.any fun p => match p with | .mem w => a ≤ 8 * w + 7 && 8 * w < a + n | _ => false

def State.badScratch (s : State) (cluster off n : Nat) : Bool :=
  s.poison.any fun p => match p with
    | .scratch c w => c = cluster && off ≤ 8 * w + 7 && 8 * w < off + n
    | _ => false

/-- Writing whole ECC words makes their errors disappear (19 R348). An ECC word is 8 bytes (DESIGN CHOICE, log 137). -/
def State.writeMem (s : State) (a : Nat) (bs : List Byte) : State :=
  { s with
    mem := cellWrite s.mem a bs
    poison := s.poison.filter fun p => match p with | .mem w => !(a ≤ 8 * w && 8 * w + 8 ≤ a + bs.length) | _ => true }

def State.readScratch (s : State) (cluster off n : Nat) : List Byte :=
  cellRead s.scratch (cluster * Config.windowBytes + off) n

def State.writeScratch (s : State) (cluster off : Nat) (bs : List Byte) : State :=
  { s with
    scratch := cellWrite s.scratch (cluster * Config.windowBytes + off) bs
    poison := s.poison.filter fun p => match p with
      | .scratch c w => !(c = cluster && off ≤ 8 * w && 8 * w + 8 ≤ off + bs.length)
      | _ => true }

/-- The words of physical memory from a to a + n that are uncorrectable. -/
def State.badWords (s : State) (a n : Nat) : List Nat :=
  s.poison.filterMap fun p => match p with | .mem w => if a ≤ 8 * w + 7 && 8 * w < a + n then some w else none | _ => none

/-- Data that is uncorrectable moves: the words stay uncorrectable where they go (19 R348; DEDUCED, log 86). -/
def State.spoilMem (s : State) (ws : List Nat) : State := { s with poison := s.poison ++ ws.map .mem }

def State.read64 (s : State) (pa : Nat) : Nat := leNat (cellRead s.mem pa 8)
def State.read32 (s : State) (pa : Nat) : Nat := leNat (cellRead s.mem pa 4)

/-! Contexts and the page table. -/

def State.ctx? (s : State) (n : Nat) : Option Ctx := s.ctxs.find? fun c => c.no = n

def State.setCtx (s : State) (c : Ctx) : State :=
  { s with ctxs := s.ctxs.map fun x => if x.no = c.no then c else x }

def State.updCtx (s : State) (n : Nat) (f : Ctx → Ctx) : State :=
  { s with ctxs := s.ctxs.map fun x => if x.no = n then f x else x }

/-- A leaf entry (11 R190). -/
structure Leaf where
  /-- physical address of the entry -/
  addr : Nat
  kind : Nat
  migr : Bool
  home : Nat
  frame : Nat
  late : Bool
  deriving DecidableEq, Repr

/-- A page walk: the page is missing (with whether an entry has reserved bits set), or its leaf. -/
inductive Walk where
  | missing (malformed : Bool)
  | ok (l : Leaf)
  deriving DecidableEq, Repr

/-- A directory entry: the next table, or why there is none. -/
def dirEntry (e : Nat) : Option Nat ⊕ Bool :=
  if bitsN e 63 41 ≠ 0 || bitsN e 14 1 ≠ 0 then .inr true
  else if e % 2 = 0 then .inr false
  else .inl (some (bitsN e 40 15 * 2 ^ 15))

/-- The leaf of an entry (11 R190, R192, R195). -/
def State.leafOf (s : State) (part addr e : Nat) : Walk :=
  let kind := bitsN e 63 62
  let frame := bitsN e 40 16 * 65536
  let late := bitsN e 1 1 = 1
  if bitsN e 60 58 ≠ 0 || bitsN e 55 41 ≠ 0 || bitsN e 15 2 ≠ 0 || (late && kind ≠ 3) then .missing true
  else if e % 2 = 0 then .missing false
  else
    let useHome := kind = 3 || isLp frame
    if (kind ≠ 3 || late) && !s.owns part frame then .missing false
    else if useHome && !(s.clusters part).contains (bitsN e 57 56) then .missing false
    else .ok { addr, kind, migr := bitsN e 61 61 = 1
               home := if useHome then bitsN e 57 56 else (stackOf frame).getD 0 / 2, frame, late }

/-- The entry of a directory table at a physical address; a table that the partition does not own holds none (01 R24; DESIGN CHOICE,
log 128). -/
def State.dirAt (s : State) (part pa : Nat) : Option Nat ⊕ Bool :=
  if s.ownsBytes part pa 8 then dirEntry (s.read64 pa) else .inl none

/-- Address of an entry of the root table, and of the tables that two levels of directories name (11 R190). A PTROOT that is not 32
KiB aligned is indexed from as it reads (DESIGN CHOICE, log 142). -/
def Ctx.rootWord (c : Ctx) (ia : Nat) : Nat := c.ptroot + 8 * bitsN ia 51 40
def dirWord (table ia : Nat) : Nat := table + 8 * bitsN ia 39 28
def leafWord (table ia : Nat) : Nat := table + 8 * bitsN ia 27 16

/-- The page walk of an IA (11 R190, R192), as the tables stand; a leaf table that the partition does not own holds no leaf (01 R24;
DESIGN CHOICE, log 128). Entries that are uncorrectable go on as they read (DESIGN CHOICE, log 136). -/
def State.walk (s : State) (c : Ctx) (ia : Nat) : Walk :=
  match s.dirAt c.part (c.rootWord ia) with
  | .inr m => .missing m
  | .inl none => .missing false
  | .inl (some t1) =>
    match s.dirAt c.part (dirWord t1 ia) with
    | .inr m => .missing m
    | .inl none => .missing false
    | .inl (some t2) =>
      let a := leafWord t2 ia
      if s.ownsBytes c.part a 8 then s.leafOf c.part a (s.read64 a) else .missing false

/-- Addresses of the table entries that the walk reads. -/
def State.walkWords (s : State) (c : Ctx) (ia : Nat) : List Nat :=
  let a := c.rootWord ia
  a :: match s.dirAt c.part a with
    | .inl (some t1) =>
      let b := dirWord t1 ia
      b :: match s.dirAt c.part b with | .inl (some t2) => [leafWord t2 ia] | _ => []
    | _ => []

/-- The device rewrites a leaf; for an HBM frame of kind P, S or C it writes the frame's home cluster (11 R190). -/
def State.writeLeaf (s : State) (l : Leaf) : State :=
  let home := if l.kind = 3 || isLp l.frame then l.home else (stackOf l.frame).getD 0 / 2
  s.writeMem l.addr
    (leBytes 8 (l.kind * 2 ^ 62 + (if l.migr then 2 ^ 61 else 0) + home * 2 ^ 56 + l.frame + (if l.late then 2 else 0) + 1))

def pageOf (ia : Nat) : Nat := ia / 65536 * 65536
def lineOf (ia : Nat) : Nat := ia / 64 * 64

/-! What makes an access wait: a migration of its page (11 R197), or a fence on a unit that serves it (19 R347; DEDUCED,
log 69). -/

/-- A page of a context is under migration. -/
def State.migrating (s : State) (ctx page : Nat) : Bool := s.migrations.any fun m => m.ctx = ctx && m.page = page

/-- The die link between two clusters is fenced. -/
def State.dieFenced (s : State) (a b : Nat) : Bool := a ≠ b && (s.fenced (unitCode a 8 b) || s.fenced (unitCode b 8 a))

/-- The die link of a cluster to the port die is fenced (01 R11). -/
def State.portFenced (s : State) (cluster : Nat) : Bool := s.fenced (unitCode cluster 8 4)

/-- A frame cannot be reached from its page's home: a pseudo-channel of its stack, or an LPDDR controller, is fenced, or the die
link on the way (01 R11, R12). -/
def State.frameFenced (s : State) (home frame : Nat) : Bool :=
  !s.fences.isEmpty && match stackOf frame with
    | some k => s.dieFenced home (k / 2)
        || s.fences.any fun f => unitKind f.unit = 5 && unitCluster f.unit = k / 2 && unitIndex f.unit / 32 = k % 2
    | none => s.portFenced home || s.fences.any fun f => unitKind f.unit = 11

/-- What serves a physical address is fenced, seen from no particular cluster (19 R347): a pseudo-channel of its stack or a slice of
the stack's cluster, or else an LPDDR controller or some slice (DEDUCED, log 69). -/
def State.physFenced (s : State) (pa : Nat) : Bool :=
  s.fences.any fun f => match stackOf pa with
    | some k => unitCluster f.unit = k / 2 && ((unitKind f.unit = 5 && unitIndex f.unit / 32 = k % 2) || unitKind f.unit = 4)
    | none => unitKind f.unit = 11 || unitKind f.unit = 4

/-- So is some of n bytes from a physical address on. -/
def State.bytesFenced (s : State) (pa n : Nat) : Bool :=
  !s.fences.isEmpty && (s.physFenced pa || s.physFenced (pa + n - 1))

/-- The walk of an IA waits: an entry that it reads cannot be reached (19 R347). The walk is no particular cluster's (DEDUCED, log
69). -/
def State.walkWaits (s : State) (c : Ctx) (ia : Nat) : Bool :=
  !s.fences.isEmpty && (s.walkWords c ia).any fun a => s.ownsBytes c.part a 8 && s.bytesFenced a 8

/-- An access to the line of an IA on a present page waits. -/
def State.lineWaits (s : State) (ctx ia : Nat) (l : Leaf) : Bool :=
  s.migrating ctx (pageOf ia) || (!s.fences.isEmpty
    && (s.fenced (unitCode l.home 4 (s.slice l.home ia)) || ((l.kind ≠ 3 || l.late) && s.frameFenced l.home l.frame)))

/-- An access to n bytes of a cluster's window waits: a core that holds some of them is fenced. -/
def State.winWaits (s : State) (cluster off n : Nat) : Bool :=
  s.fences.any fun f => unitKind f.unit = 1 && unitCluster f.unit = cluster
    && unitIndex f.unit * Config.scratchBytes < off + n && off < (unitIndex f.unit + 1) * Config.scratchBytes

/-! Frame pools (11 R194; DEDUCED, log 20): RING and SIZE as the record gave them, HEAD and TAIL in the record. -/

/-- Number of a pool: the HBM pools by cluster position, the LPDDR pool, the ember backing pool. -/
abbrev hbmPool (pos : Nat) : Nat := pos
abbrev lpPool : Nat := 4
abbrev emberPool : Nat := 5

/-- Physical address of a pool's descriptor in the context record (19 R336). -/
def Ctx.poolAddr (c : Ctx) (pool : Nat) : Nat := c.recAddr + 0x40 + 32 * pool

/-- HEAD of a pool, and the address of the slot of its ring that a HEAD names. -/
def State.poolHead (s : State) (c : Ctx) (pool : Nat) : Nat := s.read32 (c.poolAddr pool + 0xC)
def Ctx.ringSlot (c : Ctx) (pool head : Nat) : Nat :=
  let (ring, size) := c.pools.getD pool (0, 0)
  ring + 8 * (head % size)

/-- The frame that is taken next from a pool. -/
def State.nextFrame (s : State) (c : Ctx) (pool : Nat) : Nat := s.read64 (c.ringSlot pool (s.poolHead c pool))

/-- The partition owns the words of a pool, and the frame that they name next (01 R24). -/
def State.poolOwned (s : State) (c : Ctx) (pool : Nat) : Bool :=
  s.ownsBytes c.part (c.poolAddr pool) 32 && s.ownsBytes c.part (c.ringSlot pool (s.poolHead c pool)) 8
    && s.ownsBytes c.part (s.nextFrame c pool) 65536

/-- Frames of a pool; one whose words or next frame the partition does not own counts as empty (DESIGN CHOICE, log 128). -/
def State.poolCount (s : State) (c : Ctx) (pool : Nat) : Nat :=
  if s.poolOwned c pool then (s.read32 (c.poolAddr pool + 0x10) + 2 ^ 32 - s.poolHead c pool) % 2 ^ 32 else 0

/-- The words of a pool that taking so many frames reads and writes cannot be reached (19 R347). -/
def State.poolWordsFenced (s : State) (c : Ctx) (pool n : Nat) : Bool :=
  !s.fences.isEmpty && (s.bytesFenced (c.poolAddr pool) 32
    || (List.range (min n (s.poolCount c pool))).any fun j => s.bytesFenced (c.ringSlot pool (s.poolHead c pool + j)) 8)

/-- So, or the frame that is taken next cannot be reached from a cluster. -/
def State.poolFenced (s : State) (c : Ctx) (cluster pool : Nat) : Bool :=
  s.poolWordsFenced c pool 1 || (s.poolCount c pool ≠ 0 && s.frameFenced cluster (s.nextFrame c pool))

/-- Takes one frame: HEAD rises by one. -/
def State.takeFrame (s : State) (c : Ctx) (pool : Nat) : Option (Nat × State) :=
  if s.poolCount c pool = 0 then none
  else
    some (s.nextFrame c pool,
      { s with mem := cellWrite s.mem (c.poolAddr pool + 0xC) (leBytes 4 ((s.poolHead c pool + 1) % 2 ^ 32)) })

/-- Takes n frames or none. -/
def State.takeFrames (s : State) (c : Ctx) (pool : Nat) : Nat → Option (List Nat × State)
  | 0 => some ([], s)
  | n + 1 =>
    match s.takeFrame c pool with
    | none => none
    | some (f, s1) =>
      match State.takeFrames s1 c pool n with
      | none => none
      | some (fs, s2) => some (f :: fs, s2)

/-! Published memory by IA: an E page's lines in their home slices (11 R216), other pages in their frames. -/

def State.emberLine? (s : State) (ctx line : Nat) : Option Ember :=
  s.ember.find? fun e => e.ctx = ctx && e.line = line

/-- The 64 bytes of an ember line: in its slice, in its late frame, or zero. -/
def State.emberBytes (s : State) (l : Leaf) (ctx line : Nat) : List Byte :=
  match s.emberLine? ctx line with
  | some e => e.bytes
  | none => if l.late then cellRead s.mem (l.frame + line % 65536) 64 else List.replicate 64 0

/-- n published bytes from an IA on a present page. -/
def State.pubRead (s : State) (l : Leaf) (ctx ia n : Nat) : List Byte :=
  if l.kind = 3 then ((s.emberBytes l ctx (lineOf ia)).drop (ia % 64)).take n
  else cellRead s.mem (l.frame + ia % 65536) n

/-- The uncorrectable words of a line of an E page, by IA / 8: of its slice, or of its late frame (19 R348). -/
def State.emberBad (s : State) (l : Leaf) (ctx line : Nat) : List Nat :=
  match s.emberLine? ctx line with
  | some e => e.bad
  | none =>
    if l.late then (s.badWords (l.frame + line % 65536) 64).map fun w => w - (l.frame + line % 65536) / 8 + line / 8 else []

/-- Some of the n bytes are uncorrectable. -/
def State.pubBad (s : State) (l : Leaf) (ctx ia n : Nat) : Bool :=
  if l.kind = 3 then (s.emberBad l ctx (lineOf ia)).any fun w => ia ≤ 8 * w + 7 && 8 * w < ia + n
  else s.badMem (l.frame + ia % 65536) n

/-- The uncorrectable words of a published line, by IA / 8. -/
def State.pubBadWords (s : State) (l : Leaf) (ctx line : Nat) : List Nat :=
  (List.range 8).filterMap fun j => if s.pubBad l ctx (line + 8 * j) 8 then some (line / 8 + j) else none

def patch (old : List Byte) (off : Nat) (new : List Byte) : List Byte :=
  old.take off ++ new ++ old.drop (off + new.length)

/-- Words of a list that a write of n bytes at an IA does not overwrite whole (19 R348). -/
def keepBad (ws : List Nat) (ia n : Nat) : List Nat := ws.filter fun w => !(ia ≤ 8 * w && 8 * w + 8 ≤ ia + n)

/-- Changes published bytes of one line (or, off E pages, of one page). On a C page the home recalls every L1 copy of the
lines first (11 R200). -/
def State.pubWrite (s : State) (l : Leaf) (ctx ia : Nat) (bs : List Byte) : State :=
  if l.kind = 3 then
    let line := lineOf ia
    let e : Ember :=
      { ctx, cluster := l.home, line, bytes := patch (s.emberBytes l ctx line) (ia % 64) bs
        bad := keepBad (s.emberBad l ctx line) ia bs.length }
    if (s.emberLine? ctx line).isSome then
      { s with ember := s.ember.map fun x => if x.ctx = ctx && x.line = line then e else x }
    else { s with ember := s.ember ++ [e] }
  else
    let s1 := s.writeMem (l.frame + ia % 65536) bs
    if l.kind = 2 then
      { s1 with l1 := s1.l1.filter fun x => !(x.ctx = ctx && lineOf ia ≤ x.line && x.line < ia + bs.length) }
    else s1

/-- Published words, by IA / 8, become uncorrectable: data that was so has been written there (19 R348; DEDUCED, log 86). -/
def State.spoilPub (s : State) (l : Leaf) (ctx : Nat) (ws : List Nat) : State :=
  if l.kind = 3 then
    { s with ember := s.ember.map fun x =>
        if x.ctx = ctx then { x with bad := x.bad ++ ws.filter fun w => x.line ≤ 8 * w && 8 * w < x.line + 64 } else x }
  else s.spoilMem (ws.map fun w => (l.frame + 8 * w % 65536) / 8)

/-! Accesses that a TARGET without alignment puts across two lines or pages of intermediate addresses: each piece goes by its
own page and line (11 R188, R190, R193; DEDUCED, log 111). -/

/-- Bytes that lie on one page, with its leaf; of an access, bytes of one line. -/
structure Piece where
  ia : Nat
  n : Nat
  leaf : Leaf
  deriving DecidableEq, Repr

/-- At most 64 bytes from an IA on, cut where a line ends. -/
def cutLine (ia n : Nat) : List (Nat × Nat) :=
  let k := 64 - ia % 64
  if n ≤ k then [(ia % 2 ^ 52, n)] else [(ia % 2 ^ 52, k), ((ia + k) % 2 ^ 52, n - k)]

/-- Distinct causes of a missing count. -/
def distinctMiss (ms : List (Miss × Bool)) : List (Miss × Bool) :=
  ms.foldl (fun acc m => if acc.any fun x => x.1 = m.1 then acc else acc ++ [m]) []

/-- What at most 64 bytes from an IA on lie on: whether the walk of a page waits, in which case nothing is known of it yet; and, as
the tables stand, the pages that are missing, and the pieces on present pages, in order. -/
structure Span where
  held : Bool
  missing : List (Miss × Bool)
  pieces : List Piece
  deriving DecidableEq, Repr

def State.span (s : State) (c : Ctx) (ia n : Nat) : Span :=
  let ws := (cutLine ia n).map fun x => (x, s.walk c x.1)
  { held := ws.any fun x => s.walkWaits c x.1.1
    missing := distinctMiss (ws.filterMap fun x =>
      match x.2 with | .missing m => some (.page (pageOf x.1.1), m) | .ok _ => none)
    pieces := ws.filterMap fun x =>
      match x.2 with | .ok leaf => some { ia := x.1.1, n := x.1.2, leaf } | .missing _ => none }

/-- The IA at which pieces begin. -/
def iaOf (ps : List Piece) : Nat := match ps with | p :: _ => p.ia | [] => 0

def State.readPieces (s : State) (ctx : Nat) (ps : List Piece) : List Byte := ps.flatMap fun p => s.pubRead p.leaf ctx p.ia p.n

/-- Some of the bytes are uncorrectable. -/
def State.piecesBad (s : State) (ctx : Nat) (ps : List Piece) : Bool := ps.any fun p => s.pubBad p.leaf ctx p.ia p.n

/-- A piece cannot be reached yet. -/
def State.piecesWait (s : State) (ctx : Nat) (ps : List Piece) : Bool := ps.any fun p => s.lineWaits ctx p.ia p.leaf

/-- What a cluster sends to the homes of pieces waits: for their pages or units, or for the die link to a home (01 R11; 11 R197; 19
R347). -/
def State.unreached (s : State) (cluster ctx : Nat) (ps : List Piece) : Bool :=
  s.piecesWait ctx ps || ps.any fun p => s.dieFenced cluster p.leaf.home

/-- Some line of a longer piece cannot be reached from a cluster yet. -/
def State.pieceWaits (s : State) (ctx cluster : Nat) (p : Piece) : Bool :=
  s.migrating ctx (pageOf p.ia) || (!s.fences.isEmpty && (s.dieFenced cluster p.leaf.home
    || (List.range ((p.ia % 64 + p.n + 63) / 64)).any fun j => s.lineWaits ctx (lineOf p.ia + 64 * j) p.leaf))

def State.writePieces (s : State) (ctx : Nat) : List Piece → List Byte → State
  | [], _ => s
  | p :: t, bs => State.writePieces (s.pubWrite p.leaf ctx p.ia (bs.take p.n)) ctx t (bs.drop p.n)

/-- The lines of pieces, each once, with their pages' leaves. -/
def linesIn (ps : List Piece) : List (Nat × Leaf) :=
  ps.foldl (fun acc p => if acc.any fun x => x.1 = lineOf p.ia then acc else acc ++ [(lineOf p.ia, p.leaf)]) []

/-- n bytes from a virtual address on, cut at its multiples of 64. -/
def vaBlocks (va : W64) (n : Nat) : List (W64 × Nat) :=
  let o := va.toNat % 64
  if n = 0 then []
  else (List.range ((o + n + 63) / 64)).map fun j =>
    (va + BitVec.ofNat 64 (64 * j - o), min (64 * (j + 1) - o) n - (64 * j - o))

/-- What an access of the memory side to a table comes to: bytes, missing pages, or a wait. -/
inductive IaRd where
  | ok (bs : List Byte)
  | miss (ms : List (Miss × Bool))
  | wait
  deriving DecidableEq, Repr

/-- At most 64 bytes at an IA, read for a cluster. -/
def State.iaRead (s : State) (c : Ctx) (cluster ia n : Nat) : IaRd :=
  let x := s.span c ia n
  if x.held then .wait
  else if !x.missing.isEmpty then .miss x.missing
  else if s.unreached cluster c.no x.pieces then .wait
  else .ok (s.readPieces c.no x.pieces)

/-- Writes at most 64 bytes at an IA, where every page is present. -/
def State.iaWrite (s : State) (c : Ctx) (ia : Nat) (bs : List Byte) : State :=
  let x := s.span c ia bs.length
  if x.missing.isEmpty then s.writePieces c.no x.pieces bs else s

/-! Locations: a scratch window or an IA. -/

/-- The saved share of a team, while it is switched out. -/
def State.imageOf (s : State) (ctx : Nat) (task : W64) : List Byte :=
  match s.teams.find? fun t => t.ctx = ctx && t.task = task with
  | none => []
  | some t => t.image

/-- At most 64 bytes at a location; none when a page is missing. -/
def State.locRead (s : State) (l : Loc) (n : Nat) : Option (List Byte) :=
  match l with
  | .win c off => some (s.readScratch c off n)
  | .img ctx task off => some (((s.imageOf ctx task).drop off).take n)
  | .mem ctx ia =>
    match s.ctx? ctx with
    | none => none
    | some c => let x := s.span c ia n; if x.missing.isEmpty then some (s.readPieces ctx x.pieces) else none

def State.locBad (s : State) (l : Loc) (n : Nat) : Bool :=
  match l with
  | .win c off => s.badScratch c off n
  | .img .. => false
  | .mem ctx ia =>
    match s.ctx? ctx with
    | none => false
    | some c => let x := s.span c ia n; x.missing.isEmpty && s.piecesBad ctx x.pieces

def State.locWrite (s : State) (l : Loc) (bs : List Byte) : State :=
  match l with
  | .win c off => s.writeScratch c off bs
  | .img ctx task off =>
    { s with
      teams := s.teams.map fun t =>
        if t.ctx = ctx && t.task = task then { t with image := patch t.image off bs } else t }
  | .mem ctx ia =>
    match s.ctx? ctx with
    | none => s
    | some c => s.iaWrite c ia bs

/-! Range registers (11 R187 to R189). -/

def Range.kind (r : Range) : Nat := r.attr.toNat % 4

/-- No condition of R189 on the range by itself disables it. -/
def Range.formed (r : Range) : Bool :=
  r.base.toNat ≤ r.limit.toNat && r.base.toNat % 65536 = 0 && (r.limit.toNat + 1) % 65536 = 0 && r.attr.toNat < 4
    && (r.kind ≠ 2 || r.limit.toNat - r.base.toNat = 1048575)

/-- The job context of a partition (17 R302). -/
def State.jobCtx (s : State) (part : Nat) : Option Nat := (s.places.getD part noPlace).job

/-- The enabled ranges, in order (11 R189). -/
def State.rangesOn (s : State) (c : Ctx) : List Range :=
  let ok (r : Range) : Bool := r.formed && (r.kind ≠ 3 || s.jobCtx c.part = some c.no)
  let rec go (ap fb : Bool) : List Range → List Range
    | [] => []
    | r :: t =>
      if !ok r then go ap fb t
      else if r.kind = 2 then (if ap then go ap fb t else r :: go true fb t)
      else if r.kind = 3 then (if fb then go ap fb t else r :: go ap true t)
      else r :: go ap fb t
  go false false c.ranges

def Range.covers (r : Range) (va : Nat) : Bool := r.base.toNat ≤ va && va ≤ r.limit.toNat

/-- The range that translates an address: the lowest-numbered enabled one that covers it. -/
def State.rangeOf (s : State) (c : Ctx) (va : Nat) : Option Range := (s.rangesOn c).find? fun r => r.covers va

/-- The FABRIC range of a context. -/
def State.fabricRange (s : State) (c : Ctx) : Option Range := (s.rangesOn c).find? fun r => r.kind = 3

/-- IA of an address that a NORMAL range covers. -/
def Range.ia (r : Range) (va : Nat) : Nat := (va + r.target.toNat) % 2 ^ 52

/-! Remap windows (11 R223, R224). -/

/-- A remap descriptor. -/
structure Remap where
  /-- IA of the descriptor -/
  ia : Nat
  table : Nat
  rows : Nat
  k : Nat
  poolBase : Nat
  blocks : Nat
  refs : Nat
  free : Nat
  freeCap : Nat
  freeCnt : Nat
  deriving DecidableEq, Repr

/-- How an address translates. -/
inductive Xlat where
  | prot
  | miss (ms : List (Miss × Bool))
  /-- a remap window's descriptor or row table cannot be read yet (11 R197; 19 R347) -/
  | wait
  | ia (ia : Nat)
  /-- a row of a remap window: the IA, the descriptor, the row and its entry -/
  | row (ia : Nat) (d : Remap) (row entry : Nat)
  | aperture (off : Nat)
  | fabric (off : Nat)
  deriving DecidableEq, Repr

/-- A remap descriptor as read. -/
inductive RmRd where
  | ok (d : Remap)
  | malformed
  | miss (ms : List (Miss × Bool))
  | wait
  deriving DecidableEq, Repr

/-- The descriptor of a REMAP range, read for a cluster. -/
def State.remap (s : State) (c : Ctx) (cluster : Nat) (r : Range) : RmRd :=
  let ia := r.target.toNat % 2 ^ 52
  match s.iaRead c cluster ia 64 with
  | .miss ms => .miss ms
  | .wait => .wait
  | .ok b =>
    let k := nat8 b 0xC 1
    if k < 8 || 16 < k || nat8 b 0xD 3 ≠ 0 || nat8 b 0x1C 4 ≠ 0 || nat8 b 0x38 8 ≠ 0 then .malformed
    else .ok
      { ia, table := nat8 b 0 8, rows := nat8 b 8 4, k, poolBase := nat8 b 0x10 8, blocks := nat8 b 0x18 4
        refs := nat8 b 0x20 8, free := nat8 b 0x28 8, freeCap := nat8 b 0x30 4, freeCnt := nat8 b 0x34 4 }

/-- Translation of a virtual address for an access of a cluster (11 R188, R224). -/
def State.xlat (s : State) (c : Ctx) (cluster : Nat) (va : W64) : Xlat :=
  match s.rangeOf c va.toNat with
  | none => .prot
  | some r =>
    match r.kind with
    | 0 => .ia (r.ia va.toNat)
    | 2 => .aperture (va.toNat - r.base.toNat)
    | 3 => .fabric (va.toNat - r.base.toNat)
    | _ =>
      match s.remap c cluster r with
      | .miss ms => .miss ms
      | .wait => .wait
      | .malformed => .prot
      | .ok d =>
        let f := va.toNat - r.base.toNat
        let row := f / 2 ^ d.k
        if d.rows ≤ row then .prot
        else match s.iaRead c cluster (d.table + 8 * row) 8 with
          | .miss ms => .miss ms
          | .wait => .wait
          | .ok b =>
            let e := leNat b
            if e / 2 ^ 50 ≠ 0 || bitsN e 48 48 = 0 || bitsN e 47 0 % 2 ^ d.k ≠ 0 then .prot
            else .row (bitsN e 47 0 + f % 2 ^ d.k) d row e

/-- The IA that a translation gives, for the forms that reach memory. -/
def Xlat.ia? : Xlat → Option Nat
  | .ia a => some a
  | .row a _ _ _ => some a
  | _ => none

end Sys2Proof.Machine
end

