-- ==== Sys2Proof/Machine/Report.lean ====
section
/-! DEFINITION. Reports to the host report queue: their layouts and the rule of the ring (21 R356 to R358, 19 R333). -/

namespace Sys2Proof.Machine

/-- Bytes laid out at offsets in n zero bytes. -/
def layout (n : Nat) (fields : List (Nat × List Byte)) : List Byte :=
  fields.foldl (fun acc f => patch acc f.1 f.2) (List.replicate n 0)

/-- The 256 bytes of a report (21 R356). -/
def Report.bytes (r : Report) (seq : W32) : List Byte :=
  leBytes 4 seq.toNat ++ leBytes 1 r.type ++ List.replicate 11 0 ++ (r.body ++ List.replicate 240 0).take 240

/-- The host link takes reports of a function: neither it is fenced nor the link of one of its clusters to the port die (01 R11; 19
R347; DEDUCED, log 69). -/
def State.linkUp (s : State) (i : Nat) : Bool := !s.fenced (unitCode 0 10 0) && !(s.clusters i).any s.portFenced

/-- There is room for one more report (21 R358). -/
def Fn.room (f : Fn) : Bool := (f.lasttx + 1 - f.rqhead).toNat < f.rqsize.toNat

/-- The entry of a report in the ring: 21 R352 counts from entry 0 of the queue that RQBASE named last, 21 R358 takes SEQ mod
RQSIZE; a free value says which (DESIGN CHOICE, log 74). -/
def Fn.entry (f : Fn) (seq : W32) : Nat := (if Config.rqFromZero then seq - f.rqstart else seq).toNat % f.rqsize.toNat

/-- Writes a report into the ring. -/
def State.putReport (s : State) (i : Nat) (f : Fn) (r : Report) : State :=
  let seq := f.lasttx + 1
  { s with
    hostMem := cellWrite s.hostMem (f.rqbase.toNat + 256 * f.entry seq) (r.bytes seq)
    fns := s.fns.set i { f with lasttx := seq } }

/-- Sends a report to a function: written at once when there is room and none is held, else held in order. After a fatal
error no report is written (21 R360). -/
def State.report (s : State) (i : Nat) (r : Report) : State :=
  if s.fatal then s
  else match s.fns[i]? with
    | none => s
    | some f =>
      if f.held.isEmpty && f.room && s.linkUp i then s.putReport i f r
      else { s with fns := s.fns.set i { f with held := f.held ++ [r] } }

/-- Writes the held reports while there is room. -/
def State.flushReports (s : State) (i : Nat) : Nat → State
  | 0 => s
  | n + 1 =>
    match s.fns[i]? with
    | none => s
    | some f =>
      match f.held with
      | [] => s
      | r :: rest =>
        if f.room && s.linkUp i then State.flushReports (State.putReport s i { f with held := rest } r) i n else s

/-- The function that owns a context; function 0 when it exists no more (21 R356). -/
def State.ownerOf (s : State) (ctx : Nat) : Nat :=
  match s.ctx? ctx with
  | none => 0
  | some c => if c.fn < s.fns.length then c.fn else 0

def State.reportCtx (s : State) (ctx : Nat) (r : Report) : State := s.report (s.ownerOf ctx) r

/-- Missing (TYPE 2). -/
def missingReport (ctx : Nat) (m : Miss) (malformed : Bool) (task : W64) : Report :=
  { type := 2
    body := layout 240
      [(0, leBytes 2 ctx),
       (2, leBytes 1 (match m with | .page _ => 0 | .ember => 1 | .freeList _ => 2 | .pool _ => 3)),
       (3, leBytes 1 malformed.toNat),
       (4, leBytes 1 (match m with | .pool p => p | _ => 0)),
       (8, leBytes 8 (match m with | .page ia => ia | .freeList ia => ia | _ => 0)),
       (16, leBytes 8 task.toNat)] }

/-- What a task of a context waits for is reported; a copy or a launch names no task. -/
def State.reportMiss (s : State) (ctx : Nat) (ms : List (Miss × Bool)) (task : W64 := 0) : State :=
  ms.foldl (fun s m => s.reportCtx ctx (missingReport ctx m.1 m.2 task)) s

/-- Frame freed (TYPE 3). -/
def frameReport (ctx source frame : Nat) : Report :=
  { type := 3, body := layout 240 [(0, leBytes 2 ctx), (2, leBytes 1 source), (8, leBytes 8 frame)] }

/-- Record refused (TYPE 4). -/
def refusedReport (ctx rkind reason addr : Nat) : Report :=
  { type := 4
    body := layout 240 [(0, leBytes 2 ctx), (2, leBytes 1 rkind), (3, leBytes 1 reason), (8, leBytes 8 addr)] }

/-- Discarded (TYPE 5). -/
def discardReport (ctx what : Nat) (task : W64) (ia : Nat) : Report :=
  { type := 5
    body := layout 240
      [(0, leBytes 2 ctx), (2, leBytes 1 what), (8, leBytes 8 task.toNat), (16, leBytes 8 ia)] }

/-- Save done (TYPE 6). -/
def saveReport (ctx : Nat) (bound : Bool) (teams : Nat) : Report :=
  { type := 6, body := layout 240 [(0, leBytes 2 ctx), (2, leBytes 1 bound.toNat), (4, leBytes 4 teams)] }

/-- Capability reports (TYPE 7): at most 56 units in each. -/
def capabilityReports (units : List W32) : List Report :=
  let n := max 1 ((units.length + 55) / 56)
  (List.range n).map fun j =>
    let part := (units.drop (56 * j)).take 56
    { type := 7
      body := layout 240
        ([(0, leBytes 2 part.length), (2, leBytes 2 (if j + 1 < n then 1 else 0))]
          ++ (part.zipIdx.map fun (u, i) => (8 + 4 * i, leBytes 4 u.toNat))) }

/-- Message fault (TYPE 8). -/
def messageReport (mseq : W32) (mtype reason mctx : Nat) (expected : W32) : Report :=
  { type := 8
    body := layout 240
      [(0, leBytes 4 mseq.toNat), (4, leBytes 1 mtype), (5, leBytes 1 reason), (6, leBytes 2 mctx),
       (8, leBytes 4 expected.toNat)] }

/-- Ready (TYPE 9). -/
def readyReport (firmware serial : W32) (clusters : List Nat) (hash : BitVec 256) : Report :=
  { type := 9, body := readyBody firmware serial clusters hash }

/-- Engine error (TYPE 10). -/
def engineReport (ctx source err template channel unit : Nat) (task ms : W64) (pos : Nat) : Report :=
  { type := 10
    body := layout 240
      [(0, leBytes 2 ctx), (2, leBytes 1 source), (3, leBytes 1 err), (4, leBytes 2 template), (6, leBytes 1 channel),
       (7, leBytes 1 unit), (8, leBytes 8 task.toNat), (16, leBytes 8 ms.toNat), (24, leBytes 4 pos)] }

/-- Codes of the causes (19 R330). -/
def Cause.code : Cause → Nat
  | .none => 0 | .ill => 1 | .brt => 2 | .legempty => 3 | .empty => 4 | .align => 5 | .prot => 6 | .pattern => 7
  | .dres => 8 | .mserr => 9 | .tmpl => 10 | .qrsdim => 11 | .ftvbad => 12 | .accslot => 13 | .nest => 14
  | .rstack => 15 | .vovf => 16 | .sys => 17 | .brk => 18 | .deadlock => 19 | .uncorr => 20 | .window => 21

/-- The 192-byte trap record (19 R333). -/
def trapRecord (type : Nat) (gid : GroupId) (t : Trap) (tpc : W64) (hops : List W64) : List Byte :=
  layout 192
    ([(0, leBytes 1 type), (1, leBytes 1 t.cause.code),
      (2, leBytes 1 (if t.cause = .deadlock then hops.length else 0)),
      (4, leBytes 2 gid.grp), (6, leBytes 2 gid.ctx), (8, leBytes 8 gid.task.toNat), (16, leBytes 8 tpc.toNat),
      (24, leBytes 8 t.info.toNat), (32, leBytes 4 t.lanes.toNat)]
      ++ (if t.cause = .deadlock then hops.zipIdx.map fun (h, i) => (64 + 8 * i, leBytes 8 h.toNat) else []))

end Sys2Proof.Machine
end

