-- ==== Sys2Proof/Machine/Lines.lean ====
section
/-! DEFINITION. Line requests of a cluster, page access counters, and the L1s of the cores (01 R13, R15; 11 R196 to R201). -/

namespace Sys2Proof

/-- The cluster of a site (01 R15). -/
def Site.cluster : Site → Nat
  | .core n => n / Config.coresPerCluster
  | .cc c => c

def Site.isCc : Site → Bool
  | .core _ => false
  | .cc _ => true

/-- Group slots of a site (01 R13, R18). -/
def Site.groupSlots : Site → Nat
  | .core _ => Config.groupSlots
  | .cc _ => Config.ccGroupSlots

end Sys2Proof

namespace Sys2Proof.Machine

/-! Page access counters and migration (11 R196). -/

def State.counter (s : State) (ctx cluster page : Nat) : Nat :=
  match s.counters.find? fun c => c.1 = (ctx, cluster, page) with
  | some c => c.2
  | none => 0

/-- Some team version of the context holds a byte of the page. -/
def State.versionOn (s : State) (ctx page : Nat) : Bool :=
  s.teams.any fun t => t.ctx = ctx && t.version.any fun c => page ≤ c.1 && c.1 < page + 65536

/-- A migration may begin (11 R196, R215). -/
def State.mayMigrate (s : State) (c : Ctx) (cluster : Nat) (page : Nat) (l : Leaf) : Bool :=
  l.migr && (l.kind = 0 || l.kind = 2) && !s.versionOn c.no page
    && !(s.ordered.any fun o =>
      o.gid.ctx = c.no && o.st = .buffered && (pageOf o.ia = page || pageOf ((o.ia + 15) % 2 ^ 52) = page))
    && (isLp l.frame || s.poolCount c (hbmPool (s.posOf cluster)) ≠ 0)
    && !(s.migrating c.no page) && !(s.tiers.any fun t => t.ctx = c.no && t.pages.contains page)

/-- A cluster sends a line request to another home: its counter rises, and at the threshold the page migrates. -/
def State.request (s : State) (c : Ctx) (cluster ia : Nat) (l : Leaf) : State :=
  if l.home = cluster || c.migt = 0 || !(l.migr && (l.kind = 0 || l.kind = 2)) then s
  else
    let page := pageOf ia
    let n := min (s.counter c.no cluster page + 1) c.migt
    let s1 := { s with
      counters := (s.counters.filter fun x => x.1 ≠ (c.no, cluster, page)) ++ [((c.no, cluster, page), n)] }
    if n = c.migt && s1.mayMigrate c cluster page l then
      { s1 with migrations := s1.migrations ++ [{ ctx := c.no, page, cluster }] }
    else s1

/-! The L1 of a core (11 R199, R200). -/

/-- Drops the L1 lines that satisfy a test. -/
def State.dropL1 (s : State) (p : L1Line → Bool) : State := { s with l1 := s.l1.filter fun l => !p l }

/-- An acquire at .clu or wider drops every P-page and S-page line of the core's L1 (11 R199, R211). -/
def State.acquire (s : State) (site : Site) (scope : Scope) : State :=
  match site with
  | .cc _ => s
  | .core k => if 3 ≤ scope.code then s.dropL1 fun l => l.core = k && !l.coherent else s

/-- The copy of a line in a core's L1. -/
def State.l1Line? (s : State) (core ctx line : Nat) : Option L1Line :=
  s.l1.find? fun l => l.core = core && l.ctx = ctx && l.line = line

/-- Lines leave the L1s at the end of a step by a free choice (11 R199; DESIGN CHOICE, log 18): a read that finds a line gone is
never followed by one that finds it again as it was (12 R233). -/
def State.evictL1 (s : State) : State := s.dropL1 fun l => Config.l1Evicted s.tick l.core l.ctx l.line

/-- A line enters a core's L1; in a full one the line that entered first leaves (01 R13; DESIGN CHOICE, log 18). -/
def State.l1Put (s : State) (core : Nat) (l : L1Line) : State :=
  let others := s.l1.filter fun x => !(x.core = core && x.ctx = l.ctx && x.line = l.line)
  let full := Config.l1Lines ≤ (others.filter fun x => x.core = core).length
  { s with l1 := (if full then others.eraseP fun x => x.core = core else others) ++ [l] }

/-- A load of a group at a site asks for a line: it is in the L1, or comes from the line's home (11 R196). E pages have no
L1 copies, and a control core has no L1 (01 R18, 11 R198). -/
def State.touchLine (s : State) (c : Ctx) (site : Site) (lf : Leaf) (line : Nat) : State :=
  match site with
  | .cc cl => s.request c cl line lf
  | .core k =>
    if lf.kind = 3 then s.request c site.cluster line lf
    else if (s.l1Line? k c.no line).isSome then s
    else (s.request c site.cluster line lf).l1Put k
      { core := k, ctx := c.no, line, bytes := s.pubRead lf c.no line 64, coherent := lf.kind = 2
        bad := s.pubBadWords lf c.no line }

/-- The L1 copy that a load of a P or S page returns; a C page always reads as published (11 R199, R200). -/
def State.l1Copy (s : State) (site : Site) (lf : Leaf) (ctx line : Nat) : Option L1Line :=
  match site with
  | .cc _ => none
  | .core k => if lf.kind = 3 || lf.kind = 2 then none else s.l1Line? k ctx line

/-- n bytes of one line as a load at a site finds them under any version (11 R199). -/
def State.l1Read (s : State) (site : Site) (lf : Leaf) (ctx ia n : Nat) : List Byte :=
  match s.l1Copy site lf ctx (lineOf ia) with
  | some l => (l.bytes.drop (ia % 64)).take n
  | none => s.pubRead lf ctx ia n

/-- Some of these bytes are uncorrectable where a load at a site finds them: in the core's L1 while it holds the line, a C line
too (11 R198; 19 R347), or else in published memory. -/
def State.l1Bad (s : State) (site : Site) (lf : Leaf) (ctx ia n : Nat) : Bool :=
  let out := s.pubBad lf ctx ia n
  match site with
  | .cc _ => out
  | .core k =>
    if lf.kind = 3 then out
    else match s.l1Line? k ctx (lineOf ia) with
      | some l => l.bad.any fun w => ia ≤ 8 * w + 7 && 8 * w < ia + n
      | none => out

end Sys2Proof.Machine
end

