-- ==== Sys2Proof/Machine/Ops.lean ====
section
/-! DEFINITION. The shared operations on groups, teams and launches: looking them up and updating them, retiring an
instruction, parking, switching a team out, the reconvergence stack, transfers, taking a trap and ending a team
(03 R44 to R53; 05 R83 to R91; 07 R107, R119, R120; 19 R331 to R337). -/

namespace Sys2Proof.Machine

abbrev Out := Host.Outcome State Fault Refusal

/-! Finding and updating. -/

def State.group? (s : State) (id : GroupId) : Option Group := s.groups.find? fun g => g.id = id
def State.team? (s : State) (ctx : Nat) (task : W64) : Option Team := s.teams.find? fun t => t.ctx = ctx && t.task = task
def State.launch? (s : State) (ctx : Nat) (serial : W32) : Option Launch :=
  s.launches.find? fun l => l.ctx = ctx && l.serial = serial

def State.setGroup (s : State) (g : Group) : State :=
  { s with groups := s.groups.map fun x => if x.id = g.id then g else x }
def State.updGroup (s : State) (id : GroupId) (f : Group → Group) : State :=
  { s with groups := s.groups.map fun x => if x.id = id then f x else x }
def State.updTeam (s : State) (ctx : Nat) (task : W64) (f : Team → Team) : State :=
  { s with teams := s.teams.map fun t => if t.ctx = ctx && t.task = task then f t else t }
def State.updLaunch (s : State) (ctx : Nat) (serial : W32) (f : Launch → Launch) : State :=
  { s with launches := s.launches.map fun l => if l.ctx = ctx && l.serial = serial then f l else l }

/-- Serial of a task identifier (03 R31). -/
def taskSerial (task : W64) : W32 := task.extractLsb' 32 32

def State.launchOf (s : State) (id : GroupId) : Option Launch := s.launch? id.ctx (taskSerial id.task)
def State.teamOf (s : State) (id : GroupId) : Option Team := s.team? id.ctx id.task

/-- The groups of a team. -/
def State.groupsOf (s : State) (ctx : Nat) (task : W64) : List Group :=
  s.groups.filter fun g => g.id.ctx = ctx && g.id.task = task

/-- A group holds its slot and window (13 of 03 R42, 19 R335, R337, R340). -/
def TSt.holds : TSt → GSt → Bool
  | .resident, .saved _ => false
  | .resident, _ => true
  | .leaving _, _ => true
  | .aborting _, _ => true
  | .retiring, _ => false
  | _, _ => false

def State.holds (s : State) (g : Group) : Bool :=
  match s.teamOf g.id with
  | none => false
  | some t => t.st.holds g.st

/-- The team has its scratchpad share. -/
def TSt.hasShare : TSt → Bool
  | .resident | .leaving _ | .aborting _ | .retiring => true
  | _ => false

/-- Scratchpad bytes of a launch's teams. -/
def State.scratchOf (s : State) (ctx : Nat) (serial : W32) : Nat :=
  match s.launch? ctx serial with
  | none => 0
  | some l => l.lrec.scratch

/-- The team's share as offset in its cluster's window, and its size. -/
def State.shareOf (s : State) (t : Team) : Option (Nat × Nat × Nat) :=
  match t.share with
  | none => none
  | some (core, off) =>
    some (core / 256, core % 256 * Config.scratchBytes + off, s.scratchOf t.ctx t.serial)

/-! Legs and instructions. -/

def emptyO : List (Option Row) := List.replicate 32 none
def emptyL : List (Option (List W64)) := List.replicate 4 none
def fullMask : W32 := 0xFFFFFFFF

/-- Words of a block after its signpost (05 R83). -/
def Block.len (b : Block) : Nat := bitsN b.word.toNat 58 52
/-- Address of the word after the block. -/
def Block.stop (b : Block) : W64 := b.addr + 8 + BitVec.ofNat 64 (8 * b.len)

/-- A well-formed signpost (05 R83). -/
def spOk (w : W64) : Bool :=
  let n := w.toNat
  bitsN n 63 59 = 31 && 1 ≤ bitsN n 58 52 && bitsN n 35 28 ≤ 128 && bitsN n 23 20 = 0 && bitsN n 15 0 = 0
def spResume (w : W64) : Bool := w.getLsbD 19
def spEntry (w : W64) : Bool := w.getLsbD 18
def spLoop (w : W64) : Bool := w.getLsbD 17
def spRcv (w : W64) : Bool := w.getLsbD 16
def spLive (w : W64) : Nat := bitsN w.toNat 35 28
/-- RECONV as a byte offset. -/
def spReconv (w : W64) : W64 := (w.extractLsb' 36 16).signExtend 64 * 8

/-- An operand-file entry. -/
def isO : Opd → Bool
  | .o _ => true
  | _ => false

/-- A leg ends: its files empty, its slot is left (05 R73, R75). -/
def Group.endLeg (g : Group) (now : Nat) : Group :=
  { g with
    o := emptyO, l := emptyL, legPos := 0, st := .ready, since := now
    bad := g.bad.filter fun x => !isO x }

/-- An instruction of `len` words completes (07 R131; 05 R88). A re-issue belongs to no leg (07 R119). -/
def Group.retire (g : Group) (len : Nat) (e : Bool) (now : Nat) : Group :=
  match g.reissue with
  | _ :: rest => { g with reissue := rest, ric := g.ric + 1 }
  | [] =>
    let pc := g.pc + BitVec.ofNat 64 (8 * len)
    let stop := match g.block with | some b => pc = b.stop | none => false
    let g1 := { g with pc, ric := g.ric + 1, legPos := g.legPos + 1, block := if stop then none else g.block }
    if e || stop then g1.endLeg now else g1

/-- The instruction completes with the group as given. -/
def State.retire (s : State) (g : Group) (h : Hdr) : State := s.setGroup (g.retire h.len h.e s.now)

/-- A parked group's instruction completes (07 R113, R115); one that is saved stays saved. -/
def State.complete (s : State) (g : Group) : State :=
  let g1 := g.retire g.ilen g.ie s.now
  s.setGroup { g1 with st := match g.st with | .saved _ => .saved none | _ => .ready, since := s.now }

/-- What a group is parked on, or was when it was saved. -/
def Group.blockedOn (g : Group) : Option Park :=
  match g.st with
  | .parked w => some w
  | .saved w => w
  | _ => none

/-- The barrier at which a group has arrived. -/
def Group.atBar (g : Group) : Option Nat := match g.blockedOn with | some (.bar n) => some n | _ => none

/-- A group leaves its slot to be saved with its team (19 R337, R339). -/
def Group.save (g : Group) : Group := { g with st := .saved g.blockedOn }

/-- The address of the instruction that the group executes. -/
def Group.at_ (g : Group) : W64 := g.reissue.headD g.pc

/-! Reading as the group would: published memory under the team's version (03 R50; 05 R84). -/

/-- A byte that a version holds. -/
def verGet (v : List Host.Cell) (a : Nat) : Option Byte :=
  match v with
  | [] => none
  | (k, b) :: t => if k = a then some b else if a < k then none else verGet t a

/-- The version's bytes over n published ones. -/
def overlay (v : List Host.Cell) (a : Nat) : List Byte → List Byte
  | [] => []
  | b :: bs => (verGet v a).getD b :: overlay v (a + 1) bs

/-- Version of a team. -/
def State.versionOf (s : State) (id : GroupId) : List Host.Cell :=
  match s.teamOf id with
  | none => []
  | some t => t.version

/-- Physical address of an entry of the version spill area (03 R52, 19 R336). -/
def Ctx.verEntry (c : Ctx) (e : Nat) : Nat := c.vsbase + 128 * e

/-- A byte that a version holds is uncorrectable: in its slice, or in the spill area (19 R348). -/
def State.verByteBad (s : State) (c : Ctx) (t : Team) (a : Nat) : Bool :=
  t.verBad.contains (a / 8) || match t.spilled.find? fun x => x.1 = lineOf a with
    | some (_, e) => s.badMem (c.verEntry e + a % 64) 1
    | none => false

/-- Pieces of a team's version stand in the spill area, which cannot be reached from their homes (03 R52; 19 R347; DEDUCED,
log 69). -/
def State.spilledAway (s : State) (c : Ctx) (task : W64) (ps : List Piece) : Bool :=
  !s.fences.isEmpty && (s.team? c.no task).any fun t => ps.any fun p =>
    t.spilled.any fun x => x.1 = lineOf p.ia && s.frameFenced p.leaf.home (c.verEntry x.2)

/-- Some of n bytes of one line are uncorrectable as a group reads them: of its team's version where that holds them, else
of its L1 or of published memory (03 R50; 19 R348; DEDUCED, log 65). -/
def State.seenBad (s : State) (c : Ctx) (id : GroupId) (site : Site) (l : Leaf) (ia n : Nat) : Bool :=
  if l.kind = 3 then s.pubBad l c.no ia n
  else match s.teamOf id with
    | none => s.l1Bad site l c.no ia n
    | some t =>
      (s.l1Bad site l c.no ia n || !t.verBad.isEmpty || !t.spilled.isEmpty) && (List.range n).any fun j =>
        if (verGet t.version (ia + j)).isSome then s.verByteBad c t (ia + j) else s.l1Bad site l c.no (ia + j) 1

/-- n bytes of one line as a group reads them (03 R50). -/
def State.seen (s : State) (c : Ctx) (id : GroupId) (site : Site) (l : Leaf) (ia n : Nat) : List Byte :=
  if l.kind = 3 then s.pubRead l c.no ia n else overlay (s.versionOf id) ia (s.l1Read site l c.no ia n)

/-- A read that a group makes: refused with the failing address, missing pages, a page under migration, uncorrectable, or
bytes. -/
inductive Rd where
  | prot (va : W64)
  | miss (ms : List (Miss × Bool))
  | wait
  | bad (va : W64)
  | ok (bs : List Byte)
  deriving DecidableEq, Repr

/-- Two reads one after the other: while one waits nothing is known of it yet; a protection failure comes before a missing page. -/
def Rd.then (a b : Rd) : Rd :=
  match a, b with
  | .wait, _ => .wait
  | _, .wait => .wait
  | .prot v, _ => .prot v
  | _, .prot v => .prot v
  | .miss x, .miss y => .miss (x ++ y.filter fun m => !x.contains m)
  | .miss x, _ => .miss x
  | _, .miss y => .miss y
  | .bad v, _ => .bad v
  | _, .bad v => .bad v
  | .ok x, .ok y => .ok (x ++ y)

/-- The site of a group. -/
def State.siteOf (s : State) (id : GroupId) : Site := match s.group? id with | some g => g.site | none => .cc 0

/-- n bytes of pieces as a group reads them. -/
def State.seenAll (s : State) (c : Ctx) (id : GroupId) (site : Site) (ps : List Piece) : List Byte :=
  ps.flatMap fun p => s.seen c id site p.leaf p.ia p.n

/-- Some of them are uncorrectable. -/
def State.seenAnyBad (s : State) (c : Ctx) (id : GroupId) (site : Site) (ps : List Piece) : Bool :=
  ps.any fun p => s.seenBad c id site p.leaf p.ia p.n

/-- Two lists of pieces have a byte in common. -/
def meetPieces (ps qs : List Piece) : Bool := ps.any fun p => qs.any fun q => q.ia < p.ia + p.n && p.ia < q.ia + q.n

/-- An ordered contribution of the group to a cell that meets these bytes is still on its way, and is the one that its slice applies
next: the group's later accesses there come after it (07 R144). Those whose rank has not come hold nothing (11 R207, R208; DEDUCED,
log 139). -/
def State.cellDue (s : State) (id : GroupId) (ps : List Piece) : Bool :=
  s.ordered.any fun o => o.gid = id && o.st ≠ .buffered && match s.ctx? id.ctx with
    | none => false
    | some c =>
      let x := s.span c o.ia 16
      x.missing.isEmpty && meetPieces ps x.pieces && nat8 (s.readPieces c.no x.pieces) 8 4 = o.rank.toNat

/-- Where a read of a group at an address goes; `code` restricts to NORMAL ranges (05 R84). -/
def State.readAt (s : State) (id : GroupId) (c : Ctx) (code : Bool) (va : W64) (n : Nat) : Rd ⊕ List Piece :=
  match s.xlat c (s.siteOf id).cluster va with
  | .prot => .inl (.prot va)
  | .aperture _ => .inl (.prot va)
  | .fabric _ => .inl (.prot va)
  | .miss ms => .inl (if code then .prot va else .miss ms)
  | .wait => .inl (if code then .prot va else .wait)
  | .ia ia => go ia
  | .row ia _ _ _ => if code then .inl (.prot va) else go ia
where
  go (ia : Nat) : Rd ⊕ List Piece :=
    let x := s.span c ia n
    if x.held then .inl .wait
    else if !x.missing.isEmpty then .inl (.miss x.missing)
    else if s.unreached (s.siteOf id).cluster c.no x.pieces || s.spilledAway c id.task x.pieces || s.cellDue id x.pieces then
      .inl .wait
    else .inr x.pieces

/-- n bytes, at most 64, as a load of the group reads them (03 R50; 05 R84; 11 R199). -/
def State.readLine (s : State) (id : GroupId) (code : Bool) (va : W64) (n : Nat) : Rd :=
  match s.ctx? id.ctx with
  | none => .prot va
  | some c =>
    match s.readAt id c code va n with
    | .inl r => r
    | .inr ps => if s.seenAnyBad c id (s.siteOf id) ps then .bad va else .ok (s.seenAll c id (s.siteOf id) ps)

/-- The lines that such reads ask for, each once, where they read any (11 R196, R199). -/
def State.noteLines (s : State) (id : GroupId) (code : Bool) (reads : List (W64 × Nat)) : State :=
  match s.ctx? id.ctx with
  | none => s
  | some c =>
    (linesIn (reads.flatMap fun x => match s.readAt id c code x.1 x.2 with | .inl _ => [] | .inr ps => ps)).foldl
      (fun s x => s.touchLine c (s.siteOf id) x.2 x.1) s

/-- k chunks of w bytes each from va on. -/
def State.readSpan (s : State) (id : GroupId) (va : W64) (w : Nat) : Nat → Rd
  | 0 => .ok []
  | k + 1 => (s.readLine id false va w).then (State.readSpan s id (va + BitVec.ofNat 64 w) w k)

/-- The lines that reads of k chunks of w bytes ask for. -/
def State.noteSpan (s : State) (id : GroupId) (va : W64) (w k : Nat) : State := s.noteLines id false (vaBlocks va (w * k))

/-- A code word. -/
def State.codeWord (s : State) (id : GroupId) (va : W64) : Rd := s.readLine id true va 8

def wordOf (bs : List Byte) : W64 := BitVec.ofNat 64 (leNat bs)

/-! Switch-out (19 R337): the stop of the groups and the count; the image is written by a later step. -/

/-- A team begins to be switched out: every group leaves its slot with what it has in the leg, its RGROW requests leave
the queue, and each missing page is reported (11 R192, R219; 03 R45; 19 R337). The probes that its groups have under way are dropped
(03 R59; DESIGN CHOICE, log 147). -/
def State.leave (s : State) (ctx : Nat) (task : W64) (why : Leave) (ms : List (Miss × Bool)) : State :=
  let ms := distinctMiss ms
  let s1 := ms.foldl (fun s m => s.reportCtx ctx (missingReport ctx m.1 m.2 task)) s
  let s2 := s1.updTeam ctx task fun t =>
    { t with st := .leaving why, missing := ms.map (·.1), requeued := true }
  { s2 with
    groups := s2.groups.map fun g =>
      if g.id.ctx = ctx && g.id.task = task && g.st ≠ .exited then g.save else g
    growq := s2.growq.filter fun r => !(r.gid.ctx = ctx && r.gid.task = task)
    allowq := s2.allowq.filter fun q => !(q.2.ctx = ctx && q.2.task = task)
    probes := s2.probes.filter fun p => !(p.origin.ctx = ctx && p.origin.task = task) }

/-- The team of a group is switched out for missing pages; its instruction has made no access and issues again. -/
def State.missing (s : State) (g : Group) (ms : List (Miss × Bool)) : State :=
  s.leave g.id.ctx g.id.task .missing ms

/-! Ending a team (07 R120, 19 R332). -/

/-- Every group stops, outstanding loads are dropped, the version is discarded; the report follows the discard. -/
def State.endTeam (s : State) (ctx : Nat) (task : W64) (record : List Byte) : State :=
  let mine (id : GroupId) : Bool := id.ctx = ctx && id.task = task
  let s1 := s.updTeam ctx task fun t => { t with st := .aborting record, version := [], verBad := [], spilled := [], missing := [] }
  { s1 with
    groups := s1.groups.map fun g => if mine g.id then { g with st := .exited } else g
    loads := s1.loads.filter fun l => !mine l.gid
    growq := s1.growq.filter fun r => !mine r.gid
    allowq := s1.allowq.filter fun q => !mine q.2
    claims := s1.claims.filter fun c => !mine c.gid
    probes := s1.probes.filter fun p => !mine p.origin
    vlines := s1.vlines.filter fun v => !(v.ctx = ctx && v.task = task) }

/-! The reconvergence stack (05 R89 to R91). -/

def RcEntry.bytes (e : RcEntry) : List Byte :=
  leBytes 8 e.addr.toNat ++ leBytes 4 e.mask.toNat ++ leBytes 1 (if e.path then 1 else 0) ++ List.replicate 3 0

def RcEntry.ofBytes (bs : List Byte) : RcEntry :=
  { addr := wordOf (bs.take 8), mask := BitVec.ofNat 32 (nat8 bs 8 4), path := nat8 bs 12 1 = 1 }

/-- Physical address of entry i of spill area j. -/
def Ctx.spillAddr (c : Ctx) (area i : Nat) : Nat := c.rsbase + 16 * c.rsent * area + 16 * i

/-- The spill index below which entries belong to what a trap interrupted (19 R331). -/
def Group.spillBase (g : Group) : Nat :=
  if g.tmask then (match g.tsave with | some t => t.spill | none => 0) else 0

/-- The partition owns a spill area; one that it does not own is not used (01 R24; DESIGN CHOICE, log 128). -/
def State.areaOwned (s : State) (c : Ctx) (a : Nat) : Bool := s.ownsBytes c.part (c.spillAddr a 0) (16 * c.rsent)

/-- Pops the top entry and refills from the spill area (05 R91); an entry that is uncorrectable there goes on as it reads (DESIGN
CHOICE, log 135). -/
def State.popRc (s : State) (g : Group) : Group :=
  let rest := g.stack.tail
  if g.spillBase < g.spill then
    match s.ctx? g.id.ctx, g.area with
    | some c, some a =>
      if s.areaOwned c a then
        { g with
          stack := rest ++ [RcEntry.ofBytes (cellRead s.mem (c.spillAddr a (g.spill - 1)) 16)], spill := g.spill - 1 }
      else { g with stack := rest }
    | _, _ => { g with stack := rest }
  else { g with stack := rest }

/-- A free spill area of the context (19 R335). -/
def State.freeArea (s : State) (c : Ctx) : Option Nat :=
  (List.range c.rsareas).find? fun a =>
    s.areaOwned c a && !s.groups.any fun g => g.id.ctx = c.no && g.area = some a

/-- The spill area of a group, or the one that it would get. -/
def State.areaFor (s : State) (c : Ctx) (g : Group) : Option Nat :=
  match g.area with | some a => if s.areaOwned c a then some a else none | none => s.freeArea c

/-- The spill area of a group cannot be reached from its cluster (01 R11; 19 R347; DEDUCED, log 69). -/
def State.areaFenced (s : State) (g : Group) : Bool :=
  (s.ctx? g.id.ctx).any fun c => (s.areaFor c g).any fun a => s.frameFenced g.site.cluster (c.spillAddr a 0)

/-- A push of n entries writes to a spill area that cannot be reached. -/
def State.pushWaits (s : State) (g : Group) (n : Nat) : Bool := Config.stackEntries < g.stack.length + n && s.areaFenced g

/-- Pushes entries (the last becomes the top), spilling the oldest; none when the area has not enough left. -/
def State.pushRc (s : State) (g : Group) (es : List RcEntry) : Option (State × Group) :=
  let all := es.reverse ++ g.stack
  let more := all.length - Config.stackEntries
  if more = 0 then some (s, { g with stack := all })
  else
    match s.ctx? g.id.ctx with
    | none => none
    | some c =>
      match s.areaFor c g with
      | none => none
      | some a =>
        if c.rsent < g.spill + more then none
        else
          let out := (all.drop Config.stackEntries).reverse
          some ((out.zipIdx).foldl (fun s x => s.writeMem (c.spillAddr a (g.spill + x.2)) x.1.bytes) s,
            { g with stack := all.take Config.stackEntries, area := some a, spill := g.spill + more })

/-! Transfers and arrivals (05 R84, R86, R90; 07 R107). -/

/-- What a target holds. -/
inductive Tgt where
  | bad
  | miss (ms : List (Miss × Bool))
  | wait
  | uncorr
  | ok (w : W64)
  deriving DecidableEq, Repr

/-- The signpost at an address, as a taken transfer checks it. -/
def State.target (s : State) (id : GroupId) (a : W64) : Tgt :=
  if a.toNat % 8 ≠ 0 then .bad
  else match s.codeWord id a with
    | .prot _ => .bad
    | .miss ms => .miss ms
    | .wait => .wait
    | .bad _ => .uncorr
    | .ok bs => if spOk (wordOf bs) then .ok (wordOf bs) else .bad

/-- An arrival at a well-formed signpost: at an RCV signpost the stack is checked once (05 R90; DEDUCED, log 14). -/
def State.arrive (s : State) (g : Group) (a : W64) (w : W64) : Group :=
  let here := { g with pc := a + 8, block := some { addr := a, word := w } }
  if spRcv w then
    match g.stack with
    | e :: rest =>
      if e.path then
        match rest with
        | e2 :: _ =>
          if e2.addr = a then { s.popRc g with exm := e.mask, pc := e.addr, block := none } else here
        | [] => here
      else if e.addr = a then { s.popRc here with exm := e.mask }
      else here
    | [] => here
  else here

/-! Taking a trap (19 R331, R332). -/

/-- What a trap keeps of the group (19 R331). Traps raised after issue that were still to be taken, and instructions still
to be issued once more, wait in it for TRAPRET (DEDUCED, log 33). -/
def Group.trapSave (g : Group) (next : W64) (e : Bool) (resume : Option W64) : TrapSave :=
  { exm := g.exm, stack := g.stack, spill := g.spill, o := g.o, l := g.l, legPos := g.legPos, block := g.block, next, e, resume
    reissue := g.reissue, pend := g.pend, bad := g.bad.filter isO }

/-- The handler of a group's launch; 0 when it has none. -/
def State.handlerOf (s : State) (id : GroupId) : W64 := match s.launchOf id with | some l => l.lrec.handler | none => 0

/-- The trap enters the handler, or ends the team. `tpc` is the address that %tpc receives, `next` the word after the
instruction there, `resume` the resume point of a trap raised after issue, `hops` the probe's list. A HANDLER whose signpost
is uncorrectable ends the team with UNCORR at that address (DEDUCED, log 83); one that is bad ends it with BRT in the place of the
trap's cause, its information and lanes as they were (DESIGN CHOICE, log 122). While the handler's page migrates nothing
happens, and the trap is raised again. -/
def State.trapAt (s : State) (g : Group) (tpc next : W64) (resume : Option W64) (hops : List W64) (t : Trap)
    (e : Bool := false) : State :=
  let ends (type : Nat) (t : Trap) (tpc : W64) : State := s.endTeam g.id.ctx g.id.task (trapRecord type g.id t tpc hops)
  let handler := s.handlerOf g.id
  if g.tmask then ends 3 t tpc
  else if handler = 0 then ends 2 t tpc
  else
    match s.target g.id handler with
    | .miss ms => s.missing g ms
    | .wait => s
    | .bad => ends 2 { t with cause := .brt } tpc
    | .uncorr => ends 2 { t with cause := .uncorr } handler
    | .ok w =>
      if !spEntry w then ends 2 { t with cause := .brt } tpc
      else
        let g1 : Group :=
          { g with
            tcause := t.cause, tpc, tinfo := t.info, tlane := t.lanes, tsave := some (g.trapSave next e resume)
            tmask := true, exm := fullMask, stack := [], pend := [], reissue := [] }
        let g2 := (s.arrive g1 handler w).endLeg s.now
        let s1 := s.setGroup g2
        if t.cause = .deadlock then
          s1.reportCtx g.id.ctx { type := 1, body := layout 240 [(0, trapRecord 4 g.id t tpc hops)] }
        else s1

/-- The trap of an instruction at issue, of `len` words: a re-issued one was to be followed by the resume point (07 R119). -/
def State.trapIssued (s : State) (g : Group) (len : Nat) (e : Bool) (hops : List W64) (t : Trap) : State :=
  let next := g.at_ + BitVec.ofNat 64 (8 * len)
  match g.reissue with
  | [] => s.trapAt g g.pc next none hops t e
  | a :: rest => s.trapAt { g with reissue := rest } a next (some g.pc) hops t

/-- A trap raised at the issue of an instruction. -/
def State.trap (s : State) (g : Group) (h : Hdr) (t : Trap) : State := s.trapIssued g h.len h.e [] t

/-- A taken transfer to `a`, whose signpost carries what `need` asks, or BRT before anything is written (07 R107). Where the
target's word is uncorrectable the transfer is made, and its arrival traps there (05 R84; DEDUCED, log 84). -/
def State.transfer (s : State) (g : Group) (h : Hdr) (a : W64) (need : W64 → Bool) (done : Group → Group) : State :=
  match s.target g.id a with
  | .bad => s.trap g h { cause := .brt }
  | .miss ms => s.missing g ms
  | .wait => s
  | .uncorr => s.setGroup ({ done g with ric := g.ric + 1, pc := a, block := none }.endLeg s.now)
  | .ok w =>
    if !need w then s.trap g h { cause := .brt }
    else s.setGroup ((s.arrive { done g with ric := g.ric + 1 } a w).endLeg s.now)

/-- The current group, or the model's own fault. -/
def State.withGroup (s : State) (k : Group → Out) : Out :=
  match s.cur with
  | none => .fault .noGroup
  | some id =>
    match s.group? id with
    | none => .fault .noGroup
    | some g => k g

/-! Parking. -/

/-- Nothing of the group is outstanding that a save would wait for (05 R80, 11 R209, 13 R257). DEDUCED, log 55. -/
def State.quiet (s : State) (id : GroupId) : Bool :=
  !(s.loads.any fun l => l.gid = id) && !(s.ordered.any fun o => o.gid = id && o.st ≠ .buffered)
    && !(s.starts.any fun t => t.gid = some id && t.st ≠ .queued)

/-- A parked group of a context under %prq is saved at once, unless in a handler (19 R340, R341); its probe under way is
dropped (DESIGN CHOICE, log 147). -/
def State.trySave (s : State) (id : GroupId) : State :=
  match s.group? id, s.ctx? id.ctx, s.teamOf id with
  | some g, some c, some t =>
    match g.st with
    | .parked _ =>
      if c.prq && !g.tmask && t.st = .resident && s.quiet id then
        { s.setGroup g.save with
          growq := s.growq.filter fun r => r.gid ≠ id
          allowq := s.allowq.filter fun q => q.2 ≠ id
          probes := s.probes.filter fun p => p.origin ≠ id }
      else s
    | _ => s
  | _, _, _ => s

/-! Free resources of a core (01 R13). -/

def State.slotsFree (s : State) (site : Site) : Nat :=
  site.groupSlots - (s.groups.filter fun g => g.site = site && s.holds g).length

def State.regsFree (s : State) (site : Site) : Nat :=
  Config.mainFileRegs - ((s.groups.filter fun g => g.site = site && s.holds g).map fun g => g.v.length).foldl (· + ·) 0

/-- Shares held on a core: offset, size, context. -/
def State.sharesOn (s : State) (core : Nat) : List (Nat × Nat × Nat) :=
  s.teams.filterMap fun t =>
    match t.share with
    | some (k, off) => if k = core && t.st.hasShare then some (off, s.scratchOf t.ctx t.serial, t.ctx) else none
    | none => none

def zeroRow : Row := List.replicate 32 0

/-- The uncorrectable marks that a window of n registers leaves (03 R62). -/
def Group.inWindow (g : Group) (n : Nat) : List Opd := g.bad.filter fun x => match x with | .v k => k.val < n | _ => true

/-- A granted RGROW: the new registers are zero and full, and the instruction completes (03 R62). -/
def Group.grow (g : Group) (n : Nat) : Group :=
  { g with v := g.v ++ List.replicate (n - g.v.length) zeroRow
           full := g.full ++ List.replicate (n - g.v.length) true
           bad := g.inWindow g.v.length
           want := 0 }

/-- Grants the requests of a core from the head of its queue, whole or not at all (03 R45). -/
def State.grantGrow (s : State) (site : Site) : Nat → State
  | 0 => s
  | n + 1 =>
    match s.growq.find? fun r => (match s.group? r.gid with | some g => g.site = site | none => false) with
    | none => s
    | some r =>
      match s.group? r.gid with
      | none => s
      | some g =>
        if r.n - g.v.length ≤ s.regsFree site then
          let s1 := { s with growq := s.growq.filter fun x => x.gid ≠ r.gid }
          State.grantGrow (s1.complete (g.grow r.n)) site n
        else s

def Group.isParked (g : Group) : Bool := match g.st with | .parked _ => true | _ => false

/-- What follows when registers of a core become free (03 R45). -/
def State.settleRegs (s : State) (site : Site) : State := s.grantGrow site s.growq.length

/-- The group parks: it leaves its slot with its leg-local files, and its instruction stands (03 R47, 05 R75). -/
def State.park (s : State) (g : Group) (h : Hdr) (why : Park) : State :=
  let s1 := s.setGroup
    { g with
      st := .parked why, since := s.now, probeAt := s.now + g.wft.toNat, seq := s.tick, ilen := h.len, ie := h.e }
  (s1.trySave g.id).settleRegs g.site

/-! Barriers (07 R113). -/

/-- Releases barrier n of a team when every group that has not exited has arrived. -/
def State.releaseBar (s : State) (ctx : Nat) (task : W64) (n : Nat) : State :=
  let gs := (s.groupsOf ctx task).filter fun g => g.st ≠ .exited
  if !gs.isEmpty && gs.all fun g => g.atBar = some n then gs.foldl (fun s g => s.complete g) s else s

/-- An exit counts as arriving at every barrier where siblings are parked. -/
def State.releaseBars (s : State) (ctx : Nat) (task : W64) : State :=
  (List.range 16).foldl (fun s n => s.releaseBar ctx task n) s

end Sys2Proof.Machine
end

