-- ==== Sys2Proof/Machine/Number.lean ====
section
/-! DEFINITION. Number formats and rounding (09 R147 to R159): patterns as exact values, one rounding of an exact value,
and the sums and products that the float instructions are made of. -/

namespace Sys2Proof.Machine

/-- A floating-point format (09 R147): exponent bits, mantissa bits, bias, whether it has infinities and NaNs. -/
structure Fmt where
  eb : Nat
  mb : Nat
  bias : Nat
  hasInf : Bool
  hasNan : Bool
  deriving DecidableEq, Repr

def Fmt.width (f : Fmt) : Nat := 1 + f.eb + f.mb

/-- The format of a float type; f32 for every other type. -/
def fmtOf : Ty → Fmt
  | .f16 => ⟨5, 10, 15, true, true⟩
  | .bf16 => ⟨8, 7, 127, true, true⟩
  | .e4m3 => ⟨4, 3, 7, false, true⟩
  | .e5m2 => ⟨5, 2, 15, true, true⟩
  | .e2m1 => ⟨2, 1, 1, false, false⟩
  | _ => ⟨8, 23, 127, true, true⟩

/-- Sign bit of a format. -/
def Fmt.sign (f : Fmt) : Nat := 2 ^ (f.eb + f.mb)

/-- Largest exponent field. -/
def Fmt.emax (f : Fmt) : Nat := 2 ^ f.eb - 1

/-- Pattern of the largest finite value (09 R149). -/
def Fmt.maxFin (f : Fmt) : Nat :=
  if f.hasInf then (f.emax - 1) * 2 ^ f.mb + (2 ^ f.mb - 1)
  else if f.hasNan then f.emax * 2 ^ f.mb + (2 ^ f.mb - 2)
  else f.emax * 2 ^ f.mb + (2 ^ f.mb - 1)

/-- Pattern of +∞. -/
def Fmt.inf (f : Fmt) : Nat := f.emax * 2 ^ f.mb

/-- The canonical NaN (09 R149); 0 for e2m1, which has none (09 R159). -/
def Fmt.nan (f : Fmt) : Nat :=
  if f.hasInf then f.emax * 2 ^ f.mb + 2 ^ (f.mb - 1)
  else if f.hasNan then f.emax * 2 ^ f.mb + (2 ^ f.mb - 1)
  else 0

/-- An exact value: NaN, an infinity, or (−1)^neg × m × 2^e. -/
inductive FVal where
  | nan
  | inf (neg : Bool)
  | num (neg : Bool) (m : Nat) (e : Int)
  deriving DecidableEq, Repr

/-- The value of a pattern (09 R148, R149). -/
def Fmt.val (f : Fmt) (x : Nat) : FVal :=
  let neg := x / f.sign % 2 = 1
  let e := x / 2 ^ f.mb % 2 ^ f.eb
  let m := x % 2 ^ f.mb
  if f.hasInf && e = f.emax then (if m = 0 then .inf neg else .nan)
  else if !f.hasInf && f.hasNan && e = f.emax && m = 2 ^ f.mb - 1 then .nan
  else if e = 0 then .num neg m (1 - f.bias - f.mb)
  else .num neg (2 ^ f.mb + m) (e - f.bias - f.mb)

def Fmt.isNan (f : Fmt) (x : Nat) : Bool := f.val x = .nan

/-- The bits of a number: 0 for 0. -/
def bitLen (m : Nat) : Nat := if m = 0 then 0 else Nat.log2 m + 1

/-- Rounds n + rem/2^sh up or not: `rem` of `sh` bits and a sticky bit below them (09 R153). -/
def roundUp (rm : Rm) (neg : Bool) (n rem sh : Nat) (sticky : Bool) : Bool :=
  let inexact := rem ≠ 0 || sticky
  match rm with
  | .rne =>
    let half := if sh = 0 then 1 else 2 ^ (sh - 1)
    (half < rem && sh ≠ 0) || (rem = half && sh ≠ 0 && (sticky || n % 2 = 1))
  | .rtz => false
  | .rup => inexact && !neg
  | .rdn => inexact && neg
  | .rsr => false

/-- (m, sticky) × 2^e as a multiple of 2^q, rounded; `r` are the random bits of .rsr (09 R153, R156). -/
def roundAt (rm : Rm) (r : Nat) (neg : Bool) (m : Nat) (e q : Int) (sticky : Bool) : Nat :=
  if q ≤ e then m * 2 ^ (e - q).toNat + (if roundUp rm neg m 0 0 sticky then 1 else 0)
  else
    let sh := (q - e).toNat
    match rm with
    | .rsr => (m * 65536 + 2 ^ sh * r) / 2 ^ (sh + 16)
    | _ =>
      let n := m / 2 ^ sh
      n + (if roundUp rm neg n (m % 2 ^ sh) sh sticky then 1 else 0)

/-- The result beyond the largest finite value (09 R154). -/
def Fmt.overflow (f : Fmt) (rm : Rm) (sat neg : Bool) : Nat :=
  let s := if neg then f.sign else 0
  let toL := sat || rm = .rtz || (rm = .rup && neg) || (rm = .rdn && !neg)
  if toL || !f.hasNan then s + f.maxFin
  else if f.hasInf then s + f.inf
  else s + f.nan

/-- round(fmt, x, mode) of x = ±(m, sticky) × 2^e, a zero keeping the sign (09 R153, R154). -/
def Fmt.round (f : Fmt) (rm : Rm) (sat : Bool) (r : Nat) (neg : Bool) (m : Nat) (e : Int) (sticky : Bool := false) : Nat :=
  let s := if neg then f.sign else 0
  if m = 0 && !sticky then s
  else
    let top : Int := e + bitLen m - 1
    let emin : Int := 1 - f.bias
    let q : Int := max top emin - f.mb
    let n0 := roundAt rm r neg m e q sticky
    let n := if n0 = 2 ^ (f.mb + 1) then 2 ^ f.mb else n0
    let q1 : Int := if n0 = 2 ^ (f.mb + 1) then q + 1 else q
    if n = 0 then s
    else if n < 2 ^ f.mb then s + n
    else
      let field : Int := q1 + f.mb + f.bias
      let pat : Nat := field.toNat * 2 ^ f.mb + (n - 2 ^ f.mb)
      if f.maxFin < pat then f.overflow rm sat neg else s + pat

/-- Rounds an exact value; an infinity stays one, or counts as an overflow in a format without (09 R154, R167). -/
def Fmt.ofVal (f : Fmt) (rm : Rm) (sat : Bool) (r : Nat) : FVal → Nat
  | .nan => f.nan
  | .inf neg => if f.hasInf then (if neg then f.sign else 0) + f.inf else f.overflow rm sat neg
  | .num neg m e => f.round rm sat r neg m e

def FVal.neg : FVal → FVal
  | .nan => .nan
  | .inf n => .inf (!n)
  | .num n m e => .num (!n) m e

/-- An exact product (09 R155, R159). -/
def FVal.mul : FVal → FVal → FVal
  | .nan, _ => .nan
  | _, .nan => .nan
  | .inf a, .inf b => .inf (a != b)
  | .inf a, .num b m _ => if m = 0 then .nan else .inf (a != b)
  | .num a m _, .inf b => if m = 0 then .nan else .inf (a != b)
  | .num a m e, .num b n f => .num (a != b) (m * n) (e + f)

/-- ±m × 2^(e − q) as an integer, for q ≤ e. -/
def scaled (neg : Bool) (m : Nat) (e q : Int) : Int :=
  let x : Int := (m * 2 ^ (e - q).toNat : Nat)
  if neg then -x else x

/-- Lowest exponent among the finite addends. -/
def minExp : List FVal → Int
  | [] => 0
  | [.num _ _ e] => e
  | .num _ _ e :: t => min e (minExp t)
  | _ :: t => minExp t

def FVal.isZero : FVal → Option Bool
  | .num n 0 _ => some n
  | _ => none

/-- The exact sum of addends, with the sign of a zero sum by 09 R155. -/
def sumVals (rm : Rm) (xs : List FVal) : FVal :=
  if xs.any (· = .nan) then .nan
  else
    let p := xs.any (· = .inf false)
    let n := xs.any (· = .inf true)
    if p && n then .nan
    else if p then .inf false
    else if n then .inf true
    else
      let q := minExp xs
      let t : Int := xs.foldl (fun a x => match x with | .num s m e => a + scaled s m e q | _ => a) 0
      if t = 0 then
        if xs.all (fun x => x.isZero = some true) then .num true 0 0
        else if xs.all (fun x => x.isZero = some false) then .num false 0 0
        else .num (rm = .rdn) 0 0
      else .num (t < 0) t.natAbs q

/-- a + b of one format (09 R162). -/
def Fmt.add (f : Fmt) (rm : Rm) (sat : Bool) (a b : Nat) : Nat := f.ofVal rm sat 0 (sumVals rm [f.val a, f.val b])
def Fmt.sub (f : Fmt) (rm : Rm) (sat : Bool) (a b : Nat) : Nat := f.ofVal rm sat 0 (sumVals rm [f.val a, (f.val b).neg])
def Fmt.mul (f : Fmt) (rm : Rm) (sat : Bool) (a b : Nat) : Nat := f.ofVal rm sat 0 ((f.val a).mul (f.val b))
def Fmt.fma (f : Fmt) (rm : Rm) (sat : Bool) (a b c : Nat) : Nat :=
  f.ofVal rm sat 0 (sumVals rm [(f.val a).mul (f.val b), f.val c])

/-- Order of two values that are no NaN, −0 equal to +0. -/
def FVal.cmp (a b : FVal) : Ordering :=
  match a, b with
  | .inf x, .inf y => if x = y then .eq else if x then .lt else .gt
  | .inf x, _ => if x then .lt else .gt
  | _, .inf y => if y then .gt else .lt
  | .num x m e, .num y n f =>
    let q := min e f
    compare (scaled x m e q) (scaled y n f q)
  | _, _ => .eq

/-- a is below b with −0 below +0 (09 R163). -/
def FVal.below (a b : FVal) : Bool :=
  match a.cmp b with
  | .lt => true
  | .gt => false
  | .eq => a.isZero = some true && b.isZero = some false

/-- FMIN and FMAX on patterns (09 R163). -/
def Fmt.minmax (f : Fmt) (isMax : Bool) (a b : Nat) : Nat :=
  match f.isNan a, f.isNan b with
  | true, true => f.nan
  | true, false => b
  | false, true => a
  | false, false =>
    if isMax then (if (f.val a).below (f.val b) then b else a)
    else (if (f.val b).below (f.val a) then b else a)

/-! Integers. -/

/-- The value of a w-bit pattern under a sign. -/
def toInt (signed : Bool) (w x : Nat) : Int :=
  let y := x % 2 ^ w
  if signed && 2 ^ (w - 1) ≤ y then (y : Int) - 2 ^ w else y

/-- wrap(x, w): the w-bit pattern (00 R2). -/
def wrapN (w : Nat) (x : Int) : Nat := (x % (2 ^ w : Nat)).toNat

/-- Range of an integer type. -/
def intMin (signed : Bool) (w : Nat) : Int := if signed then -(2 ^ (w - 1) : Nat) else 0
def intMax (signed : Bool) (w : Nat) : Int := if signed then (2 ^ (w - 1) : Nat) - 1 else (2 ^ w : Nat) - 1

def clampI (signed : Bool) (w : Nat) (x : Int) : Int :=
  if x < intMin signed w then intMin signed w else if intMax signed w < x then intMax signed w else x

/-- An immediate as the pattern of a type (05 R69). -/
def immPat (ty : Ty) (n : Int) : Nat :=
  if ty.isFloat then (fmtOf ty).round .rne false 0 (n < 0) n.natAbs 0 else wrapN ty.bits n

/-- A w-bit pattern extended to W bits (05 R70). -/
def extend (signed : Bool) (w W x : Nat) : Nat := wrapN W (toInt signed w x)

end Sys2Proof.Machine
end

