-- ==== Sys2Proof/Machine/Flags.lean ====
section
/-! DEFINITION. Predicates and the execution mask (05 R81, R82; 00 R6). The machine has no arithmetic flags: comparisons
write predicates or registers, and no float instruction raises a flag (09 R158). -/

namespace Sys2Proof.Machine

def lanes32 : List Nat := List.range 32

/-- A lane mask. -/
def maskOf (ls : List Nat) : W32 := BitVec.ofNat 32 (ls.foldl (fun a L => a + 2 ^ L) 0)

/-- The guard of a group-wide instruction holds (05 R82). -/
def guardQ (g : Group) (h : Hdr) : Bool :=
  match h.guard with
  | none => true
  | some (n, pn) => (g.q.getD n.val false) != pn

/-- The guard of a per-lane instruction holds in a lane (05 R81). -/
def guardP (g : Group) (h : Hdr) (L : Nat) : Bool :=
  match h.guard with
  | none => true
  | some (n, pn) => ((g.p.getD n.val 0).getLsbD L) != pn

/-- A lane is active (05 R81). -/
def active (g : Group) (h : Hdr) (L : Nat) : Bool := g.exm.getLsbD L && guardP g h L

/-- The lanes that an instruction executes for: the active ones, or one for a group-wide form. -/
def lanesOf (g : Group) (h : Hdr) : List Nat := if h.g then [0] else lanes32.filter fun L => active g h L

/-- %tlane of lanes that met a condition: 0 for a group-wide form (DEDUCED, log 17). -/
def tlaneOf (h : Hdr) (ls : List Nat) : W32 := if h.g then 0 else maskOf ls

/-- The %tlane of a trap that some lanes meet, if any does. -/
def tlaneIf (h : Hdr) (ls : List Nat) : Option W32 := if ls.isEmpty then none else some (tlaneOf h ls)

end Sys2Proof.Machine
end

