-- ==== Sys2Proof/Machine/Operands.lean ====
section
/-! DEFINITION. Operands: reading a source, writing a destination, the last-result file, and the checks that every
instruction passes at issue (05 R69 to R79, R81, R82, R94; 19 R348). -/

namespace Sys2Proof

/-- The destination kinds whose instructions push (05 R74). -/
def Opd.pushes : Opd → Bool
  | .v _ | .o _ | .zero => true
  | _ => false

end Sys2Proof

namespace Sys2Proof.Machine

/-- Entry of a row. -/
def lane (r : Row) (L : Nat) : Nat := (r.getD L 0).toNat

def Group.vAt (g : Group) (n L : Nat) : Nat := lane (g.v.getD n []) L
def Group.oAt (g : Group) (n L : Nat) : Nat :=
  match g.o.getD n none with | some r => lane r L | none => 0
def Group.lAt (g : Group) (n L : Nat) : Nat :=
  match g.l.getD n none with | some r => (r.getD L 0).toNat | none => 0
def Group.gAt (g : Group) (n : Nat) : W64 := g.g.getD n 0

/-- k consecutive 32-bit registers as one number, lowest first. -/
def regsAt (rd : Nat → Nat) (n : Nat) : Nat → Nat
  | 0 => 0
  | k + 1 => rd n + 2 ^ 32 * regsAt rd (n + 1) k

/-- The w low bits of an operand in a lane, with the immediate read by `imm` (05 R69). DEDUCED, log 44. -/
def rdWith (imm : Int → Nat) (g : Group) (h : Hdr) (w : Nat) (o : Opd) (L : Nat) : Nat :=
  let regs := (w + 31) / 32
  match o with
  | .v n => regsAt (fun m => g.vAt m L) n.val regs % 2 ^ w
  | .o n => regsAt (fun m => g.oAt m L) n.val regs % 2 ^ w
  | .l n => g.lAt n.val L % 2 ^ w
  | .g n => (if w ≤ 64 then (g.gAt n.val).toNat else (g.gAt n.val).toNat + 2 ^ 64 * (g.gAt (n.val + 1)).toNat) % 2 ^ w
  | .k n => imm n.val % 2 ^ w
  | .kn n => imm ((n.val : Int) - 64) % 2 ^ w
  | .p n => ((g.p.getD n.val 0).getLsbD L).toNat
  | .q n => (g.q.getD n.val false).toNat
  | .zero => 0
  | .lit => (h.lit.getD 0).toNat % 2 ^ w

/-- A source as a pattern of a type (05 R69). -/
def rd (g : Group) (h : Hdr) (ty : Ty) (o : Opd) (L : Nat) : Nat := rdWith (immPat ty) g h ty.bits o L

/-- A source as w bits, an immediate wrapped. -/
def rdN (g : Group) (h : Hdr) (w : Nat) (o : Opd) (L : Nat) : Nat := rdWith (wrapN w) g h w o L

/-- A source as a number of an integer type. -/
def rdI (g : Group) (h : Hdr) (ty : Ty) (o : Opd) (L : Nat) : Int := toInt ty.isSigned ty.bits (rd g h ty o L)

/-- A group-wide source as 64 bits. -/
def rd64 (g : Group) (h : Hdr) (o : Opd) : W64 := BitVec.ofNat 64 (rdN g h 64 o 0)
def rd32 (g : Group) (h : Hdr) (o : Opd) : Nat := rdN g h 32 o 0

/-- A row with the lanes that have a result replaced. -/
def rowPut (r : Row) (res : Nat → Option Nat) : Row :=
  lanes32.map fun L => match res L with | some x => BitVec.ofNat 32 x | none => r.getD L 0

/-- The result of the highest lane that has one (00 R6; DEDUCED, log 15). -/
def lastRes (res : Nat → Option Nat) : Option Nat :=
  lanes32.foldl (fun a L => match res L with | some x => some x | none => a) none

/-- A write of every lane makes an error of the register disappear (19 R348; DEDUCED, log 34). -/
def healed (bad : List Opd) (x : Opd) (res : Nat → Option Nat) : List Opd :=
  if lanes32.all fun L => (res L).isSome then bad.filter (· ≠ x) else bad

def Group.putV (g : Group) (n : Nat) (res : Nat → Option Nat) : Group :=
  { g with v := g.v.set n (rowPut (g.v.getD n []) res), bad := healed g.bad (.v (Fin.ofNat 512 n)) res }

/-- A write marks an operand-file entry written, its other lanes keeping an earlier value or 0 (05 R73); with no lane
written it does not (DEDUCED, log 13). -/
def Group.putO (g : Group) (n : Nat) (res : Nat → Option Nat) : Group :=
  if lanes32.all fun L => (res L).isNone then g
  else { g with
    o := g.o.set n (some (rowPut ((g.o.getD n none).getD []) res)), bad := healed g.bad (.o (Fin.ofNat 32 n)) res }

def Group.putP (g : Group) (n : Nat) (res : Nat → Option Nat) : Group :=
  let old := (g.p.getD n 0)
  let bits := lanes32.foldl
    (fun a L => a + (match res L with | some x => x % 2 | none => (old.getLsbD L).toNat) * 2 ^ L) 0
  { g with p := g.p.set n (BitVec.ofNat 32 bits) }

def Group.putG (g : Group) (n : Nat) (x : W64) : Group :=
  { g with g := g.g.set n x, bad := g.bad.filter (· ≠ .g (Fin.ofNat 128 n)) }
def Group.putQ (g : Group) (n : Nat) (b : Bool) : Group := { g with q := g.q.set n b }

/-- Writes a destination of w bits (05 R70). -/
def Group.write (g : Group) (d : Opd) (w : Nat) (signed : Bool) (res : Nat → Option Nat) : Group :=
  let low := fun L => (res L).map fun x => extend signed w (if w ≤ 32 then 32 else 64) x % 2 ^ 32
  let high := fun L => (res L).map fun x => x / 2 ^ 32 % 2 ^ 32
  match d with
  | .v n => if w ≤ 32 then g.putV n.val low else (g.putV n.val low).putV (n.val + 1) high
  | .o n => if w ≤ 32 then g.putO n.val low else (g.putO n.val low).putO (n.val + 1) high
  | .g n => match lastRes res with | some x => g.putG n.val (BitVec.ofNat 64 (extend signed w 64 x)) | none => g
  | .p n => g.putP n.val res
  | .q n => match lastRes res with | some x => g.putQ n.val (x % 2 = 1) | none => g
  | _ => g

/-- The push into the last-result file (05 R74): the full result in the lanes that have one, what the destination holds
in the others, 0 for the zero specifier. DEDUCED, log 45. -/
def Group.push (g : Group) (d : Opd) (w : Nat) (signed : Bool) (res : Nat → Option Nat) : Group :=
  let regs := if w ≤ 32 then 1 else 2
  let entry : List W64 := lanes32.map fun L =>
    BitVec.ofNat 64 (match res L with
      | some x => extend signed w 64 x
      | none => match d with
        | .v n => regsAt (fun m => g.vAt m L) n.val regs
        | .o n => regsAt (fun m => g.oAt m L) n.val regs
        | _ => 0)
  { g with l := (some entry :: g.l).take 4 }

/-- Writes the destination and pushes, as a per-lane instruction that has a destination does. -/
def Group.result (g : Group) (h : Hdr) (d : Opd) (w : Nat) (signed : Bool) (res : Nat → Option Nat) : Group :=
  let g1 := g.write d w signed res
  if !h.g && d.pushes then g1.push d w signed res else g1

/-- Results for the lanes of an instruction. -/
def forLanes (ls : List Nat) (f : Nat → Nat) : Nat → Option Nat := fun L => if ls.contains L then some (f L) else none

/-! The checks at issue. -/

def emptyV (g : Group) (m n : Nat) : Bool := (List.range n).any fun j => !(g.full.getD (m + j) true)

end Sys2Proof.Machine

namespace Sys2Proof

open Machine

/-- Main-file registers that a field names. -/
def Fld.vRange : Fld → Option (Nat × Nat)
  | .src (.v m) _ n => some (m.val, n)
  | .dst (.v m) _ n => some (m.val, n)
  | _ => none

/-- A main-file register at or above W (05 R72). -/
def Fld.outside (W : Nat) (f : Fld) : Bool :=
  match f.vRange with
  | some (m, n) => W < m + n
  | none => false

/-- A leg-local source entry is empty (05 R73). -/
def Fld.legEmpty (g : Group) : Fld → Bool
  | .src (.o m) _ n => (List.range n).any fun j => (g.o.getD (m.val + j) none).isNone
  | .src (.l m) _ _ => (g.l.getD m.val none).isNone
  | _ => false

/-- A main-file source is empty. -/
def Fld.srcEmpty (g : Group) : Fld → Bool
  | .src (.v m) _ n => emptyV g m.val n
  | _ => false

def Fld.dstEmpty (g : Group) : Fld → Bool
  | .dst (.v m) _ n => emptyV g m.val n
  | _ => false

/-- g registers that a field names. -/
def Fld.gRegs : Fld → List Nat
  | .src (.g m) _ n => if n = 4 then [m.val, m.val + 1] else [m.val]
  | .dst (.g m) _ _ => [m.val]
  | _ => []

/-- A source of the field is uncorrectable (19 R348). -/
def Fld.bad (g : Group) : Fld → Bool
  | .src (.v m) _ n => g.bad.any fun x => match x with | .v k => m.val ≤ k.val && k.val < m.val + n | _ => false
  | .src (.o m) _ n => g.bad.any fun x => match x with | .o k => m.val ≤ k.val && k.val < m.val + n | _ => false
  | .src (.g m) _ n => g.bad.any fun x => match x with | .g k => k = m || (n = 4 && k.val = m.val + 1) | _ => false
  | _ => false

end Sys2Proof

namespace Sys2Proof.Machine

/-- A load, atomic or remote read has yet to write this g register (05 R76). -/
def State.gPending (s : State) (id : GroupId) (n : Nat) : Bool :=
  s.loads.any fun l => l.gid = id && l.dst = .g n

/-- What the checks at issue answer. -/
inductive Ready where
  | go
  /-- the slot holds the instruction (05 R76, R78, R79) -/
  | hold
  | trap (c : Cause)
  deriving DecidableEq, Repr

/-- The sources in order: an empty one with FE = 0 waits before a later one with FE = 1 traps (05 R78, R94). -/
def srcReady (g : Group) : List (Fld × Bool) → Ready
  | [] => .go
  | (f, fe) :: t => if f.srcEmpty g then (if fe then .trap .empty else .hold) else srcReady g t

/-- The checks of 05 R94 on the window, the leg-local files and the full bits: `hold` waits for a main-file register. A
data register that D names as a source and an empty destination wait after an EMPTY of S1 to S3 (DEDUCED, log 87). -/
def Group.filled (g : Group) (sh : Shape) : Ready :=
  let fs := [sh.d, sh.s1, sh.s2, sh.s3]
  if fs.any (Fld.outside g.v.length) then .trap .window
  else if fs.any (Fld.legEmpty g) then .trap .legempty
  else match srcReady g [(sh.s1, sh.h.fe1), (sh.s2, sh.h.fe2), (sh.s3, sh.h.fe3), (sh.d, false)] with
    | .go => if sh.d.dstEmpty g then .hold else .go
    | r => r

/-- The checks of 05 R94 after decode, up to those of the instruction's own entry. Uncorrectable sources are consumed when
some lane is active, since the others read nothing (00 R6, 19 R348; DEDUCED, log 65). PREF, CMAINT, ERSV and EREL raise no UNCORR (11
R212, R213, R220), and take such a register as it reads (DESIGN CHOICE, log 141). -/
def State.ready (s : State) (g : Group) (sh : Shape) : Ready :=
  let fs := [sh.d, sh.s1, sh.s2, sh.s3]
  match g.filled sh with
  | .go =>
    if fs.any fun f => f.gRegs.any fun n => s.gPending g.id n then .hold
    else if !sh.calm && !(lanesOf g sh.h).isEmpty && sh.reads.any (Fld.bad g) then .trap .uncorr
    else .go
  | r => r

/-- The frame of every instruction word: the current group, the guard of a group-wide form (05 R82), the checks at issue,
then the instruction's own effect. -/
def State.issue (s : State) (i : Instr) (k : Group → Hdr → Out) : Out :=
  s.withGroup fun g =>
    match i.shape with
    | none => .fault .noGroup
    | some sh =>
      if sh.h.g && !guardQ g sh.h then .next (s.retire g sh.h)
      else match s.ready g sh with
        | .hold => .next s
        | .trap c => .next (s.trap g sh.h { cause := c })
        | .go => k g sh.h

/-- An instruction that only computes: the group after its effect retires. -/
def State.compute (s : State) (i : Instr) (f : Group → Hdr → Group) : Out :=
  s.issue i fun g h => .next (s.retire (f g h) h)

/-- The frame of 07 R106: for each lane, one result of w bits. -/
def State.perLane (s : State) (i : Instr) (d : Opd) (w : Nat) (signed : Bool) (f : Group → Hdr → Nat → Nat) : Out :=
  s.compute i fun g h => g.result h d w signed (forLanes (lanesOf g h) (f g h))

end Sys2Proof.Machine
end

