-- ==== Sys2Proof/Machine/Integer.lean ====
section
/-! DEFINITION. Integer arithmetic and logic, moves and conversions (07 R106, R121 to R127). -/

namespace Sys2Proof.Machine

/-- fit(x) of 07 R106. -/
def fit (ty : Ty) (sat : Bool) (x : Int) : Nat := wrapN ty.bits (if sat then clampI ty.isSigned ty.bits x else x)

/-- An instruction of 07 R106 whose exact value is an integer. -/
def State.intOp (s : State) (i : Instr) (d : Opd) (ty : Ty) (sat : Bool) (f : Group → Hdr → Nat → Int) : Out :=
  s.perLane i d ty.bits ty.isSigned fun g h L => fit ty sat (f g h L)

/-- An instruction on the w-bit patterns (07 R121). -/
def State.bitOp (s : State) (i : Instr) (d : Opd) (ty : Ty) (f : Group → Hdr → Nat → Nat) : Out :=
  s.perLane i d ty.bits ty.isSigned f

def execIadd (h : Hdr) (sat : Bool) (ty : Ty) (d a b : Opd) (s : State) : Out :=
  s.intOp (.iadd h sat ty d a b) d ty sat fun g h L => rdI g h ty a L + rdI g h ty b L

def execIsub (h : Hdr) (sat : Bool) (ty : Ty) (d a b : Opd) (s : State) : Out :=
  s.intOp (.isub h sat ty d a b) d ty sat fun g h L => rdI g h ty a L - rdI g h ty b L

/-- IMUL: .wide is written at width 2w (07 R121). -/
def execImul (h : Hdr) (fn : MulFn) (ty : Ty) (d a b : Opd) (s : State) : Out :=
  match fn with
  | .lo => s.intOp (.imul h fn ty d a b) d ty false fun g h L => rdI g h ty a L * rdI g h ty b L
  | .hi => s.intOp (.imul h fn ty d a b) d ty false fun g h L => (rdI g h ty a L * rdI g h ty b L) / (2 ^ ty.bits : Nat)
  | .wide =>
    s.perLane (.imul h fn ty d a b) d (2 * ty.bits) ty.isSigned fun g h L =>
      wrapN (2 * ty.bits) (rdI g h ty a L * rdI g h ty b L)

def execImad (h : Hdr) (ty : Ty) (d a b c : Opd) (s : State) : Out :=
  s.intOp (.imad h ty d a b c) d ty false fun g h L => rdI g h ty a L * rdI g h ty b L + rdI g h ty c L

/-- Quotient truncated toward zero, or remainder; by zero q is all ones and r is a (07 R121). -/
def divI (rem : Bool) (a b : Int) : Int :=
  if b = 0 then (if rem then a else -1) else if rem then Int.tmod a b else Int.tdiv a b

def execIdiv (h : Hdr) (rem : Bool) (ty : Ty) (d a b : Opd) (s : State) : Out :=
  s.intOp (.idiv h rem ty d a b) d ty false fun g h L => divI rem (rdI g h ty a L) (rdI g h ty b L)

def execImin (h : Hdr) (ty : Ty) (d a b : Opd) (s : State) : Out :=
  s.intOp (.imin h ty d a b) d ty false fun g h L => min (rdI g h ty a L) (rdI g h ty b L)

def execImax (h : Hdr) (ty : Ty) (d a b : Opd) (s : State) : Out :=
  s.intOp (.imax h ty d a b) d ty false fun g h L => max (rdI g h ty a L) (rdI g h ty b L)

def execIabs (h : Hdr) (ty : Ty) (d a : Opd) (s : State) : Out :=
  s.intOp (.iabs h ty d a) d ty false fun g h L => ((rdI g h ty a L).natAbs : Int)

def execIneg (h : Hdr) (ty : Ty) (d a : Opd) (s : State) : Out :=
  s.intOp (.ineg h ty d a) d ty false fun g h L => -(rdI g h ty a L)

/-- NOT of a w-bit pattern. -/
def notN (w x : Nat) : Nat := 2 ^ w - 1 - x % 2 ^ w

def execAnd (h : Hdr) (ty : Ty) (d a b : Opd) (s : State) : Out :=
  s.bitOp (.and h ty d a b) d ty fun g h L => Nat.land (rd g h ty a L) (rd g h ty b L)

def execOr (h : Hdr) (ty : Ty) (d a b : Opd) (s : State) : Out :=
  s.bitOp (.or h ty d a b) d ty fun g h L => Nat.lor (rd g h ty a L) (rd g h ty b L)

def execXor (h : Hdr) (ty : Ty) (d a b : Opd) (s : State) : Out :=
  s.bitOp (.xor h ty d a b) d ty fun g h L => Nat.xor (rd g h ty a L) (rd g h ty b L)

def execAndn (h : Hdr) (ty : Ty) (d a b : Opd) (s : State) : Out :=
  s.bitOp (.andn h ty d a b) d ty fun g h L => Nat.land (rd g h ty a L) (notN ty.bits (rd g h ty b L))

def execOrn (h : Hdr) (ty : Ty) (d a b : Opd) (s : State) : Out :=
  s.bitOp (.orn h ty d a b) d ty fun g h L => Nat.lor (rd g h ty a L) (notN ty.bits (rd g h ty b L))

def execNot (h : Hdr) (ty : Ty) (d a : Opd) (s : State) : Out :=
  s.bitOp (.not h ty d a) d ty fun g h L => notN ty.bits (rd g h ty a L)

/-- Shifts and rotation of a w-bit pattern by k (07 R121). -/
def shlN (w x k : Nat) : Nat := if w ≤ k then 0 else x * 2 ^ k % 2 ^ w
def shrN (w x k : Nat) : Nat := if w ≤ k then 0 else x / 2 ^ k
def sarN (w x k : Nat) : Nat := wrapN w (toInt true w x / (2 ^ min k (w - 1) : Nat))
def rolN (w x k : Nat) : Nat := (x * 2 ^ (k % w) + x / 2 ^ (w - k % w)) % 2 ^ w

def execShl (h : Hdr) (ty : Ty) (d a b : Opd) (s : State) : Out :=
  s.bitOp (.shl h ty d a b) d ty fun g h L => shlN ty.bits (rd g h ty a L) (rdN g h 32 b L)

def execShr (h : Hdr) (ty : Ty) (d a b : Opd) (s : State) : Out :=
  s.bitOp (.shr h ty d a b) d ty fun g h L => shrN ty.bits (rd g h ty a L) (rdN g h 32 b L)

def execSar (h : Hdr) (ty : Ty) (d a b : Opd) (s : State) : Out :=
  s.bitOp (.sar h ty d a b) d ty fun g h L => sarN ty.bits (rd g h ty a L) (rdN g h 32 b L)

def execRol (h : Hdr) (ty : Ty) (d a b : Opd) (s : State) : Out :=
  s.bitOp (.rol h ty d a b) d ty fun g h L => rolN ty.bits (rd g h ty a L) (rdN g h 32 b L)

/-- Set bits among the w low bits. -/
def popN (w x : Nat) : Nat := (List.range w).foldl (fun n i => n + (x.testBit i).toNat) 0
def clzN (w x : Nat) : Nat := w - bitLen (x % 2 ^ w)
/-- Trailing zeros; w for 0. -/
def ctzN (w x : Nat) : Nat := ((List.range w).find? fun i => x.testBit i).getD w
def brevN (w x : Nat) : Nat := (List.range w).foldl (fun n i => n + (x.testBit i).toNat * 2 ^ (w - 1 - i)) 0

/-- Bit counts are written as unsigned (07 R121). -/
def execPopc (h : Hdr) (ty : Ty) (d a : Opd) (s : State) : Out :=
  s.perLane (.popc h ty d a) d ty.bits false fun g h L => popN ty.bits (rd g h ty a L)

def execClz (h : Hdr) (ty : Ty) (d a : Opd) (s : State) : Out :=
  s.perLane (.clz h ty d a) d ty.bits false fun g h L => clzN ty.bits (rd g h ty a L)

def execCtz (h : Hdr) (ty : Ty) (d a : Opd) (s : State) : Out :=
  s.perLane (.ctz h ty d a) d ty.bits false fun g h L => ctzN ty.bits (rd g h ty a L)

def execBrev (h : Hdr) (ty : Ty) (d a : Opd) (s : State) : Out :=
  s.bitOp (.brev h ty d a) d ty fun g h L => brevN ty.bits (rd g h ty a L)

/-- BFX (07 R122). -/
def bfxN (signed : Bool) (w x pos len : Nat) : Nat :=
  let p := min pos w
  let n := min len (w - p)
  let f := x / 2 ^ p % 2 ^ n
  if n = 0 then 0 else extend signed n w f

/-- BFI (07 R122). -/
def bfiN (w ins base pl : Nat) : Nat :=
  let p := min (pl % 256) w
  let n := min (pl / 256 % 256) (w - p)
  base - base / 2 ^ p % 2 ^ n * 2 ^ p + ins % 2 ^ n * 2 ^ p

def execBfx (h : Hdr) (ty : Ty) (d a b c : Opd) (s : State) : Out :=
  s.bitOp (.bfx h ty d a b c) d ty fun g h L =>
    bfxN ty.isSigned ty.bits (rd g h ty a L) (rdN g h 32 b L) (rdN g h 32 c L)

def execBfi (h : Hdr) (ty : Ty) (d a b c : Opd) (s : State) : Out :=
  s.bitOp (.bfi h ty d a b c) d ty fun g h L => bfiN ty.bits (rd g h ty a L) (rd g h ty b L) (rdN g h 32 c L)

def execSel (h : Hdr) (ty : Ty) (d a b c : Opd) (s : State) : Out :=
  s.bitOp (.sel h ty d a b c) d ty fun g h L => if rd g h ty c L ≠ 0 then rd g h ty a L else rd g h ty b L

/-- A comparison of integers. -/
def cmpHolds (c : Cmp) (a b : Int) : Bool :=
  match c with
  | .eq => a = b | .ne => a ≠ b | .lt => a < b | .le => a ≤ b | .gt => b < a | .ge => b ≤ a

/-- ICMP: its exact value is fitted to the width of TY, as R106 has it of every value of R121. -/
def execIcmp (h : Hdr) (fn : Cmp) (ty : Ty) (d a b : Opd) (s : State) : Out :=
  s.perLane (.icmp h fn ty d a b) d ty.bits false fun g h L =>
    (cmpHolds fn (rdI g h ty a L) (rdI g h ty b L)).toNat

/-- The amount by which LEA shifts its index: an immediate from 0 to 7 (07 R123). -/
def leaK : Opd → Nat
  | .k n => n.val
  | _ => 0

/-- LEA (07 R123). -/
def execLea (h : Hdr) (ty : Ty) (d a b c : Opd) (s : State) : Out :=
  s.perLane (.lea h ty d a b c) d 64 false fun g h L =>
    wrapN 64 ((rdN g h 64 a L : Int) + toInt ty.isSigned 32 (rdN g h 32 b L) * (2 ^ leaK c : Nat))

def execMov (h : Hdr) (ty : Ty) (d a : Opd) (s : State) : Out :=
  s.bitOp (.mov h ty d a) d ty fun g h L => rd g h ty a L

def execMovl (h : Hdr) (ty : Ty) (d a b : Opd) (s : State) : Out :=
  s.intOp (.movl h ty d a b) d ty false fun g h L => rdI g h ty a L + L * rdI g h ty b L

/-- CVT: S1 is read as the source type (07 R125). -/
def execCvt (h : Hdr) (sat : Bool) (ty sty : Ty) (d a : Opd) (s : State) : Out :=
  s.intOp (.cvt h sat ty sty d a) d ty sat fun g h L => rdI g h sty a L

/-- PACK: a and b are clamped to TY, c fills the bits above (07 R126). -/
def packN (ty : Ty) (a b : Int) (c : Nat) : Nat :=
  let w := ty.bits
  let cl := fun x => wrapN w (clampI ty.isSigned w x)
  (cl a + 2 ^ w * cl b + 2 ^ (2 * w) * c) % 2 ^ 32

def execPack (h : Hdr) (ty : Ty) (d a b c : Opd) (s : State) : Out :=
  s.perLane (.pack h ty d a b c) d 32 false fun g h L =>
    packN ty (toInt ty.isSigned 32 (rdN g h 32 a L)) (toInt ty.isSigned 32 (rdN g h 32 b L)) (rdN g h 32 c L)

/-- UNPK: element k mod 32/w (07 R126). -/
def execUnpk (h : Hdr) (ty : Ty) (d a b : Opd) (s : State) : Out :=
  s.perLane (.unpk h ty d a b) d ty.bits ty.isSigned fun g h L =>
    rdN g h 32 a L / 2 ^ (ty.bits * (rdN g h 32 b L % (32 / ty.bits))) % 2 ^ ty.bits

/-- Byte i of a 32-bit pattern as i8 or u8. -/
def byteI (signed : Bool) (x i : Nat) : Int := toInt signed 8 (x / 2 ^ (8 * i))

/-- IDOT4 (07 R127). -/
def execIdot4 (h : Hdr) (sat : Bool) (ty : Ty) (d a b c : Opd) (s : State) : Out :=
  s.perLane (.idot4 h sat ty d a b c) d 32 ty.isSigned fun g h L =>
    let x := rdN g h 32 a L
    let y := rdN g h 32 b L
    let dot := (List.range 4).foldl (fun t i => t + byteI ty.isSigned x i * byteI ty.isSigned y i)
      (toInt ty.isSigned 32 (rdN g h 32 c L))
    wrapN 32 (if sat then clampI ty.isSigned 32 dot else dot)

end Sys2Proof.Machine
end

