-- ==== Sys2Proof/Machine/Lane.lean ====
section
/-! DEFINITION. Predicate logic, votes and cross-lane movement (07 R133 to R139). Cross-lane sources are read in every
lane, active or not (07 R135). -/

namespace Sys2Proof.Machine

/-- Predicate logic on one or two bits (07 R133). -/
def State.predOp (s : State) (i : Instr) (d : Opd) (f : Group → Hdr → Nat → Nat) : Out := s.perLane i d 1 false f

def execPand (h : Hdr) (d a b : Opd) (s : State) : Out :=
  s.predOp (.pand h d a b) d fun g h L => rdN g h 1 a L * rdN g h 1 b L

def execPor (h : Hdr) (d a b : Opd) (s : State) : Out :=
  s.predOp (.por h d a b) d fun g h L => max (rdN g h 1 a L) (rdN g h 1 b L)

def execPxor (h : Hdr) (d a b : Opd) (s : State) : Out :=
  s.predOp (.pxor h d a b) d fun g h L => (rdN g h 1 a L + rdN g h 1 b L) % 2

def execPnot (h : Hdr) (d a : Opd) (s : State) : Out :=
  s.predOp (.pnot h d a) d fun g h L => 1 - rdN g h 1 a L

/-- PMOV: predicate to predicate, bit L of a g register to lane L, or all 32 bits to a g register, once and only when a
lane is active (07 R133). -/
def execPmov (h : Hdr) (d a : Opd) (s : State) : Out :=
  s.compute (.pmov h d a) fun g h =>
    match d, a with
    | .g n, .p m => if (lanesOf g h).isEmpty then g else g.putG n.val ((g.p.getD m.val 0).setWidth 64)
    | _, .g n => g.write d 1 false (forLanes (lanesOf g h) fun L => ((g.gAt n.val).getLsbD L).toNat)
    | _, _ => g.write d 1 false (forLanes (lanesOf g h) fun L => rdN g h 1 a L)

/-- VOTE: g and q receive the result once, whatever lanes are active (07 R134). DEDUCED, log 46. -/
def execVote (h : Hdr) (fn : VoteFn) (d a : Opd) (s : State) : Out :=
  s.compute (.vote h fn d a) fun g h =>
    let ls := lanesOf g h
    let yes := ls.filter fun L => rdN g h 32 a L ≠ 0
    let r : Nat := match fn with
      | .any => (!yes.isEmpty).toNat
      | .all => (yes.length = ls.length : Bool).toNat
      | .ballot => (maskOf yes).toNat
    match d with
    | .g n => g.putG n.val (BitVec.ofNat 64 r)
    | .q n => g.putQ n.val (r % 2 = 1)
    | _ => g.result h d 32 false (forLanes ls fun _ => r)

/-- SHFL (07 R136). -/
def execShfl (h : Hdr) (fn : ShflFn) (ty : Ty) (d a b c : Opd) (s : State) : Out :=
  s.perLane (.shfl h fn ty d a b c) d ty.bits false fun g h L =>
    let k := rdN g h 32 b L
    match fn with
    | .idx => rd g h ty a (k % 32)
    | .up => if L < k then rd g h ty c L else rd g h ty a (L - k)
    | .down => if 31 < L + k then rd g h ty c L else rd g h ty a (L + k)
    | .xor => rd g h ty a (Nat.xor L k % 32)

/-- Byte i of a number. -/
def byteN (x i : Nat) : Nat := x / 2 ^ (8 * i) % 256

/-- PERMB.sel (07 R137). -/
def permSel (ab sel : Nat) : Nat :=
  (List.range 4).foldl (fun t k =>
    let n := sel / 2 ^ (4 * k) % 16
    t + (if 8 ≤ n then 0 else byteN ab (n % 8)) * 2 ^ (8 * k)) 0

/-- PERMB.tbl16 (07 R137). -/
def permTbl (a tbl : Nat) : Nat :=
  (List.range 4).foldl (fun t k => t + byteN tbl (byteN a k % 16) * 2 ^ (8 * k)) 0

def execPermb (h : Hdr) (tbl : Bool) (d a b c : Opd) (s : State) : Out :=
  s.perLane (.permb h tbl d a b c) d 32 false fun g h L =>
    if tbl then permTbl (rdN g h 32 a L) (rdN g h 64 b L + 2 ^ 64 * rdN g h 64 c L)
    else permSel (rdN g h 32 a L + 2 ^ 32 * rdN g h 32 b L) (rdN g h 32 c L)

/-- One step of a fold on patterns of a type (07 R138; 17 R316). -/
def foldOp (fn : FoldFn) (ty : Ty) (a b : Nat) : Nat :=
  let w := ty.bits
  if ty.isFloat then
    match fn with
    | .add => (fmtOf ty).add .rne false a b
    | .min => (fmtOf ty).minmax false a b
    | .max => (fmtOf ty).minmax true a b
    | .and => Nat.land a b
    | .or => Nat.lor a b
    | .xor => Nat.xor a b
  else
    let x := toInt ty.isSigned w a
    let y := toInt ty.isSigned w b
    match fn with
    | .add => wrapN w (x + y)
    | .min => wrapN w (min x y)
    | .max => wrapN w (max x y)
    | .and => Nat.land a b
    | .or => Nat.lor a b
    | .xor => Nat.xor a b

/-- The identity that an inactive lane contributes (07 R138). -/
def foldId (fn : FoldFn) (ty : Ty) : Nat :=
  let w := ty.bits
  let f := fmtOf ty
  match fn with
  | .add => if ty.isFloat then f.sign else 0
  | .min => if ty.isFloat then f.inf else wrapN w (intMax ty.isSigned w)
  | .max => if ty.isFloat then f.sign + f.inf else wrapN w (intMin ty.isSigned w)
  | .and => 2 ^ w - 1
  | .or => 0
  | .xor => 0

/-- The value of every lane position. -/
def foldVals (g : Group) (h : Hdr) (fn : FoldFn) (ty : Ty) (a : Opd) : List Nat :=
  lanes32.map fun L => if active g h L then rd g h ty a L else foldId fn ty

/-- LSCAN: a left fold in ascending lane order (07 R138). -/
def execLscan (h : Hdr) (fn : FoldFn) (excl : Bool) (ty : Ty) (d a : Opd) (s : State) : Out :=
  s.perLane (.lscan h fn excl ty d a) d ty.bits ty.isSigned fun g h L =>
    ((foldVals g h fn ty a).take (if excl then L else L + 1)).foldl (foldOp fn ty) (foldId fn ty)

/-- One level of the tree: neighbours combine. -/
def pairUp (f : Nat → Nat → Nat) : List Nat → List Nat
  | a :: b :: t => f a b :: pairUp f t
  | l => l

/-- The tree of 07 R138, five levels. -/
def foldTree (f : Nat → Nat → Nat) (xs : List Nat) : Nat :=
  (pairUp f (pairUp f (pairUp f (pairUp f (pairUp f xs))))).headD 0

/-- LRED (07 R138). -/
def execLred (h : Hdr) (fn : FoldFn) (ty : Ty) (d a : Opd) (s : State) : Out :=
  s.perLane (.lred h fn ty d a) d ty.bits ty.isSigned fun g h _ => foldTree (foldOp fn ty) (foldVals g h fn ty a)

/-- LANEX.get: written when a lane is active, zero-extended (07 R139). -/
def execLanexGet (h : Hdr) (ty : Ty) (d a b : Opd) (s : State) : Out :=
  s.perLane (.lanexGet h ty d a b) d ty.bits false fun g h _ => rd g h ty a (rd32 g h b % 32)

/-- LANEX.put: one lane of d, when it is active (07 R139). -/
def execLanexPut (h : Hdr) (ty : Ty) (d a b : Opd) (s : State) : Out :=
  s.compute (.lanexPut h ty d a b) fun g h =>
    let k := rd32 g h b % 32
    g.result h d ty.bits false (forLanes ((lanesOf g h).filter (· = k)) fun _ => rd g h ty a 0)

end Sys2Proof.Machine
end

