-- ==== Sys2Proof/Machine/Float.lean ====
section
/-! DEFINITION. The floating-point instructions (09 R161 to R173): arithmetic, comparison, conversion, packed forms, and
the function unit, whose results are correctly rounded from integer arithmetic of high precision (UNVERIFIED, log 10). -/

namespace Sys2Proof.Machine

/-- A float instruction with one format: each lane's patterns to a pattern (09 R161). -/
def State.fltOp (s : State) (i : Instr) (d : Opd) (ty : Ty) (f : Group → Hdr → Nat → Nat) : Out :=
  s.perLane i d ty.bits false f

def execFadd (h : Hdr) (rm : Rm) (sat : Bool) (ty : Ty) (d a b : Opd) (s : State) : Out :=
  s.fltOp (.fadd h rm sat ty d a b) d ty fun g h L => (fmtOf ty).add rm sat (rd g h ty a L) (rd g h ty b L)

def execFsub (h : Hdr) (rm : Rm) (sat : Bool) (ty : Ty) (d a b : Opd) (s : State) : Out :=
  s.fltOp (.fsub h rm sat ty d a b) d ty fun g h L => (fmtOf ty).sub rm sat (rd g h ty a L) (rd g h ty b L)

def execFmul (h : Hdr) (rm : Rm) (sat : Bool) (ty : Ty) (d a b : Opd) (s : State) : Out :=
  s.fltOp (.fmul h rm sat ty d a b) d ty fun g h L => (fmtOf ty).mul rm sat (rd g h ty a L) (rd g h ty b L)

def execFfma (h : Hdr) (rm : Rm) (sat : Bool) (ty : Ty) (d a b c : Opd) (s : State) : Out :=
  s.fltOp (.ffma h rm sat ty d a b c) d ty fun g h L =>
    (fmtOf ty).fma rm sat (rd g h ty a L) (rd g h ty b L) (rd g h ty c L)

def execFmin (h : Hdr) (ty : Ty) (d a b : Opd) (s : State) : Out :=
  s.fltOp (.fmin h ty d a b) d ty fun g h L => (fmtOf ty).minmax false (rd g h ty a L) (rd g h ty b L)

def execFmax (h : Hdr) (ty : Ty) (d a b : Opd) (s : State) : Out :=
  s.fltOp (.fmax h ty d a b) d ty fun g h L => (fmtOf ty).minmax true (rd g h ty a L) (rd g h ty b L)

/-- The conditions of 09 R164. -/
def fcmpHolds (c : FCmp) (a b : FVal) : Bool :=
  let un := a = .nan || b = .nan
  match c with
  | .eq => !un && a.cmp b = .eq
  | .ne => un || a.cmp b ≠ .eq
  | .lt => !un && a.cmp b = .lt
  | .le => !un && a.cmp b ≠ .gt
  | .gt => !un && a.cmp b = .gt
  | .ge => !un && a.cmp b ≠ .lt
  | .uno => un
  | .ord => !un

def execFcmp (h : Hdr) (fn : FCmp) (ty : Ty) (d a b : Opd) (s : State) : Out :=
  s.perLane (.fcmp h fn ty d a b) d 32 false fun g h L =>
    (fcmpHolds fn ((fmtOf ty).val (rd g h ty a L)) ((fmtOf ty).val (rd g h ty b L))).toNat

/-- The class bit of a pattern (09 R165). -/
def classOf (f : Fmt) (x : Nat) : Nat :=
  let neg := x / f.sign % 2 = 1
  let sub := x / 2 ^ f.mb % 2 ^ f.eb = 0
  match f.val x with
  | .nan => if !f.hasInf || x / 2 ^ (f.mb - 1) % 2 = 1 then 2 ^ 9 else 2 ^ 8
  | .inf n => if n then 2 ^ 0 else 2 ^ 7
  | .num _ 0 _ => if neg then 2 ^ 3 else 2 ^ 4
  | .num _ _ _ => if sub then (if neg then 2 ^ 2 else 2 ^ 5) else (if neg then 2 ^ 1 else 2 ^ 6)

def execFclass (h : Hdr) (ty : Ty) (d a : Opd) (s : State) : Out :=
  s.perLane (.fclass h ty d a) d 32 false fun g h L => classOf (fmtOf ty) (rd g h ty a L)

/-- FRND: an integral value of the format, keeping the sign (09 R166). -/
def frndN (f : Fmt) (rm : Rm) (x : Nat) : Nat :=
  match f.val x with
  | .nan => f.nan
  | .inf _ => x
  | .num _ 0 _ => x
  | .num neg m e => if 0 ≤ e then x else f.round rm false 0 neg (roundAt rm 0 neg m e 0 false) 0

def execFrnd (h : Hdr) (rm : Rm) (ty : Ty) (d a : Opd) (s : State) : Out :=
  s.fltOp (.frnd h rm ty d a) d ty fun g h L => frndN (fmtOf ty) rm (rd g h ty a L)

/-- A conversion (09 R157, R167); `r` are the random bits of .rsr. -/
def cvtF (rm : Rm) (sat : Bool) (ty sty : Ty) (r x : Nat) : Nat :=
  if ty.isFloat then
    if sty.isFloat then
      if ty = sty then (if (fmtOf ty).isNan x then (fmtOf ty).nan else x)
      else (fmtOf ty).ofVal rm sat r ((fmtOf sty).val x)
    else
      let n := toInt sty.isSigned sty.bits x
      (fmtOf ty).round rm sat r (n < 0) n.natAbs 0
  else
    match (fmtOf sty).val x with
    | .nan => 0
    | .inf neg => wrapN ty.bits (if neg then intMin ty.isSigned ty.bits else intMax ty.isSigned ty.bits)
    | .num neg m e =>
      let n : Int := roundAt rm r neg m e 0 false
      wrapN ty.bits (clampI ty.isSigned ty.bits (if neg then -n else n))

/-- FCVT: the result's integer types are signed as TY (09 R167). -/
def execFcvt (h : Hdr) (rm : Rm) (sat : Bool) (ty sty : Ty) (d a b : Opd) (s : State) : Out :=
  s.perLane (.fcvt h rm sat ty sty d a b) d ty.bits ty.isSigned fun g h L =>
    cvtF rm sat ty sty (rdN g h 32 b L % 65536) (rd g h sty a L)

/-- A packed source: an immediate stands for its value in every element (09 R169, R170). -/
def rdPack (g : Group) (h : Hdr) (ty : Ty) (o : Opd) (L : Nat) : Nat :=
  rdWith (fun n =>
    let x := immPat ty n
    (List.range (32 / ty.bits)).foldl (fun t i => t + x * 2 ^ (ty.bits * i)) 0) g h 32 o L

def elemN (w x i : Nat) : Nat := x / 2 ^ (w * i) % 2 ^ w

def execHfma2 (h : Hdr) (rm : Rm) (sat : Bool) (ty : Ty) (d a b c : Opd) (s : State) : Out :=
  s.perLane (.hfma2 h rm sat ty d a b c) d 32 false fun g h L =>
    let x := rdPack g h ty a L
    let y := rdPack g h ty b L
    let z := rdPack g h ty c L
    let half := fun i => (fmtOf ty).fma rm sat (elemN 16 x i) (elemN 16 y i) (elemN 16 z i)
    half 0 + 2 ^ 16 * half 1

def execFdot4 (h : Hdr) (rm : Rm) (sat : Bool) (ty : Ty) (d a b c : Opd) (s : State) : Out :=
  s.perLane (.fdot4 h rm sat ty d a b c) d 32 false fun g h L =>
    let x := rdPack g h ty a L
    let y := rdPack g h ty b L
    let z := rd g h .f32 c L
    let f := fmtOf ty
    (fmtOf .f32).ofVal rm sat 0
      (sumVals rm ((List.range 4).map (fun i => (f.val (elemN 8 x i)).mul (f.val (elemN 8 y i)))
        ++ [(fmtOf .f32).val z]))

def execFabs (h : Hdr) (ty : Ty) (d a : Opd) (s : State) : Out :=
  s.fltOp (.fabs h ty d a) d ty fun g h L => rd g h ty a L % (fmtOf ty).sign

def execFneg (h : Hdr) (ty : Ty) (d a : Opd) (s : State) : Out :=
  s.fltOp (.fneg h ty d a) d ty fun g h L => Nat.xor (rd g h ty a L) (fmtOf ty).sign

def execFcopysign (h : Hdr) (ty : Ty) (d a b : Opd) (s : State) : Out :=
  s.fltOp (.fcopysign h ty d a b) d ty fun g h L =>
    rd g h ty a L % (fmtOf ty).sign + rd g h ty b L / (fmtOf ty).sign % 2 * (fmtOf ty).sign

/-! The function unit. -/

/-- ⌊(π/2) × 2^640⌋. -/
def halfPi640 : Nat :=
  0x1921fb54442d18469898cc51701b839a252049c1114cf98e804177d4c76273644a29410f31c6809bbdf2a33679a748636605614dbe4be286e9fc26adadaa3848bc90b6aecc4bcfd8de89885d34c6fdad6
/-- ⌊ln 2 × 2^512⌋. -/
def ln2_512 : Nat :=
  0xb17217f7d1cf79abc9e3b39803f2f6af40f343267298b62d8a0d175b8baafa2be7b876206debac98559552fb4afa1b10ed2eae35c138214427573b291169b825
/-- ⌊(2/√π) × 2^512⌋. -/
def twoRtPi512 : Nat :=
  0x120dd750429b6d11ae3a914fed7fd8688281341d7587cea2e7342b06199cc416180eb39f0b24e1e2281806c12d98f35d77a3e9ddc91c394f0e9eedf0efffd84a2

/-- Fractional bits of the fixed-point arithmetic. -/
def fpBits : Nat := 512
def fpOne : Nat := 2 ^ 512

/-- Σ x^n / n! over n terms, x in fixed point. -/
def expSeries (x : Nat) (n : Nat) : Nat :=
  ((List.range n).foldl (fun (acc : Nat × Nat) i => (acc.1 + acc.2, acc.2 * x / fpOne / (i + 1))) (0, fpOne)).1

/-- An alternating series with first term x and ratio −y/((2k)(2k ± 1)), summed as signed fixed point. -/
def trigSeries (x y : Nat) (odd : Nat) (n : Nat) : Int :=
  ((List.range n).foldl (fun (acc : Int × Nat) i =>
    (if i % 2 = 0 then acc.1 + acc.2 else acc.1 - acc.2,
      acc.2 * y / fpOne / ((2 * i + 1 + odd) * (2 * i + 2 + odd)))) (0, x)).1

def sinFix (r : Nat) : Int := trigSeries r (r * r / fpOne) 1 160
def cosFix (r : Nat) : Int := trigSeries fpOne (r * r / fpOne) 0 160

/-- Σ x (−y)^n / (n! (2n + 1)), the series of erf without its factor. -/
def erfSeries (x y : Nat) (n : Nat) : Int :=
  ((List.range n).foldl (fun (acc : Int × Nat) i =>
    (if i % 2 = 0 then acc.1 + (acc.2 / (2 * i + 1) : Nat) else acc.1 - (acc.2 / (2 * i + 1) : Nat),
      acc.2 * y / fpOne / (i + 1))) (0, x)).1

/-- 2 atanh z = ln((1 + z)/(1 − z)), z in fixed point. -/
def lnSeries (z n : Nat) : Nat :=
  let y := z * z / fpOne
  2 * ((List.range n).foldl (fun (acc : Nat × Nat) i => (acc.1 + acc.2 / (2 * i + 1), acc.2 * y / fpOne)) (0, z)).1

/-- A magnitude m × 2^e as fixed point, bits below 2^-512 dropped. -/
def toFix (m : Nat) (e : Int) : Nat :=
  if 0 ≤ e + 512 then m * 2 ^ (e + 512).toNat else m / 2 ^ (-(e + 512)).toNat

/-- 2^a for a = ±m × 2^e. -/
def exp2Val (f : Fmt) (neg : Bool) (m : Nat) (e : Int) : Nat :=
  -- |a| ≥ 2^9 lies outside every format
  if 9 ≤ e + bitLen m - 1 then f.round .rne false 0 false 1 (if neg then -2000 else 2000) true
  else
    let x : Int := if neg then -(toFix m e : Int) else toFix m e
    let n := x / (fpOne : Int)
    let fr := (x % (fpOne : Int)).toNat
    if fr = 0 then f.round .rne false 0 false 1 n
    else f.round .rne false 0 false (expSeries (fr * ln2_512 / fpOne) 110) (n - 512) true

/-- log₂ of m × 2^e. -/
def log2Val (f : Fmt) (m : Nat) (e : Int) : Nat :=
  let k := bitLen m - 1
  let E : Int := e + k
  let fr := m * fpOne / 2 ^ k
  if fr = fpOne then f.round .rne false 0 (E < 0) E.natAbs 0
  else
    let l := lnSeries ((fr - fpOne) * fpOne / (fr + fpOne)) 170 * fpOne / ln2_512
    let t : Int := E * fpOne + l
    f.round .rne false 0 (t < 0) t.natAbs (-512) true

/-- 1/a. -/
def rcpVal (f : Fmt) (neg : Bool) (m : Nat) (e : Int) : Nat :=
  let q := 2 ^ 400 / m
  f.round .rne false 0 neg q (-400 - e) (2 ^ 400 % m ≠ 0)

/-- √(m × 2^e), with whether it is inexact. -/
def sqrtVal (f : Fmt) (m : Nat) (e : Int) : Nat :=
  let m1 := if e % 2 = 0 then m * 2 ^ 400 else m * 2 ^ 401
  let e1 : Int := if e % 2 = 0 then e - 400 else e - 401
  let r := Nat.sqrt m1
  f.round .rne false 0 false r (e1 / 2) (r * r ≠ m1)

/-- 1/√(m × 2^e). -/
def rsqVal (f : Fmt) (m : Nat) (e : Int) : Nat :=
  -- 1/√x = √(2^(2k)/m) × 2^(-k - e/2) with e made even
  let m1 := if e % 2 = 0 then m else m * 2
  let e1 : Int := if e % 2 = 0 then e else e - 1
  let q := 2 ^ 800 / m1
  let r := Nat.sqrt q
  f.round .rne false 0 false r (-400 - e1 / 2) (r * r * m1 ≠ 2 ^ 800)

/-- Reduction of m × 2^e by π/2: the quadrant and the rest in fixed point. -/
def trigReduce (m : Nat) (e : Int) : Nat × Nat :=
  let x := if 0 ≤ e + 640 then m * 2 ^ (e + 640).toNat else m / 2 ^ (-(e + 640)).toNat
  (x / halfPi640 % 4, x % halfPi640 / 2 ^ 128)

/-- sin (`shift` 0) or cos (`shift` 1) of a magnitude: sign and fixed point. -/
def trigVal (m : Nat) (e : Int) (shift : Nat) : Int :=
  let (k, r) := trigReduce m e
  match (k + shift) % 4 with
  | 0 => sinFix r
  | 1 => cosFix r
  | 2 => -sinFix r
  | _ => -cosFix r

def roundFix (f : Fmt) (t : Int) : Nat := f.round .rne false 0 (t < 0) t.natAbs (-512) true

/-- tanh of a magnitude: (E − 1)/(E + 1) with E = e^(2x). -/
def tanhVal (m : Nat) (e : Int) : Nat :=
  -- beyond 2^6 it differs from 1 by less than 2^-180
  if 6 ≤ e + bitLen m - 1 then fpOne - 1
  else
    let y := 2 * toFix m e
    let n := y / ln2_512
    let E := expSeries (y % ln2_512) 110 * 2 ^ n
    (E - fpOne) * fpOne / (E + fpOne)

/-- erf of a magnitude. -/
def erfVal (m : Nat) (e : Int) : Nat :=
  -- beyond 2^3 it differs from 1 by less than 2^-90
  if 3 ≤ e + bitLen m - 1 then fpOne - 1
  else
    let x := toFix m e
    (erfSeries x (x * x / fpOne) 500).toNat * twoRtPi512 / fpOne

/-- FUNC on a pattern (09 R171, R172). Below 2^-20 sin and tanh differ from their argument by less than half a unit. -/
def funcN (fn : FuncFn) (f : Fmt) (x : Nat) : Nat :=
  let one := f.bias * 2 ^ f.mb
  match f.val x with
  | .nan => f.nan
  | .inf neg =>
    match fn with
    | .exp2 => if neg then 0 else f.inf
    | .log2 | .sqrt => if neg then f.nan else f.inf
    | .rcp => if neg then f.sign else 0
    | .rsq => if neg then f.nan else 0
    | .sin | .cos => f.nan
    | .tanh | .erf => if neg then f.sign + one else one
  | .num neg 0 _ =>
    match fn with
    | .exp2 | .cos => one
    | .log2 => f.sign + f.inf
    | .rcp | .rsq => if neg then f.sign + f.inf else f.inf
    | .sqrt | .sin | .tanh | .erf => x
  | .num neg m e =>
    let s := if neg then f.sign else 0
    let small : Bool := e + bitLen m ≤ -20
    match fn with
    | .exp2 => exp2Val f neg m e
    | .log2 => if neg then f.nan else log2Val f m e
    | .rcp => rcpVal f neg m e
    | .rsq => if neg then f.nan else rsqVal f m e
    | .sqrt => if neg then f.nan else sqrtVal f m e
    | .sin => if small then x else roundFix f ((if neg then -1 else 1) * trigVal m e 0)
    | .cos => roundFix f (trigVal m e 1)
    | .tanh => if small then x else s + f.round .rne false 0 false (tanhVal m e) (-512) true
    | .erf => s + f.round .rne false 0 false (erfVal m e) (-512) true

/-- FUNC traps with FTVBAD when %ftv is not 1, whatever lanes are active (09 R171, R173). -/
def execFunc (h : Hdr) (fn : FuncFn) (ty : Ty) (d a : Opd) (s : State) : Out :=
  s.issue (.func h fn ty d a) fun g h =>
    if g.ftv ≠ 1 then .next (s.trap g h { cause := .ftvbad })
    else
      .next (s.retire
        (g.result h d ty.bits false (forLanes (lanesOf g h) fun L => funcN fn (fmtOf ty) (rd g h ty a L))) h)

end Sys2Proof.Machine
end

