-- ==== Sys2Proof/Machine/Access.lean ====
section
/-! DEFINITION. Accesses: the checks of R143, the scratchpad and window, the team's version and its publish, the L1, copy
on write, page access counters (03 R49 to R52, R364; 07 R141 to R146; 11 R186 to R202, R226; 12 R233 to R239). -/

namespace Sys2Proof.Machine

/-! Addresses of a memory instruction (07 R141). -/

/-- The address of a lane: base as 64 bits, offset sign-extended from i32 for V, O and Lr. -/
def addrOf (g : Group) (h : Hdr) (a b : Opd) (L : Nat) : W64 :=
  let off : Int := match b with
    | .v _ | .o _ | .l _ => toInt true 32 (rdN g h 32 b L)
    | _ => rdN g h 64 b L
  BitVec.ofNat 64 (wrapN 64 ((rdN g h 64 a L : Int) + off))

/-- What an access does: which of the rules of 07 R143 and 11 R204 apply. `cell` is an ordered contribution (11 R209). -/
inductive AKind where | load | store | atom | cell
  deriving DecidableEq, Repr

/-- Where a lane's access goes; in published memory with the row of a remap window that it goes through. -/
inductive ATgt where
  | scr (cluster off : Nat)
  | pub (ps : List Piece) (row : Option (Remap × Nat × Nat))
  | aperture (off : Nat)
  deriving DecidableEq, Repr

/-- The resolution of one lane's address. -/
inductive Res where
  | prot
  | miss (ms : List (Miss × Bool))
  | wait
  /-- the address cannot be translated yet, so that nothing is known of the access (11 R197; 19 R347) -/
  | held
  | ok (t : ATgt)
  deriving DecidableEq, Repr

/-- Bytes lo up to hi of a core's scratchpad may not be reached: the core is disabled, or a share of another context is met
(01 R16, 07 R143). -/
def State.coreProt (s : State) (ctx cluster core lo hi : Nat) : Bool :=
  s.off cluster 1 core || (s.sharesOn (cluster * 256 + core)).any fun (o, sz, c) => c ≠ ctx && lo < o + sz && o < hi

/-- n bytes of a cluster's window leave it, or meet a disabled core or a share of another context (07 R143). -/
def State.cwProt (s : State) (ctx cluster off n : Nat) : Bool :=
  let first := off / Config.scratchBytes
  Config.windowBytes < off + n || (List.range ((off + n - 1) / Config.scratchBytes + 1 - first)).any fun j =>
    let base := (first + j) * Config.scratchBytes
    s.coreProt ctx cluster (first + j) (max off base - base) (min (off + n) (base + Config.scratchBytes) - base)

/-- A shared row of a remap window names no block of the pool (11 R226). -/
def Remap.foreign (d : Remap) (entry : Nat) : Bool :=
  let rowia := bitsN entry 47 0
  bitsN entry 49 49 = 1
    && (rowia < d.poolBase || (rowia - d.poolBase) % 2 ^ d.k ≠ 0 || d.blocks ≤ (rowia - d.poolBase) / 2 ^ d.k)

/-- Resolves an address of w bytes in a space (07 R143, R144; 11 R188, R192, R198, R204). The PROT of 11 R226 for a shared row that is
no block is one of R143's protection failures; the page of the block that a shared row names is checked like any other before the
row is copied, and that of the new block after (DESIGN CHOICE, log 115). -/
def State.resolve (s : State) (g : Group) (sp : Space) (k : AKind) (w : Nat) (va : W64) : Res :=
  match sp with
  | .sh =>
    match s.teamOf g.id with
    | none => .prot
    | some t =>
      match s.shareOf t with
      | none => .prot
      | some (cl, off, size) => if size < va.toNat + w then .prot else if s.winWaits cl (off + va.toNat) w then .wait else .ok (.scr cl (off + va.toNat))
  | .cw =>
    if s.cwProt g.id.ctx g.site.cluster va.toNat w then .prot
    else if s.winWaits g.site.cluster va.toNat w then .wait
    else .ok (.scr g.site.cluster va.toNat)
  | .gl =>
    match s.ctx? g.id.ctx with
    | none => .prot
    | some c =>
      match s.xlat c g.site.cluster va with
      | .prot => .prot
      | .fabric _ => .prot
      | .aperture off => if k = .store && w = 8 then .ok (.aperture off) else .prot
      | .miss ms => .miss ms
      | .wait => .held
      | .ia ia => go c ia none
      | .row ia d row e => if k ≠ .load && d.foreign e then .prot else go c ia (some (d, row, e))
where
  go (c : Ctx) (ia : Nat) (row : Option (Remap × Nat × Nat)) : Res :=
    let x := s.span c ia w
    if x.held then .held
    else if k ≠ .load && x.pieces.any fun p => p.leaf.kind = 1 then .prot
    else if !x.missing.isEmpty then .miss x.missing
    else if s.unreached g.site.cluster c.no x.pieces || ((k = .load || k = .store) && s.spilledAway c g.id.task x.pieces)
        || (k ≠ .cell && s.cellDue g.id x.pieces) then .wait
    else .ok (.pub x.pieces row)

/-- The checks of all lanes. -/
inductive Chk where
  | trap (t : Trap)
  | miss (ms : List (Miss × Bool))
  | wait
  | ok (accs : List (Nat × W64 × ATgt))
  deriving DecidableEq, Repr

/-- The checks of 07 R143 in order: alignment, protection, missing pages. While an address cannot be translated the instruction waits
with them all (DEDUCED, log 69). -/
def State.checkLanes (s : State) (g : Group) (h : Hdr) (sp : Space) (k : AKind) (align w : Nat)
    (addrs : List (Nat × W64)) : Chk :=
  let fail (c : Cause) (bad : List (Nat × W64)) : Chk :=
    .trap { cause := c, info := (bad.headD (0, 0)).2, lanes := tlaneOf h (bad.map (·.1)) }
  let mis := addrs.filter fun x => x.2.toNat % align ≠ 0
  if !mis.isEmpty then fail .align mis
  else
    let rs := addrs.map fun x => (x.1, x.2, s.resolve g sp k w x.2)
    let bad := rs.filter fun x => x.2.2 = .prot
    if rs.any fun x => x.2.2 = .held then .wait
    else if !bad.isEmpty then fail .prot (bad.map fun x => (x.1, x.2.1))
    else
      let ms := rs.flatMap fun x => match x.2.2 with | .miss m => m | _ => []
      if !ms.isEmpty then .miss (distinctMiss ms)
      else if rs.any fun x => x.2.2 = .wait then .wait
      else .ok (rs.filterMap fun x => match x.2.2 with | .ok t => some (x.1, x.2.1, t) | _ => none)

/-! Copy on write (11 R226). -/

inductive Cow where
  | prot
  | miss (ms : List (Miss × Bool))
  /-- a table or block of the window cannot be reached yet (11 R197; 19 R347) -/
  | wait
  | ok (s : State)

/-- Copies one published line; its uncorrectable words stay so (19 R348; DEDUCED, log 86). -/
def State.copyLine (s : State) (ls ld : Leaf) (ctx src dst : Nat) : State :=
  (s.pubWrite ld ctx dst (s.pubRead ls ctx src 64)).spoilPub ld ctx ((s.pubBadWords ls ctx src).map fun w => w - src / 8 + dst / 8)

/-- Copies n published lines of one block to another. -/
def State.copyLines (s : State) (ls ld : Leaf) (ctx src dst : Nat) : Nat → State
  | 0 => s
  | k + 1 => State.copyLines (s.copyLine ls ld ctx src dst) ls ld ctx (src + 64) (dst + 64) k

/-- The lines of two blocks cannot be copied yet for a cluster: they cannot be reached from it, or the die link between their homes
is fenced (01 R11; 11 R197; 19 R347). -/
def State.blocksWait (s : State) (ctx cluster src dst n : Nat) (ls ld : Leaf) : Bool :=
  s.pieceWaits ctx cluster { ia := src, n, leaf := ls } || s.pieceWaits ctx cluster { ia := dst, n, leaf := ld }
    || s.dieFenced ls.home ld.home

/-- Resolves a shared row for a cluster before a store or an atomic (11 R226). The entry was read, so its top byte, which stays as it
is, is not written: a word that was uncorrectable stays so (19 R348). A number popped from the free list, a count of it beyond its
capacity, and a block whose address does not fit ROWIA are used as they read (DESIGN CHOICE, log 131). The lines of a block on an E
page are written whether or not their slices have room, and force no line out (DESIGN CHOICE, log 143). -/
def State.cow (s : State) (c : Ctx) (cluster : Nat) (d : Remap) (row entry : Nat) : Cow :=
  let rowia := bitsN entry 47 0
  let b := (rowia - d.poolBase) / 2 ^ d.k
  let put (s : State) (e : Nat) : State := s.iaWrite c (d.table + 8 * row) (leBytes 7 e)
  if d.foreign entry then .prot
  else match s.iaRead c cluster (d.refs + 4 * b) 4 with
    | .miss ms => .miss ms
    | .wait => .wait
    | .ok rb =>
      let refs := leNat rb
      if refs ≤ 1 then .ok (put s (entry - 2 ^ 49))
      else
        match s.iaRead c cluster (d.ia + 0x34) 4 with
        | .miss ms => .miss ms
        | .wait => .wait
        | .ok cb =>
        let cnt := leNat cb
        if cnt = 0 then .miss [(.freeList d.ia, false)]
        else match s.iaRead c cluster (d.free + 4 * (cnt - 1)) 4 with
          | .miss ms => .miss ms
          | .wait => .wait
          | .ok fb =>
            let n := leNat fb
            let dst := d.poolBase + n * 2 ^ d.k
            if s.walkWaits c rowia || s.walkWaits c dst then .wait
            else match s.walk c rowia, s.walk c dst, s.iaRead c cluster (d.refs + 4 * n) 4 with
            | .ok ls, .ok ld, .ok _ =>
              if s.blocksWait c.no cluster rowia dst (2 ^ d.k) ls ld then .wait
              else
                let s1 := s.iaWrite c (d.ia + 0x34) (leBytes 4 (cnt - 1))
                let s2 := s1.copyLines ls ld c.no rowia dst (2 ^ d.k / 64)
                let s3 := put s2 (2 ^ 48 + dst)
                let s4 := s3.iaWrite c (d.refs + 4 * n) (leBytes 4 1)
                .ok (s4.iaWrite c (d.refs + 4 * b) (leBytes 4 (refs - 1)))
            | .missing m, _, _ => .miss [(.page (pageOf rowia), m)]
            | _, .missing m, _ => .miss [(.page (pageOf dst), m)]
            | _, _, .miss ms => .miss ms
            | _, _, .wait => .wait

/-! The version (03 R49 to R52). -/

/-- Sets a byte of a version; every byte value is listed. -/
def verSet (v : List Host.Cell) (a : Nat) : List Byte → List Host.Cell
  | [] => v
  | b :: bs => verSet (cellSet v a b) (a + 1) bs

/-- Home cluster and slice of a line. -/
def State.homeOf (s : State) (ctx line : Nat) : Nat × Nat :=
  match s.ctx? ctx with
  | none => (0, 0)
  | some c => match s.walk c line with | .missing _ => (0, 0) | .ok l => (l.home, s.slice l.home line)

/-- Entries of the version spill area that a context's lines take. -/
def State.spillUsed (s : State) (ctx : Nat) : List Nat :=
  (s.teams.filter fun t => t.ctx = ctx).flatMap fun t => t.spilled.map (·.2)

/-- The lowest free entry of the version spill area: it holds ⌊VSBYTES / 128⌋ lines (03 R52, 19 R336). One that the partition does
not own is not used (01 R24; DESIGN CHOICE, log 128). -/
def State.spillFree (s : State) (c : Ctx) : Option Nat :=
  let used := s.spillUsed c.no
  ((List.range (used.length + 1)).find? fun e => e < c.vsbytes / 128 && !used.contains e).filter fun e =>
    s.ownsBytes c.part (c.verEntry e) 128

/-- The bytes of a version line that it holds, as a mask. -/
def verMask (v : List Host.Cell) (line : Nat) : Nat :=
  ((List.range 64).map fun j => if (verGet v (line + j)).isSome then 2 ^ j else 0).foldl (· + ·) 0

/-- The 128 bytes of a spilled line: data, mask, and a tag of IA, task and zeros (03 R52; the order in the tag: DESIGN
CHOICE, log 88). -/
def spillBytes (task : W64) (v : List Host.Cell) (line : Nat) : List Byte :=
  (List.range 64).map (fun j => (verGet v (line + j)).getD 0) ++ leBytes 8 (verMask v line) ++ leBytes 8 line
    ++ leBytes 8 task.toNat ++ List.replicate 40 0

/-- A version line goes to an entry of the spill area; its uncorrectable words stay so. -/
def State.spillLine (s : State) (c : Ctx) (task : W64) (line e : Nat) : State :=
  match s.team? c.no task with
  | none => s
  | some t =>
    let here (w : Nat) : Bool := line ≤ 8 * w && 8 * w < line + 64
    let s1 := s.writeMem (c.verEntry e) (spillBytes task t.version line)
    (s1.spoilMem ((t.verBad.filter here).map fun w => c.verEntry e / 8 + (w - line / 8))).updTeam c.no task fun t =>
      { t with spilled := t.spilled ++ [(line, e)], verBad := t.verBad.filter fun w => !here w }

/-- Makes room for a version line in its slice: none when the spill area is full. A store counts as a use of its line, a load
does not (03 R52; DESIGN CHOICE, log 19). -/
def State.versionLine (s : State) (c : Ctx) (task : W64) (line : Nat) : Option State :=
  let me : VLine := { ctx := c.no, task, line }
  match s.team? c.no task with
  | none => none
  | some t =>
    if t.spilled.any fun x => x.1 = line then some s
    else if s.vlines.contains me then some { s with vlines := (s.vlines.filter (· ≠ me)) ++ [me] }
    else
      let home := s.homeOf c.no line
      let inSlice := s.vlines.filter fun v => s.homeOf v.ctx v.line = home
      if inSlice.length < Config.versionLines then some { s with vlines := s.vlines ++ [me] }
      else match s.spillFree c with
        | none => none
        | some e =>
          match inSlice.find? fun v => v.ctx = c.no with
          | none => some (s.spillLine c task line e)
          | some v =>
            let s1 := s.spillLine c v.task v.line e
            some { s1 with vlines := (s1.vlines.filter (· ≠ v)) ++ [me] }

/-- A store to a line of the version waits: the line stands in the spill area, or a line must go there, and it cannot be reached
(19 R347; DEDUCED, log 69). -/
def State.versionWaits (s : State) (c : Ctx) (task : W64) (line : Nat) : Bool :=
  !s.fences.isEmpty && match s.team? c.no task with
    | none => false
    | some t =>
      let home := s.homeOf c.no line
      match t.spilled.find? fun x => x.1 = line with
      | some (_, e) => s.frameFenced home.1 (c.verEntry e)
      | none =>
        !s.vlines.contains { ctx := c.no, task, line }
          && Config.versionLines ≤ (s.vlines.filter fun v => s.homeOf v.ctx v.line = home).length
          && (s.spillFree c).any fun e => s.frameFenced home.1 (c.verEntry e)

/-- A line of the version that stands in the spill area is kept there as it now is. -/
def State.respill (s : State) (c : Ctx) (task : W64) (ia : Nat) (bs : List Byte) : State :=
  match s.team? c.no task with
  | none => s
  | some t =>
    match t.spilled.find? fun x => x.1 = lineOf ia with
    | none => s
    | some (line, e) =>
      if !s.ownsBytes c.part (c.verEntry e) 128 then s
      else (s.writeMem (c.verEntry e + ia % 64) bs).writeMem (c.verEntry e + 64) (leBytes 8 (verMask t.version line))

/-- Stores bytes into the team's version; none is VOVF. -/
def State.holdStore (s : State) (c : Ctx) (task : W64) (ia : Nat) (bs : List Byte) : Option State :=
  match s.versionLine c task (lineOf ia) with
  | none => none
  | some s1 =>
    some ((s1.updTeam c.no task fun t =>
      { t with version := verSet t.version ia bs, verBad := keepBad t.verBad ia bs.length }).respill c task ia bs)

/-- Cores that hold groups of a team. -/
def State.coresOf (s : State) (ctx : Nat) (task : W64) : List Nat :=
  (s.groupsOf ctx task).filterMap fun g => match g.site with | .core k => some k | .cc _ => none

/-- Version bytes as runs of neighbours within one line. -/
def runsOf : List Host.Cell → List (Nat × List Byte)
  | [] => []
  | (a, b) :: t =>
    match runsOf t with
    | [] => [(a, [b])]
    | (a', bs) :: r => if a' = a + 1 && lineOf a' = lineOf a then (a, b :: bs) :: r else (a, [b]) :: (a', bs) :: r

/-- The published words that version bytes leave uncorrectable: those of which some byte was so (19 R348; DEDUCED, log 86). -/
def State.badRun (s : State) (c : Ctx) (t : Team) (ia : Nat) (bs : List Byte) : List Nat :=
  (((List.range bs.length).filter fun j => s.verByteBad c t (ia + j)).map fun j => (ia + j) / 8).dedup

/-- The cluster that holds a team. -/
def State.heldOn (s : State) (t : Team) : Nat :=
  match t.share with
  | some (k, _) => k / 256
  | none => match (s.groupsOf t.ctx t.task).head? with | some g => g.site.cluster | none => t.cluster

/-- Publishes the lines whose pages are present, and answers the missing pages of the others; a line that cannot be reached yet from the
team's cluster waits (01 R11; 03 R51, R364; 11 R197; 19 R347). DEDUCED, log 50. -/
def State.publish (s : State) (ctx : Nat) (task : W64) : State × List (Miss × Bool) :=
  match s.ctx? ctx, s.team? ctx task with
  | some c, some t =>
    let here (x : Host.Cell) : Bool :=
      match s.walk c x.1 with
      | .ok l =>
        let p : Piece := { ia := x.1, n := 1, leaf := l }
        !s.walkWaits c x.1 && !s.unreached (s.heldOn t) ctx [p] && !s.spilledAway c task [p]
      | .missing _ => false
    let out := t.version.filter here
    let stay := t.version.filter fun x => !here x
    let s1 := (runsOf out).foldl (fun s' x =>
      match s'.walk c x.1 with
      | .ok l => (s'.pubWrite l ctx x.1 x.2).spoilPub l ctx (s.badRun c t x.1 x.2)
      | .missing _ => s') s
    let kept (line : Nat) : Bool := stay.any fun x => lineOf x.1 = line
    let s2 := s1.updTeam ctx task fun t =>
      { t with version := stay, spilled := t.spilled.filter fun x => kept x.1, verBad := t.verBad.filter fun w => kept (lineOf (8 * w)) }
    let cores := s.coresOf ctx task
    let s3 := { s2 with
      vlines := s2.vlines.filter fun v => !(v.ctx = ctx && v.task = task) || kept v.line
      l1 := s2.l1.filter fun l =>
        !(l.ctx = ctx && cores.contains l.core && out.any fun x => lineOf x.1 = l.line) }
    (s3, distinctMiss (stay.filterMap fun x => match s.walk c x.1 with
      | .missing m => if s.walkWaits c x.1 then none else some (.page (pageOf x.1), m)
      | .ok _ => none))
  | _, _ => (s, [])

/-- Everything that a team's version held has been published. -/
def State.published (s : State) (ctx : Nat) (task : W64) : Bool :=
  match s.team? ctx task with | some t => t.version.isEmpty | none => true

/-- Changes published bytes on behalf of a group: its core's copy of the line, and every copy of a C line, is recalled
(11 R200, R201). -/
def State.pubChange (s : State) (lf : Leaf) (ctx ia : Nat) (bs : List Byte) (drop_ : L1Line → Bool) : State :=
  (s.pubWrite lf ctx ia bs).dropL1 fun l => l.ctx = ctx && l.line = lineOf ia && drop_ l

/-! Releases and acquires (12 R231, R237, R239; 11 R209, R211). -/

/-- Matrix steps queued on units, or that a restored context is still to bring to one (19 R345), that a test holds of. -/
def State.anyStep (s : State) (p : MStep → Bool) : Bool :=
  s.units.any (fun u => u.steps.any p) || s.savedUnits.any fun u => u.state.steps.any p

/-- Reads of the group that are still to be performed at a unit, or at a destination of the fabric: every other access is
performed when it issues (DEDUCED, log 4). -/
def State.readsDue (s : State) (id : GroupId) : Bool :=
  s.loads.any fun l => l.gid = id && match l.kind with | .mem _ _ => false | _ => true

/-- Some ordered contribution of the group is not accepted (11 R209). -/
def State.orderedDue (s : State) (id : GroupId) : Bool := s.ordered.any fun o => o.gid = id && o.st ≠ .buffered

/-- A coordinate lies in a box (17 R303). -/
def inBox (coord : List Nat) (b : Box) : Bool :=
  b.zipIdx.all fun ((lo, hi), a) => lo ≤ coord.getD a 0 && coord.getD a 0 ≤ hi

/-- The partition of this package at a coordinate of a job. -/
def State.partAt (s : State) (job : Nat) (coord : List Nat) : Option Nat :=
  s.places.findIdx? fun p => p.jobNo = job && !p.sizes.isEmpty && p.coord = coord

/-- A landing is that of a remote store or contribution that a group sent, or is of the round that it is part of. -/
def isOf (x : Sent) (l : Landing) : Bool :=
  l.job = x.job && l.origins.any fun o => o.src = x.src && o.seq = x.seq

/-- A contribution is part of a round that is not whole. -/
def Round.holds (r : Round) (x : Sent) : Bool :=
  r.parts.any fun c => c.job = x.job && c.origin.src = x.src && c.origin.seq = x.seq

/-- A remote store or contribution has not landed everywhere, as far as this package sees: its copies and landings, its round, and
the acknowledgements that it awaits from peers outside (log 4). -/
def State.underWay (s : State) (x : Sent) : Bool :=
  s.fcopies.any (fun f => isOf x f.body) || s.landings.any (fun a => isOf x a.body) || s.rounds.any (fun r => r.holds x)
    || s.awaits.any fun a => a.ctx = x.gid.ctx && a.tag = x.seq && a.from_.any fun p => (s.partAt x.job p).isNone

/-- Where a remote store or contribution still has to land on the sender itself. -/
def State.homeBound (s : State) (x : Sent) : Bool :=
  s.fcopies.any (fun f => isOf x f.body && f.at_ = none && !f.nself && inBox x.src f.reach)
    || s.landings.any (fun a => isOf x a.body && a.body.dst = x.src)
    || s.rounds.any fun r => r.first.dst = x.src && r.holds x

/-- A remote store or contribution of the group is still to land where a release at a scope covers its destination: on the sender
itself for .dev, anywhere for .node and .job (07 R145; 17 R326; DEDUCED, log 4). -/
def State.landingDue (s : State) (id : GroupId) (scope : Scope) : Bool :=
  s.sent.any fun x => x.gid = id && ((scope.code = 4 && s.homeBound x) || (5 ≤ scope.code && s.underWay x))

/-- What a release at a scope waits for: matrix steps and drains of the group, its remote reads, and from .dev on the
acceptance of its ordered atomics and the landing of its remote stores and contributions (07 R145; 11 R209; 12 R239). -/
def State.relReady (s : State) (id : GroupId) (scope : Scope) : Bool :=
  !s.anyStep (fun t => t.gid = id) && !s.readsDue id && (scope.code < 4 || !s.orderedDue id) && !s.landingDue id scope

/-! Outstanding loads (05 R77, R79). -/

/-- The destination is empty from issue until the data lands. -/
def Group.markEmpty (g : Group) : LDst → Group
  | .v n regs => { g with full := (List.range regs).foldl (fun f j => f.set (n + j) false) g.full }
  | .g _ => g
  | .none => g

def ldst (d : Opd) (regs : Nat) : LDst :=
  match d with
  | .v n => .v n.val regs
  | .g n => .g n.val
  | _ => .none

/-- Issues a load: its destination empties and its data is outstanding. -/
def State.addLoad (s : State) (g : Group) (h : Hdr) (dst : LDst) (kind : LKind) : State :=
  let s1 := s.retire (g.markEmpty dst) h
  { s1 with loads := s1.loads ++ [{ id := s1.tick, gid := g.id, pc := g.at_, dst, kind }] }

/-- The bytes of one resolved access as the group reads them, with whether they are uncorrectable. -/
def State.accRead (s : State) (g : Group) (t : ATgt) (w : Nat) : List Byte × Bool :=
  match t with
  | .scr cl off => (s.readScratch cl off w, s.badScratch cl off w)
  | .pub ps _ =>
    match s.ctx? g.id.ctx with
    | none => ([], false)
    | some c => (s.seenAll c g.id g.site ps, s.seenAnyBad c g.id g.site ps)
  | .aperture _ => ([], false)

/-- The distinct lines of accesses, each with its page's leaf (DEDUCED, log 89: an instruction sends one request for a
line, however many of its lanes name it). -/
def distinctLines (ts : List ATgt) : List (Nat × Leaf) :=
  linesIn (ts.flatMap fun t => match t with | .pub ps _ => ps | _ => [])

/-- The lines that a load's lanes ask for (11 R196, R199). -/
def State.touchLines (s : State) (g : Group) (ts : List ATgt) : State :=
  match s.ctx? g.id.ctx with
  | none => s
  | some c => (distinctLines ts).foldl (fun s x => s.touchLine c g.site x.2 x.1) s

/-- The line requests of a store or an atomic (11 R196), once its accesses are made. -/
def State.askLines (s : State) (g : Group) (ts : List ATgt) : State :=
  match s.ctx? g.id.ctx with
  | none => s
  | some c => (distinctLines ts).foldl (fun s x => s.request c g.site.cluster x.1 x.2) s

/-- The line requests of an atomic that only read. -/
def State.askAddrs (s : State) (g : Group) (h : Hdr) (sp : Space) (k : AKind) (w : Nat) (addrs : List (Nat × W64)) : State :=
  match s.checkLanes g h sp k w w addrs with
  | .ok accs => s.askLines g (accs.map (·.2.2))
  | _ => s

end Sys2Proof.Machine
end

