-- ==== Sys2Proof/Machine/Milestone.lean ====
section
/-! DEFINITION. Milestones as records, their references and the reading of a phase (13 R243 to R252). -/

namespace Sys2Proof.Machine

/-- The 64 bytes of a milestone (13 R245). -/
structure Ms where
  phase : Nat
  kind : Nat
  err : Nat
  tag : Nat
  flags : Nat
  bcore : Nat
  expect : W64
  arrived : W64
  chunks : W64
  tilebase : W64
  cont : W64
  value : W64
  resolver : W64
  deriving DecidableEq, Repr

def word64 (bs : List Byte) (off : Nat) : W64 := BitVec.ofNat 64 (nat8 bs off 8)

def Ms.ofBytes (b : List Byte) : Ms :=
  { phase := nat8 b 0 2, kind := nat8 b 2 1, err := nat8 b 3 1, tag := nat8 b 4 1, flags := nat8 b 5 1, bcore := nat8 b 6 2
    expect := word64 b 8, arrived := word64 b 16, chunks := word64 b 24, tilebase := word64 b 32, cont := word64 b 40
    value := word64 b 48, resolver := word64 b 56 }

/-- The u64 at offsets 0x00 to 0x07. -/
def Ms.head (m : Ms) : W64 :=
  BitVec.ofNat 64
    (m.phase + 2 ^ 16 * m.kind + 2 ^ 24 * m.err + 2 ^ 32 * m.tag + 2 ^ 40 * m.flags + 2 ^ 48 * m.bcore)

def Ms.bytes (m : Ms) : List Byte :=
  leBytes 8 m.head.toNat ++ leBytes 8 m.expect.toNat ++ leBytes 8 m.arrived.toNat ++ leBytes 8 m.chunks.toNat
    ++ leBytes 8 m.tilebase.toNat ++ leBytes 8 m.cont.toNat ++ leBytes 8 m.value.toNat ++ leBytes 8 m.resolver.toNat

/-- KIND is at most 3 and every reserved field is zero (13 R246). -/
def Ms.ok (m : Ms) : Bool :=
  m.kind ≤ 3 && m.tag / 64 % 2 = 0 && m.flags / 8 = 0 && bitsN m.bcore 14 10 = 0
    && (m.bcore < 2 ^ 15 || bitsN m.bcore 9 2 = 0)

def Ms.bound (m : Ms) : Bool := 128 ≤ m.tag
def Ms.tagno (m : Ms) : Nat := m.tag % 64
def Ms.chunkmap (m : Ms) : Bool := m.flags / 2 % 2 = 1
def Ms.rearm (m : Ms) : Bool := m.flags % 2 = 1

/-- The core that BCORE names. -/
def Ms.site (m : Ms) : Site := if 2 ^ 15 ≤ m.bcore then .cc (m.bcore % 4) else .core (m.bcore % 1024)

/-- BCORE of a site. -/
def bcoreOf : Site → Nat
  | .core n => n
  | .cc c => 2 ^ 15 + c

/-- A phase counts as reached (13 R247). -/
def reached (phase p : Nat) : Bool := (phase + 65536 - p % 65536) % 65536 < 32768

/-- ERR keeps the first nonzero code (13 R251). -/
def Ms.setErr (m : Ms) (e : Nat) : Ms := if m.err = 0 then { m with err := e } else m

/-- A future that is resolved or claimed takes no part in the completion test (13 R249). -/
def Ms.closed (m : Ms) (claimed : Bool) : Bool := m.kind = 2 && (m.phase = 1 || claimed)

/-- A flip by KIND (13 R250). -/
def Ms.flip (m : Ms) (v : W64) : Ms :=
  if m.kind = 2 then { m with phase := 1, value := v }
  else if m.rearm then { m with phase := (m.phase + 1) % 65536, arrived := 0, chunks := 0 }
  else { m with phase := (m.phase + 1) % 65536 }

/-- The completion test, with whether the milestone flips (13 R249). -/
def Ms.test (m : Ms) (claimed : Bool) : Ms × Bool :=
  if m.closed claimed || m.expect = 0 then (m, false)
  else if m.arrived = m.expect then (m.flip m.arrived, true)
  else if m.expect < m.arrived then (m.setErr 5, false)
  else (m, false)

def Ms.drseen (m : Ms) : Ms := { m with flags := m.flags ||| 4 }

/-- An arrival (13 R248, R249). -/
def Ms.arrive (m : Ms) (claimed : Bool) (n : Nat) : Ms × Bool :=
  let m1 := { m with arrived := m.arrived + BitVec.ofNat 64 n }
  if m.closed claimed then (m1.drseen, false) else m1.test claimed

/-- EXPECT rises (13 R268). -/
def Ms.raise (m : Ms) (claimed : Bool) (n : Nat) : Ms × Bool :=
  { m with expect := m.expect + BitVec.ofNat 64 n }.test claimed

/-- The chunks of the tile of which ranges cover every 32-byte sector (13 R252). A TILEBASE in window form is an offset in the window of
whatever engine's copy is counted, also on a milestone in memory (DESIGN CHOICE, log 112). -/
def Ms.cover (m : Ms) (win : Bool) (ranges : List (Nat × Nat)) : W64 :=
  let base := if win then m.tilebase.toNat % 2 ^ 26 else m.tilebase.toNat
  if m.tilebase.msb != win then 0
  else (List.range 64).foldl (fun acc c =>
    let whole := (List.range 16).all fun k =>
      let x := base + 512 * c + 32 * k
      ranges.any fun (a, n) => a ≤ x && x + 32 ≤ a + n
    if whole then acc ||| BitVec.ofNat 64 (2 ^ c) else acc) 0

/-- The chunks that some ranges, the latest first, complete beside the first `old` of them (13 R252). -/
def Ms.newChunks (m : Ms) (win : Bool) (rs : List (Nat × Nat)) (old : Nat) : W64 :=
  m.cover win rs &&& ~~~(m.cover win (rs.drop (rs.length - old)))

/-- The milestone shows chunks, and the ranges complete one of them. -/
def Ms.chunksDue (m : Ms) (win : Bool) (rs : List (Nat × Nat)) (old : Nat) : Bool :=
  m.kind = 1 && m.chunkmap && m.newChunks win rs old ≠ 0

/-- The milestone is bound, to that core and tag (13 R255). -/
def Ms.names (m : Ms) (site : Site) (tag : Nat) : Bool := m.tag = 128 + tag && m.bcore = bcoreOf site

/-- One update, with whether the milestone flips. -/
def Ms.apply (m : Ms) (claimed : Bool) : MsUpd → Ms × Bool
  | .arrive n e => (if e = 0 then m else m.setErr e).arrive claimed n
  | .fail e => (m.setErr e, false)
  | .resolve v e =>
    let m1 := if e = 0 then m else m.setErr e
    if m1.kind = 2 then (if m1.closed claimed then (m1.drseen, false) else (m1.flip v, true)) else m1.arrive claimed 1
  | .done n => m.arrive claimed (if m.kind = 1 || m.kind = 2 then n else 1)
  | .expect n => m.raise claimed n
  | .chunks win rs old =>
    if m.kind = 1 && m.chunkmap then
      ({ m with chunks := m.chunks ||| m.newChunks win rs old }, false)
    else (m, false)
  | .rebind tag moves =>
    (match moves.find? fun x => m.names x.old tag with | some x => { m with bcore := bcoreOf x.new } | none => m, false)

/-- The update changes something at that milestone: a binding moves only from the core and tag that it names (13 R255). -/
def MsUpd.concerns (m : Ms) : MsUpd → Bool
  | .rebind tag moves => moves.any fun x => m.names x.old tag
  | _ => true

/-! References. -/

/-- What a reference names. -/
inductive Ref where
  | trap (c : Cause)
  | miss (ms : List (Miss × Bool))
  | ok (l : Loc)
  deriving DecidableEq, Repr

/-- The switched-out team of a context whose former share holds a window offset that no team of the context holds now,
and the offset in that share (19 R338). DEDUCED, log 51. -/
def State.formerAt (s : State) (ctx cluster off : Nat) : Option (W64 × Nat) :=
  if s.teams.any fun t => t.ctx = ctx && (match t.share with
      | some (k, o) => t.st.hasShare && k / 256 = cluster && k % 256 * Config.scratchBytes + o ≤ off
          && off < k % 256 * Config.scratchBytes + o + s.scratchOf t.ctx t.serial
      | none => false) then none
  else s.teams.findSome? fun t =>
    match t.former with
    | none => none
    | some (k, o) =>
      let base := k % 256 * Config.scratchBytes + o
      if t.ctx = ctx && k / 256 = cluster && base ≤ off && off < base + s.scratchOf t.ctx t.serial then
        some (t.task, off - base)
      else none

/-- A milestone reference of a context, taken in the window of a cluster (13 R243, R244). While its page cannot be walked nothing is
known of it but its location, and who goes there waits (19 R347; DEDUCED, log 69). -/
def State.mref (s : State) (ctx cluster : Nat) (r : W64) : Ref :=
  let a := r.toNat
  if a % 64 ≠ 0 then .trap .align
  else if r.msb then
    let off := a % 2 ^ 26
    if bitsN a 62 26 ≠ 0 then .trap .prot
    else match s.formerAt ctx cluster off, s.formerAt ctx cluster (off + 63) with
      | some (task, o), some (task2, _) => if task = task2 then .ok (.img ctx task o) else .trap .prot
      | _, _ => if s.cwProt ctx cluster off 64 then .trap .prot else .ok (.win cluster off)
  else match s.ctx? ctx with
    | none => .trap .prot
    | some c =>
      match s.rangeOf c a with
      | none => .trap .prot
      | some rg =>
        if rg.kind ≠ 0 then .trap .prot
        else
          let x := s.span c (rg.ia a) 64
          if x.held then .ok (.mem ctx (rg.ia a))
          else if x.pieces.any fun p => p.leaf.kind < 2 then .trap .prot
          else if !x.missing.isEmpty then .miss x.missing
          else .ok (.mem ctx (rg.ia a))

/-- The IA of a report: the IA, or the window-form reference of a window offset. DEDUCED, log 53. -/
def Loc.report : Loc → Nat
  | .win _ off => 2 ^ 63 + off
  | .mem _ ia => ia
  | .img _ _ off => 2 ^ 63 + off

/-- The IA of a record that a JOIN names, 0 where no NORMAL range covers it (21 R357; DEDUCED, log 52). -/
def State.recordIa (s : State) (ctx : Nat) (a : W64) : Nat :=
  match s.ctx? ctx with
  | none => 0
  | some c => match s.rangeOf c a.toNat with | some r => if r.kind = 0 then r.ia a.toNat else 0 | none => 0

/-- The IA of a report on a reference that fails R244: the window form stands as it is (21 R357; DEDUCED, log 53). -/
def State.refIa (s : State) (ctx : Nat) (r : W64) : Nat := if r.msb then r.toNat else s.recordIa ctx r

/-- An FRES has claimed the future (13 R273). -/
def State.claimed (s : State) (l : Loc) : Bool := s.claims.any fun c => c.loc = l && c.live

/-- A saved share once one of its held changes is applied, as far as its bytes go (19 R338). -/
def State.heldBytes (s : State) (ctx : Nat) (task : W64) (image : List Byte) : Held → List Byte
  | .bytes off bs => patch image off bs
  | .put off bs _ _ => patch image off bs
  | .upd off u =>
    let m := Ms.ofBytes ((image.drop off).take 64)
    if m.ok then patch image off (m.apply (s.claimed (.img ctx task off)) u).1.bytes else image

/-- A saved share as the changes held back so far will leave it: what later accesses of the context find there, in the order
of R338 (DEDUCED, log 51). -/
def State.heldShare (s : State) (ctx : Nat) (task : W64) : List Byte :=
  match s.team? ctx task with
  | none => []
  | some t => t.held.foldl (s.heldBytes ctx task) t.image

/-- What a milestone in published memory lies on. -/
def State.locSpan (s : State) : Loc → Span
  | .mem ctx ia => match s.ctx? ctx with | none => { held := false, missing := [], pieces := [] } | some c => s.span c ia 64
  | _ => { held := false, missing := [], pieces := [] }

/-- An access to a milestone waits. -/
def State.locWaits (s : State) (l : Loc) : Bool :=
  match l with
  | .mem ctx _ => (s.locSpan l).held || s.piecesWait ctx (s.locSpan l).pieces
  | .win cluster off => s.winWaits cluster off 64
  | .img .. => false

/-- The page under migration for which an access to a milestone waits. -/
def State.waitPage (s : State) (l : Loc) : Nat :=
  match l with
  | .mem ctx ia => (((s.locSpan l).pieces.find? fun p => s.migrating ctx (pageOf p.ia)).map fun p => pageOf p.ia).getD (pageOf ia)
  | _ => 0

/-- An access of a group at a cluster to a milestone waits. -/
def State.locUnreached (s : State) (cluster : Nat) (l : Loc) : Bool :=
  s.locWaits l || (s.locSpan l).pieces.any fun p => s.dieFenced cluster p.leaf.home

/-- The milestone at a location; none when its page is missing. -/
def State.ms? (s : State) (l : Loc) : Option Ms :=
  match l with
  | .img ctx task off => some (Ms.ofBytes (((s.heldShare ctx task).drop off).take 64))
  | _ => (s.locRead l 64).map Ms.ofBytes

/-- A change of a saved share is held back for its team, in order (19 R338). -/
def State.hold (s : State) (ctx : Nat) (task : W64) (x : Held) : State :=
  s.updTeam ctx task fun t => { t with held := t.held ++ [x] }

/-- An instruction writes the milestone at a location; `flip` and `init` say what follows where the change is held back. -/
def State.putMs (s : State) (l : Loc) (m : Ms) (flip : Bool := false) (init : Bool := false) : State :=
  match l with
  | .img ctx task off => s.hold ctx task (.put off m.bytes flip init)
  | _ => s.locWrite l m.bytes

/-- The cluster of the lowest number of a context's partition (13 R243). -/
def State.lowCluster (s : State) (ctx : Nat) : Nat :=
  match s.ctx? ctx with
  | none => 0
  | some c => (s.clusters c.part).headD 0

/-- The window location that a saved share's bytes were named by. -/
def State.winOf (s : State) : Loc → Loc
  | .img ctx task off =>
    match s.team? ctx task with
    | some { former := some (k, o), .. } => .win (k / 256) (k % 256 * Config.scratchBytes + o + off)
    | _ => .img ctx task off
  | l => l

/-- The cluster in whose window a future's registered join is taken (13 R243). -/
def State.joinCluster (s : State) (ctx : Nat) : Loc → Nat
  | .win c _ => c
  | .mem _ _ => s.lowCluster ctx
  | .img _ task _ =>
    match s.team? ctx task with
    | none => 0
    | some t => match t.former with | some (k, _) => k / 256 | none => t.cluster

/-! Tags (07 R115, R117; 13 R253). -/

def State.tagsAt (s : State) (site : Site) : W64 := ((s.tags.find? fun t => t.1 = site).map (·.2)).getD 0

def State.setTags (s : State) (site : Site) (v : W64) : State :=
  { s with tags := (s.tags.filter fun t => t.1 ≠ site) ++ [(site, v)] }

/-- Number of the lowest set bit; 64 when there is none. -/
def lowBit (v : W64) : Nat := ((List.range 64).find? fun i => v.getLsbD i).getD 64

def bit64 (n : Nat) : W64 := BitVec.ofNat 64 (2 ^ n)

/-- The reference that a core holds for a tag. -/
def State.tagRef (s : State) (site : Site) (tag : Nat) : Option TagRef := s.tagrefs.find? fun t => t.site = site && t.tag = tag

/-- The milestone of a reference, when it can be read. -/
def State.msOf (s : State) (ctx cluster : Nat) (r : W64) : Option Ms :=
  match s.mref ctx cluster r with
  | .ok l => if s.locBad l 64 then none else s.ms? l
  | _ => none

/-- The lowest tag of a mask whose milestone has a nonzero ERR: its reference (07 R132). -/
def State.tagErr (s : State) (site : Site) (mask : W64) : Option W64 :=
  (List.range 64).findSome? fun n =>
    if mask.getLsbD n then
      match s.tagRef site n with
      | none => none
      | some t =>
        match s.msOf t.gid.ctx site.cluster t.ref with
        | some m => if m.err ≠ 0 then some t.ref else none
        | none => none
    else none

end Sys2Proof.Machine
end

