-- ==== Sys2Proof/Machine/Accept.lean ====
section
/-! DEFINITION. Launch records and their acceptance (03 R30 to R40, R54; 13 R250). -/

namespace Sys2Proof.Machine

/-- A new number for an object of the model. DESIGN CHOICE, log 81. DEDUCED, log 82. -/
def State.fresh (s : State) : Nat × State := (s.tick, { s with tick := s.tick + 1 })

/-! The launch record (03 R32 to R35). -/

def LRec.ofBytes (b : List Byte) : LRec :=
  let pf := nat8 b 0x22 2
  { code := word64 b 0, params := word64 b 8, x := nat8 b 0x10 4, y := nat8 b 0x14 4, z := nat8 b 0x18 4
    groups := nat8 b 0x1C 2, regs := nat8 b 0x1E 2, regmax := nat8 b 0x20 2, prio := pf % 4
    dmode := bitsN pf 8 8 = 1, control := bitsN pf 9 9 = 1, vectorOnly := bitsN pf 10 10 = 1
    scratch := nat8 b 0x24 4, depms := word64 b 0x28, depphase := nat8 b 0x30 2
    ftv := BitVec.ofNat 32 (nat8 b 0x32 2), donems := word64 b 0x38, resolves := word64 b 0x40
    handler := word64 b 0x48 }

/-- The code of the first condition of 03 R34 that a record fails, as 21 R357 numbers them; none when it is valid. -/
def recordFault (b : List Byte) : Option Nat :=
  let r := LRec.ofBytes b
  let pf := nat8 b 0x22 2
  if nat8 b 0x34 4 ≠ 0 || nat8 b 0x50 48 ≠ 0 || bitsN pf 15 11 ≠ 0 || bitsN pf 7 2 ≠ 0 then some 1
  else if r.x = 0 || r.y = 0 || r.z = 0 || 2 ^ 32 < r.x * r.y * r.z then some 2
  else if r.control && r.vectorOnly then some 3
  else if r.control then
    (if r.groups = 1 && r.regs = 0 && r.regmax = 0 && r.scratch = 0 then none else some 4)
  else if r.groups = 0 || 512 < r.groups then some 5
  else if r.regs % 16 ≠ 0 || r.regmax % 16 ≠ 0 || r.regs < 16 || r.regmax < r.regs || 512 < r.regmax then some 6
  else if 262144 < r.scratch then some 7
  else if r.dmode && 24576 < r.groups * r.regs then some 8
  else none

/-- A read of published memory that the device makes for a context, as an LD.u64 of it would: 64 bytes. -/
def State.devLine (s : State) (c : Ctx) (va : W64) : Rd :=
  match s.rangeOf c va.toNat with
  | none => .prot va
  | some r =>
    if r.kind ≠ 0 then .prot va
    else
      let x := s.span c (r.ia va.toNat) 64
      if x.held then .wait
      else if !x.missing.isEmpty then .miss x.missing
      else if s.piecesWait c.no x.pieces then .wait
      else if s.piecesBad c.no x.pieces then .bad va
      else .ok (s.readPieces c.no x.pieces)

/-- The 128 bytes of a record at a 64-byte aligned address. -/
def State.devRecord (s : State) (c : Ctx) (va : W64) : Rd :=
  if va.toNat % 64 ≠ 0 then .prot va else (s.devLine c va).then (s.devLine c (va + 64))

/-! Acceptance (03 R31, R37, R40, R54). -/

/-- The physical cores of a partition in the order of 01 R25. -/
def State.partCores (s : State) (part : Nat) : List Nat :=
  (s.clusters part).flatMap fun cl =>
    ((List.range Config.coresPerCluster).filter fun k => !s.off cl 1 k).map fun k => cl * Config.coresPerCluster + k

/-- The launch's teams run on logical cores (03 R54, R57). -/
def LRec.logical (r : LRec) : Bool := r.dmode && !r.control

/-- The physical core of a logical core (03 R54). A partition without an enabled core has none: core 0 of the device stands for
it, where nothing is admitted (DESIGN CHOICE, log 91). -/
def State.physCore (s : State) (part l : Nat) : Nat :=
  let ps := s.partCores part
  ps.getD (l % ps.length) 0

/-- The home cluster of team t (03 R40, R54). -/
def State.homeCluster (s : State) (part : Nat) (r : LRec) (t : Nat) : Nat :=
  if r.logical then s.physCore part (t % 1024) / Config.coresPerCluster
  else
    let cs := s.clusters part
    cs.getD (t % cs.length) 0

def taskOf (serial : W32) (t : Nat) : W64 := BitVec.ofNat 64 (serial.toNat * 2 ^ 32 + t)

/-- An unstarted team. -/
def newTeam (ctx : Nat) (serial : W32) (idx cluster : Nat) : Team :=
  { ctx, task := taskOf serial idx, serial, idx, cluster, st := .queued, share := none, requeued := false, admitted := 0
    missing := [], version := [], verBad := [], spilled := [], former := none, image := [], held := [], frames := [], binds := [], window := cluster
    pinned := none, away := false, turn := 0, inLeg := none }

def State.tableFull (s : State) (ctx : Nat) : Bool :=
  Config.launchTable ≤ (s.launches.filter fun l => l.ctx = ctx).length

/-- Cancels a launch: no team starts (03 R38). -/
def State.cancel (s : State) (l : Launch) : State :=
  let s1 := s.updLaunch l.ctx l.serial fun x => { x with dep := .cancelled, aborted := true, left := 0 }
  { s1 with teams := s1.teams.filter fun t => !(t.ctx = l.ctx && t.serial = l.serial) }

/-- Tests the dependency of one launch, unless it waits for the FILL of a page on which DEPMS lies (03 R38). -/
def State.testDep (s : State) (l : Launch) : State :=
  if l.dep ≠ .waiting || !l.waits.isEmpty then s
  else if l.lrec.depms = 0 then s.updLaunch l.ctx l.serial fun x => { x with dep := .met }
  else
    let drop (ia : Nat) : State := (s.cancel l).reportCtx l.ctx (discardReport l.ctx 11 0 ia)
    match s.mref l.ctx (s.lowCluster l.ctx) l.lrec.depms with
    | .trap _ => drop (s.refIa l.ctx l.lrec.depms)
    | .miss ms => (s.reportMiss l.ctx ms).updLaunch l.ctx l.serial fun x => { x with waits := ms.map (·.1) }
    | .ok loc =>
      if s.locUnreached (s.lowCluster l.ctx) loc then s
      else if s.locBad loc 64 then drop loc.report
      else match s.ms? loc with
        | none => s
        | some m =>
          if m.err ≠ 0 then s.cancel l
          else if reached m.phase l.lrec.depphase then s.updLaunch l.ctx l.serial fun x => { x with dep := .met }
          else s

/-- Tests every waiting dependency of a context that is on its partition. DEDUCED, log 54. -/
def State.testDeps (s : State) : State :=
  s.launches.foldl (fun s l =>
    match s.ctx? l.ctx with
    | some c => if c.st = .resident then s.testDep l else s
    | none => s) s

/-- Accepts a launch: it takes the next serial, and its teams enter their queues (03 R31, R37, R40). -/
def State.acceptLaunch (s : State) (c : Ctx) (r : LRec) (depth : Nat) (parent : Option W32) : State × W32 :=
  let serial := c.serial
  let n := r.x * r.y * r.z
  let l : Launch :=
    { ctx := c.no, serial, lrec := r, depth, parent, dep := .waiting, aborted := false, left := n, step := 0, waits := [] }
  let s1 := s.updCtx c.no fun c => { c with serial := if c.serial = 0xFFFFFFFF then 1 else c.serial + 1 }
  let s2 : State := { s1 with
    launches := s1.launches ++ [l]
    teams := s1.teams ++ (List.range n).map fun t => newTeam c.no serial t (s.homeCluster c.part r t) }
  (s2.testDep l, serial)

/-- What an attempt to accept a record that a host message or a JOIN names comes to. -/
inductive Try where
  | done (s : State)
  /-- waits: for a page, or for a launch-table entry -/
  | wait (s : State) (hold : Option Hold)

/-- The page of a record whose read waits: one under migration, or else the first (11 R197, 19 R347). -/
def State.movingPage (s : State) (c : Ctx) (va : W64) : Option Nat :=
  let pages := [va, va + 63, va + 64, va + 127].filterMap fun a => (s.rangeOf c a.toNat).map fun r => pageOf (r.ia a.toNat)
  (pages.find? fun p => s.migrating c.no p).or pages.head?

/-- Reads, checks and accepts a record at depth 1 (03 R30, R35, R37). -/
def State.tryLaunch (s : State) (c : Ctx) (addr : W64) : Try :=
  match s.devRecord c addr with
  | .prot _ => .done (s.reportCtx c.no (refusedReport c.no 1 9 addr.toNat))
  | .bad _ => .done (s.reportCtx c.no (refusedReport c.no 1 10 addr.toNat))
  | .miss ms =>
    match ms with
    | (.page p, m) :: _ => .wait (s.reportCtx c.no (missingReport c.no (.page p) m 0)) (some { page := p, fill := true })
    | _ => .done s
  | .wait => .wait s ((s.movingPage c addr).map fun p => { page := p, fill := false })
  | .ok b =>
    match recordFault b with
    | some k => .done (s.reportCtx c.no (refusedReport c.no 1 k addr.toNat))
    | none => if s.tableFull c.no then .wait s none else .done (s.acceptLaunch c (LRec.ofBytes b) 1 none).1

/-- A JOIN flips without an error (13 R250). DEDUCED, log 52. -/
def State.joinLaunch (s : State) (ctx : Nat) (addr : W64) : State :=
  match s.ctx? ctx with
  | none => s
  | some c =>
    match s.tryLaunch c addr with
    | .done s1 => s1
    | .wait s1 hold => { s1 with joins := s1.joins ++ [{ ctx, addr, hold }] }

/-- Takes up the waiting JOIN launches again, in order: those that wait for a page that has been filled or has moved, or for a
table entry. -/
def State.retryJoins (s : State) (ctx : Nat) (hold : Option Hold) : State :=
  (s.joins.filter fun j => j.ctx = ctx && j.hold = hold).foldl
    (fun s j => ({ s with joins := s.joins.erase j }).joinLaunch ctx j.addr) s

end Sys2Proof.Machine
end

