-- ==== Sys2Proof/Machine/Async.lean ====
section
/-! DEFINITION. What a change of a milestone brings with it: tags, waits, triggers, starts, joins (13 R246 to R257, R264,
R265; 07 R115). A change and everything that follows from it at once is one step. -/

namespace Sys2Proof.Machine

/-! Waits that a tag completes (07 R115). -/

/-- The tag condition of a wait. -/
def Park.tagsHold (tags : W64) : Park → Bool
  | .waitAny m _ _ => tags &&& m ≠ 0
  | .waitAll m _ => tags &&& m = m
  | _ => false

/-- The effect of a wait whose tag condition holds, as one step at the core: the group, and the tags that remain. -/
def Group.takeTags (g : Group) (tags : W64) : Park → Group × W64
  | .waitAny m clr d =>
    let n := lowBit (tags &&& m)
    (match d with | .g r => g.putG r.val (BitVec.ofNat 64 n) | _ => g, if clr then tags &&& ~~~(bit64 n) else tags)
  | .waitAll m clr => (g, if clr then tags &&& ~~~m else tags)
  | _ => (g, tags)

/-- Puts x before the first element that it precedes. -/
def insertBy {α : Type} (lt : α → α → Bool) (x : α) : List α → List α
  | [] => [x]
  | y :: t => if lt x y then x :: y :: t else y :: insertBy lt x t

/-- Stable sort. -/
def sortBy {α : Type} (lt : α → α → Bool) (l : List α) : List α := l.foldl (fun acc x => insertBy lt x acc) []

/-- The lower task first, then the lower group index. -/
def Group.first (a b : Group) : Bool := a.id.task < b.id.task || (a.id.task = b.id.task && a.id.grp < b.id.grp)

/-- The groups parked at a site, the lower task first, then the lower index; those of two contexts that agree in both stand in the
order of the list (DESIGN CHOICE, log 97). -/
def State.waiters (s : State) (site : Site) : List Group :=
  sortBy Group.first (s.groups.filter fun g => g.site = site && g.isParked)

/-- One waiting group tests the tags as earlier groups left them; a wait that completes acquires (13 R254). -/
def State.wakeOne (s : State) (site : Site) (id : GroupId) : State :=
  match s.group? id with
  | none => s
  | some g =>
    match g.st with
    | .parked w =>
      if w.tagsHold (s.tagsAt site) then
        let (g1, tags) := g.takeTags (s.tagsAt site) w
        ((s.setTags site tags).complete g1).acquire site .job
      else s
    | _ => s

/-- A tag is set: its waits complete (07 R115). -/
def State.setTag (s : State) (site : Site) (n : Nat) : State :=
  let s1 := s.setTags site (s.tagsAt site ||| bit64 n)
  (s1.waiters site).foldl (fun s g => s.wakeOne site g.id) s1

/-! Starts (13 R256, R257). -/

/-- Starts that a channel has accepted and not begun. -/
def State.queued (s : State) (cluster channel : Nat) : Nat :=
  (s.starts.filter fun t => t.cluster = cluster && t.channel = channel && t.st = .queued).length

/-- The template at an index. -/
def Ctx.template? (c : Ctx) (i : Nat) : Option (List Byte) := (c.templates.find? fun t => t.1 = i).map (·.2)

def tmplRemote (t : List Byte) : Bool := nat8 t 2 2 % 2 = 1
def tmplMs (t : List Byte) : W64 := word64 t 0x30

/-- The template that a group's start copies at its acceptance: the entry as it stands, while it is still one that the start
may use (DESIGN CHOICE, log 26: else the entry as it stood at issue). A trigger's start has the template of the moment at
which it fired (13 R265). -/
def State.startTmpl (s : State) (t : Start) : List Byte :=
  match s.ctx? t.ctx, t.gid with
  | some c, some _ =>
    match c.template? t.idx with
    | none => t.tmpl
    | some e => if tmplRemote e = t.remote.isSome then e else t.tmpl
  | _, _ => t.tmpl

/-- An earlier start of the same group has not been accepted. -/
def State.startBehind (s : State) (t : Start) : Bool :=
  match t.gid with
  | none => false
  | some id => s.starts.any fun x => x.gid = some id && x.st = .refused && x.id < t.id

/-- A start reaches its channel: accepted, or refused and sent again later (13 R257), as by a fenced BTE (19 R347). -/
def State.offer (s : State) (t : Start) : State :=
  if s.startBehind t || Config.channelQueue ≤ s.queued t.cluster t.channel || s.fenced (unitCode t.cluster 6 0) then
    { s with starts := s.starts ++ [{ t with st := .refused }] }
  else { s with starts := s.starts ++ [{ t with st := .queued, tmpl := s.startTmpl t }] }

/-! The chain of what follows a change. -/

/-- Where an update goes. -/
inductive MTgt where
  | ref (cluster : Nat) (r : W64)
  | loc (l : Loc)
  deriving DecidableEq, Repr

/-- One thing that follows a change. -/
inductive Todo where
  /-- an update on behalf of a context and a task -/
  | upd (ctx : Nat) (task : W64) (t : MTgt) (u : MsUpd)
  | tag (site : Site) (n : Nat)
  | fire (t : Trigger)
  | cancel (t : Trigger)
  | join (ctx : Nat) (addr : W64)
  | joinErr (ctx : Nat) (addr : W64)
  deriving DecidableEq, Repr

/-- The triggers that watch a milestone, in queue order: those of the context whose update changes it, also in window bytes that no
share holds (13 R264; DESIGN CHOICE, log 151). -/
def State.watching (s : State) (ctx : Nat) (l : Loc) : List Trigger :=
  s.triggers.filter fun t => t.ctx = ctx && t.loc = s.winOf l && t.fate.isNone

/-- The triggers of a milestone whose phase is reached (13 R264). -/
def State.due (s : State) (ctx : Nat) (l : Loc) (phase : Nat) : List Todo :=
  ((s.watching ctx l).filter fun t => reached phase t.phase).map .fire

/-- The context is on its partition. -/
def State.onPart (s : State) (ctx : Nat) : Bool := match s.ctx? ctx with | some c => c.st ≠ .saved | none => false

/-- What follows the change of a milestone from m to m2 (13 R250, R251). Changes by instructions of this chapter and by engines have
it; an ordinary store that is published over a milestone brings neither the completion test nor what an ERR cancels (DESIGN CHOICE,
log 132). -/
def State.follow (s : State) (ctx : Nat) (task : W64) (l : Loc) (m m2 : Ms) (flip : Bool) : List Todo :=
  let errs := if m.err = 0 && m2.err ≠ 0 then (s.watching ctx l).map Todo.cancel else []
  let flips :=
    if !flip then []
    else
      (if m2.kind = 2 && m2.cont ≠ 0 then
        [Todo.upd ctx task (.ref (s.joinCluster ctx l) m2.cont) (.arrive 1 (if m2.err ≠ 0 then 6 else 0))] else [])
      ++ (if m2.bound then [.tag m2.site m2.tagno] else [])
      ++ (if m2.err = 0 then s.due ctx l m2.phase else [])
      ++ (if m2.kind = 3 then [if m2.err = 0 then .join ctx m2.cont else .joinErr ctx m2.cont] else [])
  errs ++ flips

/-- The tag that a moved binding sets on its new core: the milestone's PHASE has changed since the save (13 R255). -/
def MsUpd.tagMoved (m : Ms) : MsUpd → List Todo
  | .rebind tag moves => moves.filterMap fun x => match x.since with
      | .phase n => if m.phase ≠ n then some (.tag x.new tag) else none
      | _ => none
  | _ => []

/-- A milestone whose page was missing at the save is found as it was then, once the page is back (13 R255; DEDUCED, log 41). -/
def MsUpd.known (m : Option Ms) : MsUpd → MsUpd
  | .rebind tag moves => .rebind tag (moves.map fun x => match x.since, m with
      | .unknown, some m => { x with since := .phase m.phase }
      | _, _ => x)
  | u => u

/-- Applies an update at a location: held back for a switched-out team (19 R338), or dropped and reported when the milestone
cannot take it (13 R246). -/
def State.update (s : State) (ctx : Nat) (task : W64) (l : Loc) (u : MsUpd) : State × List Todo :=
  match l with
  | .img c tk off => (s.hold c tk (.upd off u), [])
  | _ => 
  if s.locBad l 64 then (s.reportCtx ctx (discardReport ctx 9 task l.report), [])
  else match s.ms? l with
    | none => (s.reportCtx ctx (discardReport ctx 3 task l.report), [])
    | some m =>
      if !u.concerns m then (s, u.tagMoved m)
      else if !m.ok then (s.reportCtx ctx (discardReport ctx 3 task l.report), [])
      else
        let (m2, flip) := m.apply (s.claimed l) u
        (s.locWrite l m2.bytes, u.tagMoved m ++ s.follow ctx task l m m2 flip)

/-- Removes a trigger entry. -/
def State.dropTrigger (s : State) (t : Trigger) : State := { s with triggers := s.triggers.filter fun x => x.id ≠ t.id }

/-- While the trigger table is fenced, an entry keeps what has come of it: it fires, or is cancelled (19 R347; DEDUCED, log 69). -/
def State.markTrigger (s : State) (t : Trigger) (fires : Bool) : State :=
  { s with triggers := s.triggers.map fun x => if x.id = t.id then { x with fate := some fires } else x }

/-- The ERR 6 that a trigger gives to the milestone of its template (13 R265). -/
def Trigger.fail (t : Trigger) (tmpl : Option (List Byte)) : List Todo :=
  match tmpl with
  | none => []
  | some e => if tmplMs e = 0 then [] else [.upd t.ctx t.task (.ref t.cluster (tmplMs e)) (.fail 6)]

/-- A trigger's start (13 R265). -/
def State.fireTrigger (s : State) (t : Trigger) : State × List Todo :=
  let tmpl := match s.ctx? t.ctx with | none => none | some c => c.template? t.idx
  let bad : State × List Todo := (s.reportCtx t.ctx (discardReport t.ctx 5 t.task t.loc.report), t.fail tmpl)
  match tmpl with
  | none => bad
  | some e =>
    if tmplRemote e then bad
    else
      let (id, s1) := s.fresh
      (s1.offer { id, ctx := t.ctx, gid := none, task := t.task, cluster := t.cluster, channel := t.channel, idx := t.idx
                  tmpl := e, param := t.param, vectorOnly := t.vectorOnly, remote := none, st := .queued }, [])

/-- An update waits for its page to be filled or to have moved, or for a fence to be lifted (13 R250; 11 R192, R197; 19
R347). -/
def State.defer (s : State) (ctx : Nat) (task : W64) (cluster : Nat) (ref : W64) (upd : MsUpd) (hold : Hold) : State :=
  { s with late := s.late ++ [{ ctx, task, cluster, ref, upd, hold }] }

/-- One thing, and what follows it. -/
def State.doTodo (s : State) : Todo → State × List Todo
  | .upd ctx task t u =>
    match t with
    | .loc l => s.update ctx task l u
    | .ref cl r =>
      match s.mref ctx cl r with
      | .ok l =>
        if s.locUnreached cl l then (s.defer ctx task cl r u { page := s.waitPage l, fill := false }, []) else s.update ctx task l u
      | .miss ms =>
        match ms with
        | (.page p, m) :: _ =>
          ((s.reportCtx ctx (missingReport ctx (.page p) m 0)).defer ctx task cl r u { page := p, fill := true }, [])
        | _ => (s, [])
      | .trap _ => (s.reportCtx ctx (discardReport ctx 3 task (s.refIa ctx r)), [])
  | .tag site n => (s.setTag site n, [])
  | .fire t =>
    if s.fenced (unitCode t.cluster 13 0) then (s.markTrigger t true, [])
    else if s.triggers.any fun x => x.id = t.id then (s.dropTrigger t).fireTrigger t
    else (s, [])
  | .cancel t =>
    if s.fenced (unitCode t.cluster 13 0) then (s.markTrigger t false, [])
    else
    let tmpl := match s.ctx? t.ctx with | none => none | some c => c.template? t.idx
    if s.triggers.any fun x => x.id = t.id then (s.dropTrigger t, t.fail tmpl) else (s, [])
  | .join ctx a => (s.joinLaunch ctx a, [])
  | .joinErr ctx a => (s.reportCtx ctx (discardReport ctx 4 0 (s.recordIa ctx a)), [])

/-- Does a list of things in order, what each brings with it before the rest. The fuel bounds the futures of a chain;
every link of one is another future (DESIGN CHOICE, log 27). -/
def State.doAll : Nat → State → List Todo → State
  | 0, s, _ => s
  | _, s, [] => s
  | n + 1, s, x :: rest =>
    let (s1, more) := s.doTodo x
    State.doAll n s1 (more ++ rest)

def todoFuel : Nat := 2 ^ 64

/-- Does a list of things and tests the dependencies that wait. -/
def State.run (s : State) (xs : List Todo) : State := (State.doAll todoFuel s xs).testDeps

/-- An update by an engine at a reference. -/
def State.updRef (s : State) (ctx : Nat) (task : W64) (cluster : Nat) (r : W64) (u : MsUpd) : State :=
  s.run [.upd ctx task (.ref cluster r) u]

/-- An update at a location. -/
def State.updLoc (s : State) (ctx : Nat) (task : W64) (l : Loc) (u : MsUpd) : State := s.run [.upd ctx task (.loc l) u]

/-- A change by an instruction of this chapter: the record written, then what follows. -/
def State.change (s : State) (ctx : Nat) (task : W64) (l : Loc) (m m2 : Ms) (flip : Bool) : State :=
  let s1 := s.putMs l m2 flip
  match l with
  | .img .. => s1
  | _ => s1.run (s1.follow ctx task l m m2 flip)

/-- What came of the entries of a trigger table while it was fenced. -/
def State.settleTriggers (s : State) (cluster : Nat) : State :=
  s.run ((s.triggers.filter fun t => t.cluster = cluster).filterMap fun t =>
    t.fate.map fun fires => if fires then .fire t else .cancel t)

/-- Once a fence has been lifted the updates that wait for no FILL are tried again, in order. -/
def State.retryAll (s : State) : State :=
  let (now, rest) := s.late.partition fun x => !x.hold.fill
  if now.isEmpty then s
  else { s with late := rest }.run (now.map fun (x : LateUpd) => Todo.upd x.ctx x.task (.ref x.cluster x.ref) x.upd)

/-- Teams of a context whose bound milestones can be read again note the PHASE that those had at the save (13 R255; DEDUCED, log
41). -/
def State.notePhases (s : State) (ctx : Nat) : State :=
  { s with teams := s.teams.map fun t =>
      if t.ctx ≠ ctx || t.share.isSome then t
      else { t with binds := t.binds.map fun b =>
        (b.1, b.2.1, b.2.2.1, b.2.2.2.or ((s.msOf ctx t.window b.2.2.1).map fun m => m.phase)) } }

/-- The updates that waited for a page are made, in order; those whose page is missing or moves still wait again. -/
def State.retryLate (s : State) (ctx : Nat) (hold : Hold) : State :=
  let (now, rest) := s.late.partition fun x => x.ctx = ctx && x.hold = hold
  let s1 : State := { s.notePhases ctx with late := rest }
  s1.run (now.map fun (x : LateUpd) =>
    Todo.upd x.ctx x.task (.ref x.cluster x.ref) (x.upd.known (s1.msOf x.ctx x.cluster x.ref)))

end Sys2Proof.Machine
end

