-- ==== Sys2Proof/Machine/Special.lean ====
section
/-! DEFINITION. The special registers and MOVS (07 R128 to R132). -/

namespace Sys2Proof.Machine

/-- %coreid (01 R15). -/
def coreidOf : Site → Nat
  | .core n => n
  | .cc c => 0xFFFF0000 + c

/-- %gdim (07 R130). -/
def gdimOf (sizes : List Nat) : Nat := sizes.zipIdx.foldl (fun a (n, i) => a + n * 2 ^ (6 * i)) 0

/-- The binding of a send-allowance slot (17 R306). -/
def Ctx.binding? (c : Ctx) (k : Nat) : Option Binding := (c.slots.find? fun b => b.1 = k).map (·.2)

/-- The allowance of a slot (17 R307): the least over its next hops of what they grant and is not owed, at most 4,095; an
unbound slot reads 0. -/
def Ctx.allowance (c : Ctx) (k : Nat) : Nat :=
  if (c.binding? k).isSome then ((c.credits.getD k []).map fun h => h.grant - h.owed).foldl min 4095 else 0

/-- The value that a special register reads for a group in a lane (07 R130). -/
def State.sreg (s : State) (g : Group) (r : SReg) (L : Nat) : Nat :=
  let c? := s.ctx? g.id.ctx
  let l? := s.launchOf g.id
  let lr (f : LRec → Nat) : Nat := match l? with | some l => f l.lrec | none => 0
  let place := match c? with | some c => s.places.getD c.part noPlace | none => noPlace
  let dmode := lr fun r => r.dmode.toNat
  let t := g.id.task.toNat % 2 ^ 32
  match r with
  | .laneid => L
  | .grpid => g.id.grp
  | .teamid => t
  | .taskid => g.id.task.toNat
  | .coreid => coreidOf g.site
  | .lcore => if lr (fun r => r.logical.toNat) = 1 then t % 1024 else 0xFFFFFFFF
  | .cyc => if dmode = 1 then g.ric.toNat else s.now % 2 ^ 64
  | .ric => g.ric.toNat
  | .dmode => dmode
  | .ftv => g.ftv.toNat
  | .depth => match l? with | some l => l.depth | none => 0
  | .ngrp => lr (·.groups)
  | .teamx => lr fun r => t % r.x
  | .teamy => lr fun r => t / r.x % r.y
  | .teamz => lr fun r => t / (r.x * r.y)
  | .serial => g.id.task.toNat / 2 ^ 32
  | .exm => g.exm.toNat
  | .win => g.v.length
  | .ctx => g.id.ctx
  | .tags => (s.tagsAt g.site).toNat
  | .tagclr => 0
  | .wft => g.wft.toNat
  | .sa k => match c? with | some c => c.allowance k.val | none => 0
  | .crd a => place.coord.getD a.val 0
  | .gdim => gdimOf place.sizes
  | .tcause => g.tcause.code
  | .tpc => g.tpc.toNat
  | .tmask => g.tmask.toNat
  | .prq => match c? with | some c => c.prq.toNat | none => 0
  | .pdl => match c? with | some c => if c.prq then (c.pdlAt - s.now) % 2 ^ 32 else 0 | none => 0
  | .tinfo => g.tinfo.toNat
  | .tlane => g.tlane.toNat
  | .qflags => match c? with | some c => c.scramble.toNat + 2 ^ 16 * c.qn | none => 0
  | .ftvmax => 1
  | .vshape => 1024

/-- Bits of a special register. -/
def sregBits (r : SReg) : Nat := if r.is64 then 64 else 32

def execMovsRead (h : Hdr) (r : SReg) (d : Opd) (s : State) : Out :=
  s.perLane (.movsRead h r d) d (sregBits r) false fun g _ L => s.sreg g r L

/-- The value that MOVS writes: of the lowest active lane, or once; none with no active lane (07 R129). -/
def movsVal (g : Group) (h : Hdr) (w : Nat) (a : Opd) : Option Nat := (lanesOf g h).head?.map fun L => rdN g h w a L

/-- A write of a special register: %exm and %wft can be written (07 R130). -/
def execMovsWrite (h : Hdr) (r : SReg) (a : Opd) (s : State) : Out :=
  s.compute (.movsWrite h r a) fun g h =>
    match movsVal g h 32 a with
    | none => g
    | some x =>
      match r with
      | .exm => { g with exm := BitVec.ofNat 32 x }
      | .wft => { g with wft := BitVec.ofNat 32 x }
      | _ => g

/-- Writing %tagclr clears the tags set in the value (07 R130). -/
def execTagclrWrite (h : Hdr) (a : Opd) (s : State) : Out :=
  s.issue (.tagclrWrite h a) fun g h =>
    let s1 := s.retire g h
    match movsVal g h 64 a with
    | none => .next s1
    | some x => .next (s1.setTags g.site (s1.tagsAt g.site &&& ~~~(BitVec.ofNat 64 x)))

end Sys2Proof.Machine
end

