-- ==== Sys2Proof/Machine/Control.lean ====
section
/-! DEFINITION. Control: transfers, ends, barriers, waits, traps (07 R107 to R120; 05 R84 to R91). -/

namespace Sys2Proof.Machine

/-- NOP only retires (07 R110). -/
def execNop (h : Hdr) (s : State) : Out := s.compute (.nop h) fun g _ => g

/-! Transfers. -/

/-- A target: a signed offset in words, or an absolute address in a g register (07 R107). -/
def targetOf (g : Group) (h : Hdr) (t : Opd) : W64 :=
  match t with
  | .g _ => rd64 g h t
  | _ => g.at_ + 8 * rd64 g h t

/-- The address of the word after an instruction and its literal. -/
def nextOf (g : Group) (h : Hdr) : W64 := g.at_ + BitVec.ofNat 64 (8 * h.len)

/-- A fetched signpost is uncorrectable: UNCORR with its address in %tpc, the group standing at an arrival there (05 R84, 07
R119, 19 R348; DEDUCED, log 32). -/
def State.trapWord (s : State) (g : Group) (a : W64) : State :=
  s.trapAt ({ g with pc := a, block := none }.endLeg s.now) a (a + 8) none [] { cause := .uncorr }

/-- A divergent BRA (05 R89): the RECONV signpost, then the target, then the two pushes. DEDUCED, logs 32 and 48. -/
def State.diverge (s : State) (g : Group) (h : Hdr) (a : W64) (T : W32) : State :=
  match g.block with
  | none => s.trap g h { cause := .brt }
  | some b =>
    let x := b.addr + spReconv b.word
    if spReconv b.word = 0 then s.trap g h { cause := .brt }
    else match s.target g.id x with
      | .bad => s.trap g h { cause := .brt }
      | .miss ms => s.missing g ms
      | .wait => s
      | .uncorr => s.trapWord g x
      | .ok w =>
        if !spRcv w then s.trap g h { cause := .brt }
        else match s.target g.id a with
          | .bad => s.trap g h { cause := .brt }
          | .miss ms => s.missing g ms
          | .wait => s
          | _ =>
            match s.pushRc g
              [{ addr := x, mask := g.exm, path := false }, { addr := nextOf g h, mask := g.exm &&& ~~~T, path := true }] with
            | none => s.trap g h { cause := .rstack }
            | some (s1, g1) => if s.pushWaits g 2 then s else s1.transfer g1 h a (fun _ => true) fun g => { g with exm := T }

/-- BRA (07 R108). -/
def execBra (h : Hdr) (t : Opd) (s : State) : Out :=
  s.issue (.bra h t) fun g h =>
    let T := maskOf (lanesOf g h)
    if T = 0 then .next (s.retire g h)
    else if T = g.exm then .next (s.transfer g h (targetOf g h t) (fun _ => true) id)
    else .next (s.diverge g h (targetOf g h t) T)

/-- A transfer that is made once per group (07 R109). -/
def State.goto (s : State) (i : Instr) (t : Opd) (need : W64 → Bool) (done : Group → Hdr → Group) : Out :=
  s.issue i fun g h => .next (s.transfer g h (targetOf g h t) need fun g => done g h)

def execBrg (h : Hdr) (t : Opd) (s : State) : Out := s.goto (.brg h t) t (fun _ => true) fun g _ => g

def execJmp (h : Hdr) (t : Opd) (s : State) : Out := s.goto (.jmp h t) t (fun _ => true) fun g _ => g

/-- CALL writes its link only when the target check passes (07 R109). -/
def execCall (h : Hdr) (d t : Opd) (s : State) : Out :=
  s.goto (.call h d t) t spEntry fun g h => match d with | .g n => g.putG n.val (nextOf g h) | _ => g

def execRet (h : Hdr) (a : Opd) (s : State) : Out := s.goto (.ret h a) a (fun _ => true) fun g _ => g

/-- LOOP (07 R109). -/
def execLoop (h : Hdr) (d t : Opd) (s : State) : Out :=
  s.issue (.loop h d t) fun g h =>
    let n := rd64 g h d - 1
    let put (g : Group) : Group := match d with | .g r => g.putG r.val n | _ => g
    if n = 0 then .next (s.retire (put g) h) else .next (s.transfer g h (targetOf g h t) spLoop put)

/-! Exits (07 R111, R112). -/

/-- Masks every spilled entry of the group's stack. -/
def State.maskSpill (s : State) (g : Group) (keep : W32) : State :=
  match s.ctx? g.id.ctx, g.area with
  | some c, some a =>
    { s with mem := (List.range (g.spill - g.spillBase)).foldl (fun m j =>
        let p := c.spillAddr a (g.spillBase + j)
        let e := RcEntry.ofBytes (cellRead m p 16)
        cellWrite m p { e with mask := e.mask &&& keep }.bytes) s.mem }
  | _, _ => s

/-- Pops entries while no lane is left; none popped answers no address. -/
def State.popExit (s : State) (g : Group) (popped : Option W64) : Nat → Group × Option W64
  | 0 => (g, popped)
  | n + 1 =>
    if g.exm ≠ 0 then (g, popped)
    else match g.stack with
      | [] => (g, popped)
      | e :: _ => State.popExit s { s.popRc g with exm := e.mask } (some e.addr) n

/-- The group has exited: its stack and spill area go, and it counts as arriving at its siblings' barriers. -/
def State.exitGroup (s : State) (g : Group) : State :=
  let g1 := { g with st := .exited, ric := g.ric + 1, stack := [], area := none, spill := 0, block := none, pend := [], reissue := []
                     o := emptyO, l := emptyL, legPos := 0, since := s.now }
  (s.setGroup g1).releaseBars g.id.ctx g.id.task

/-- EXIT: the active lanes end (07 R111). -/
def execExit (h : Hdr) (s : State) : Out :=
  s.issue (.exit h) fun g h =>
    let keep := ~~~(maskOf (lanesOf g h))
    let s1 := s.maskSpill g keep
    let g1 := { g with exm := g.exm &&& keep, stack := g.stack.map fun e => { e with mask := e.mask &&& keep } }
    let (g2, popped) := s1.popExit g1 none (g1.stack.length + g1.spill)
    if g2.exm = 0 then .next (s1.exitGroup g2)
    else match popped with
      | none => .next (s1.retire g2 h)
      | some a => .next (s1.setGroup ({ g2 with pc := a, block := none, ric := g2.ric + 1 }.endLeg s1.now))

/-- EXIT.g ends the group (07 R111). -/
def execExitG (h : Hdr) (s : State) : Out := s.issue (.exitG h) fun g _ => .next (s.exitGroup g)

/-- Matrix steps that a group has issued and that have not finished. -/
def State.stepsOf (s : State) (id : GroupId) : Bool := s.anyStep fun t => t.gid = id

/-- HALT waits for the group's matrix steps, then ends it (07 R112). -/
def execHalt (h : Hdr) (s : State) : Out :=
  s.issue (.halt h) fun g _ => if s.stepsOf g.id then .next s else .next (s.exitGroup g)

/-! Barriers and yield (07 R113, R114). -/

/-- BAR: the group arrives and parks; the last arrival releases all. Its accesses are performed first, those that a unit or a
destination of the fabric has still to make too (DEDUCED, log 4). -/
def execBar (h : Hdr) (n : Opd) (s : State) : Out :=
  s.issue (.bar h n) fun g h =>
    let k := rd32 g h n
    let g1 : Group := { g with st := .parked (.bar k), since := s.now, probeAt := s.now + g.wft.toNat, seq := s.tick
                               ilen := h.len, ie := h.e }
    if s.readsDue g.id then .next s
    else .next ((((s.setGroup g1).releaseBar g.id.ctx g.id.task k).trySave g.id).settleRegs g.site)

/-- The registers that YIELD keeps, with their marks; the rest read 0 and full (05 R87, 19 R339, R348). -/
def Group.keepLive (g : Group) (live : Nat) : Group :=
  { g with
    v := g.v.take (4 * live) ++ List.replicate (g.v.length - 4 * live) zeroRow
    full := List.replicate g.v.length true
    bad := g.inWindow (4 * live) }

/-- YIELD: a fall-through arrival, or a save of the group (07 R114; 19 R340, R341). -/
def execYield (h : Hdr) (s : State) : Out :=
  s.issue (.yield h) fun g h =>
    let prq := match s.ctx? g.id.ctx with | some c => c.prq | none => false
    if !prq || g.tmask then .next (s.retire g h)
    else if !s.quiet g.id then .next s
    else
      let live := match s.codeWord g.id (nextOf g h) with | .ok bs => spLive (wordOf bs) | _ => 128
      let g1 := ((g.retire h.len true s.now).keepLive live).save
      .next ((s.setGroup g1).settleRegs g.site)

/-! Waits (07 R115 to R117). -/

/-- WAIT.any and WAIT.all: complete, trap on an erred milestone, or park (07 R115; 13 R251). -/
def State.tagWait (s : State) (i : Instr) (mask : Opd) (w : W64 → Park) : Out :=
  s.issue i fun g h =>
    let m := rd64 g h mask
    if m = 0 || (w m).tagsHold (s.tagsAt g.site) then
      let (g1, tags) := g.takeTags (s.tagsAt g.site) (w m)
      .next (((s.setTags g.site tags).retire g1 h).acquire g.site .job)
    else match s.tagErr g.site m with
      | some r => .next (s.trap g h { cause := .mserr, info := r })
      | none => .next (s.park g h (w m))

def execWaitAny (h : Hdr) (c : Bool) (d m : Opd) (s : State) : Out :=
  s.tagWait (.waitAny h c d m) m fun x => .waitAny x c d

def execWaitAll (h : Hdr) (c : Bool) (m : Opd) (s : State) : Out :=
  s.tagWait (.waitAll h c m) m fun x => .waitAll x c

/-- An access of a group to a milestone waits: for its page or a unit, or for an ordered contribution of the group that comes first
(07 R144; 11 R197; 19 R347). -/
def State.msWaits (s : State) (g : Group) (l : Loc) : Bool :=
  s.locUnreached g.site.cluster l || s.cellDue g.id (s.locSpan l).pieces

/-- A milestone instruction: its reference checked under 13 R244, its page present and not moving. -/
def State.withMs (s : State) (g : Group) (h : Hdr) (r : W64) (k : State → Loc → Out) : Out :=
  match s.mref g.id.ctx g.site.cluster r with
  | .trap c => .next (s.trap g h { cause := c, info := r })
  | .miss ms => .next (s.missing g ms)
  | .ok l => if s.msWaits g l then .next s else k s l

/-- The line request of a group's access to a milestone (11 R196, 13 R246). -/
def State.askMs (s : State) (g : Group) (l : Loc) : State :=
  match s.ctx? g.id.ctx with
  | none => s
  | some c => (linesIn (s.locSpan l).pieces).foldl (fun s x => s.request c g.site.cluster x.1 x.2) s

/-- The milestone that an instruction reads; uncorrectable bytes trap (13 R246). -/
def State.withRead (s : State) (g : Group) (h : Hdr) (l : Loc) (k : State → Ms → Out) : Out :=
  if s.locBad l 64 then .next (s.trap g h { cause := .uncorr })
  else match s.ms? l with
    | none => .next s
    | some m => k (s.askMs g l) m

/-- WAIT.ms (07 R116). -/
def execWaitMs (h : Hdr) (a ph : Opd) (s : State) : Out :=
  s.issue (.waitMs h a ph) fun g h =>
    let r := rd64 g h a
    let p := rdN g h 16 ph 0
    s.withMs g h r fun s l =>
      s.withRead g h l fun s m =>
        if m.err ≠ 0 then .next (s.trap g h { cause := .mserr, info := r })
        else if reached m.phase p then .next ((s.retire g h).acquire g.site .job)
        else .next (s.park g h (.waitMs r p))

/-- FFR (07 R117). -/
def execFfr (h : Hdr) (c : Bool) (d m : Opd) (s : State) : Out :=
  s.issue (.ffr h c d m) fun g h =>
    let tags := s.tagsAt g.site
    let n := lowBit (tags &&& rd64 g h m)
    let g1 := match d with | .g r => g.putG r.val (BitVec.ofNat 64 n) | _ => g
    if n = 64 then .next (s.retire g1 h)
    else
      let s1 := if c then s.setTags g.site (tags &&& ~~~(bit64 n)) else s
      .next ((s1.retire g1 h).acquire g.site .job)

/-! Traps raised and ended by the program (07 R118 to R120). -/

/-- TRAP (07 R118). -/
def State.software (s : State) (i : Instr) (code : Opd) (cause : Cause) : Out :=
  s.issue i fun g h =>
    match lanesOf g h with
    | [] => .next (s.retire g h)
    | L :: ls =>
      .next (s.trap g h { cause, info := BitVec.ofNat 64 (rdN g h 64 code L), lanes := tlaneOf h (L :: ls) })

def execTrapSys (h : Hdr) (code : Opd) (s : State) : Out := s.software (.trapSys h code) code .sys

def execTrapBrk (h : Hdr) (code : Opd) (s : State) : Out := s.software (.trapBrk h code) code .brk

/-- What TRAPRET restores from the trap save (07 R119). -/
def Group.restore (g : Group) (t : TrapSave) (now : Nat) : Group :=
  { g with
    exm := t.exm, stack := t.stack, spill := t.spill, o := t.o, l := t.l, legPos := t.legPos, block := t.block
    tmask := false, tsave := none, ric := g.ric + 1, st := .ready, since := now, pend := t.pend ++ g.pend
    reissue := t.reissue, bad := (g.bad.filter fun x => !isO x) ++ t.bad }

/-- TRAPRET (07 R119): back to the instruction at %tpc, or on past it, which is past a group's start too (05 R84). -/
def Group.trapret (g : Group) (t : TrapSave) (next : Bool) (now : Nat) : Group :=
  let g1 := { g.restore t now with started := g.started || next }
  match t.resume, next with
  | some r, true => { g1 with pc := r }
  | some r, false => { g1 with pc := r, reissue := g.tpc :: t.reissue }
  | none, false => { g1 with pc := g.tpc }
  | none, true =>
    match t.block with
    | none => { g1 with pc := t.next }
    | some b =>
      let g2 := { g1 with pc := t.next, legPos := t.legPos + 1, block := if t.next = b.stop then none else t.block }
      if t.e || t.next = b.stop then g2.endLeg now else g2

def State.leaveHandler (s : State) (i : Instr) (next : Bool) : Out :=
  s.issue i fun g h =>
    match g.tmask, g.tsave with
    | true, some t => .next (s.setGroup (g.trapret t next s.now))
    | _, _ => .next (s.trap g h { cause := .ill })

def execTrapretSame (h : Hdr) (s : State) : Out := s.leaveHandler (.trapretSame h) false

def execTrapretNext (h : Hdr) (s : State) : Out := s.leaveHandler (.trapretNext h) true

/-- ABORT ends the team (07 R120). Outside a handler its report has its own address, and the information and lanes of the group's last
trap; it lists no hops, in a handler of DEADLOCK either (DESIGN CHOICE, log 123). -/
def execAbort (h : Hdr) (s : State) : Out :=
  s.issue (.abort h) fun g _ =>
    let t : Trap := { cause := if g.tmask then g.tcause else .none, info := g.tinfo, lanes := g.tlane }
    .next (s.endTeam g.id.ctx g.id.task (trapRecord 1 g.id t (if g.tmask then g.tpc else g.at_) []))

end Sys2Proof.Machine
end

