-- ==== Sys2Proof/Machine/Ember.lean ====
section
/-! DEFINITION. Ember lines: shares, eviction, and room for a new line (11 R216 to R219; 01 R14). -/

namespace Sys2Proof.Machine

/-- Lines of a slice: 4 MiB of 64 bytes (01 R14). -/
def sliceLines : Nat := 65536

/-- The slice that holds an ember line. -/
def State.emberSlice (s : State) (e : Ember) : Nat := s.slice e.cluster e.line

/-- A context's lines in each slice of a cluster that are never evicted (11 R217). -/
def State.emberShare (s : State) (ctx cluster : Nat) : Nat :=
  match s.ctx? ctx with
  | none => 0
  | some c => (c.ember.getD (s.posOf cluster) 0 + 63) / 64

/-- The line lies beyond its context's share of its slice. -/
def State.beyond (s : State) (e : Ember) : Bool :=
  s.emberShare e.ctx e.cluster
    < (s.ember.filter fun x => x.ctx = e.ctx && x.cluster = e.cluster && s.emberSlice x = s.emberSlice e).length

def State.dropEmber (s : State) (ctx line : Nat) : State :=
  { s with ember := s.ember.filter fun e => !(e.ctx = ctx && e.line = line) }

/-- Takes a late frame for a page that has none: the frame reads as zero where no line is written (DEDUCED, log 28). -/
def State.takeLate (s : State) (c : Ctx) (l : Leaf) : Option (Leaf × State) :=
  if l.late then some (l, s)
  else match s.takeFrame c emberPool with
    | none => none
    | some (f, s1) =>
      let l1 := { l with frame := f, late := true }
      some (l1, (s1.writeMem f (List.replicate 65536 0)).writeLeaf l1)

/-- Writes a line to its late frame and drops it; none when a frame is needed and the ember backing pool is empty, or
the page is not present (11 R218). -/
def State.evictEmber (s : State) (e : Ember) : Option State :=
  match s.ctx? e.ctx with
  | none => none
  | some c =>
    match s.walk c e.line with
    | .missing _ => none
    | .ok l =>
      match s.takeLate c l with
      | none => none
      | some (l1, s1) =>
        some (((s1.writeMem (l1.frame + e.line % 65536) e.bytes).spoilMem
          (e.bad.map fun w => w - e.line / 8 + (l1.frame + e.line % 65536) / 8)).dropEmber e.ctx e.line)

/-- A line must leave, not for a team's access: it does, or it stays and the empty pool is reported (11 R219). -/
def State.leaveEmber (s : State) (e : Ember) : State :=
  match s.evictEmber e with
  | some s1 => s1
  | none => s.reportCtx e.ctx (missingReport e.ctx .ember false 0)

/-- Ember and version lines of a slice. -/
def State.sliceUse (s : State) (cluster slice : Nat) : Nat :=
  (s.ember.filter fun e => e.cluster = cluster && s.emberSlice e = slice).length
    + (s.vlines.filter fun v => s.homeOf v.ctx v.line = (cluster, slice)).length

/-- The line may leave when its slice needs the space: it lies beyond its context's share, or its context is switched out
(11 R217, R218). -/
def State.mayLeave (s : State) (e : Ember) : Bool :=
  s.beyond e || match s.ctx? e.ctx with | some c => c.st = .saved | none => true

/-- A line cannot be written to its late frame yet: its page moves, or a unit on the way is fenced (11 R197; 19 R347). -/
def State.evictWaits (s : State) (e : Ember) : Bool :=
  match s.ctx? e.ctx with
  | none => false
  | some c =>
    s.walkWaits c e.line || match s.walk c e.line with
      | .missing _ => false
      | .ok l => s.lineWaits e.ctx e.line l || (!l.late && s.poolFenced c l.home emberPool)

/-- What making room comes to: done, or the context of the line that cannot leave because its backing pool is empty. -/
inductive Room where
  | ok (s : State)
  | empty (owner : Nat)

/-- A line of a slice leaves for a new one: the first that can, those of the context itself before others (DEDUCED, log 90).
A slice without a line that may leave holds the new one beside its 4 MiB. -/
def State.freeLine (s : State) (ctx cluster slice : Nat) : Room :=
  let all := s.ember.filter fun e => e.cluster = cluster && s.emberSlice e = slice && s.mayLeave e && !s.evictWaits e
  let (own, others) := all.partition fun e => e.ctx = ctx
  match (own ++ others).findSome? s.evictEmber, (own ++ others).head? with
  | some s1, _ => .ok s1
  | none, none => .ok s
  | none, some e => .empty e.ctx

/-- Makes room for the line that an access of a context to a page of kind E allocates (11 R216, R219). -/
def State.emberRoom (s : State) (ctx ia : Nat) (lf : Leaf) : Room :=
  if lf.kind ≠ 3 || (s.emberLine? ctx (lineOf ia)).isSome || s.sliceUse lf.home (s.slice lf.home ia) < sliceLines then .ok s
  else s.freeLine ctx lf.home (s.slice lf.home ia)

/-- Room for the line of each piece. -/
def State.roomFor (s : State) (ctx : Nat) : List Piece → Room
  | [] => .ok s
  | p :: rest =>
    match s.emberRoom ctx p.ia p.leaf with
    | .empty owner => .empty owner
    | .ok s1 => State.roomFor s1 ctx rest

/-- The backing pool of another context, whose line cannot leave, is reported for it; the one who needs the room waits for a FILL
of its own pool (11 R219; 21 R355; DEDUCED, log 90). -/
def State.otherPool (s : State) (ctx owner : Nat) : State :=
  if owner = ctx then s else s.reportCtx owner (missingReport owner .ember false 0)

end Sys2Proof.Machine
end

