-- ==== Sys2Proof/Machine/LoadStore.lean ====
section
/-! DEFINITION. LD, ST with the aperture, FENCE, PREF and CMAINT (07 R140 to R146; 11 R211 to R213; 13 R256, R257). -/

namespace Sys2Proof.Machine

/-- The lanes of an instruction with their addresses. -/
def laneAddrs (g : Group) (h : Hdr) (a b : Opd) : List (Nat × W64) := (lanesOf g h).map fun L => (L, addrOf g h a b L)

/-- The checks of 07 R143, then the access; `lost` says what a missing page leads to. -/
def State.withChecked (s : State) (g : Group) (h : Hdr) (sp : Space) (k : AKind) (align w : Nat)
    (addrs : List (Nat × W64)) (next : List (Nat × W64 × ATgt) → Out)
    (lost : List (Miss × Bool) → Out := fun ms => .next (s.missing g ms)) : Out :=
  match s.checkLanes g h sp k align w addrs with
  | .trap t => .next (s.trap g h t)
  | .miss ms => lost ms
  | .wait => .next s
  | .ok accs => next accs

/-- Where the access of one lane of a store or an atomic is made, and in which state: a shared row of a remap window has been
resolved and a new ember line has room (11 R204, R219, R226). -/
inductive Placed where
  | prot
  | miss (ms : List (Miss × Bool))
  /-- a line of this context cannot leave -/
  | full (owner : Nat)
  | wait
  | ok (s : State) (t : ATgt)

/-- A resolved address has room for its line; the page is walked again, as a line that left may have taken its late frame. -/
def State.placeRoom (s : State) (g : Group) (sp : Space) (k : AKind) (w : Nat) (va : W64) (t : ATgt) : Placed :=
  match t with
  | .pub ps _ =>
    match s.roomFor g.id.ctx ps with
    | .empty owner => .full owner
    | .ok s1 => match s1.resolve g sp k w va with | .ok t1 => .ok s1 t1 | _ => .wait
  | _ => .ok s t

/-- The place of one lane's access as memory stands when it is made. -/
def State.place1 (s : State) (g : Group) (sp : Space) (k : AKind) (w : Nat) (va : W64) : Placed :=
  let placed (s : State) : Placed :=
    match s.resolve g sp k w va with
    | .prot => .prot
    | .miss ms => .miss ms
    | .wait | .held => .wait
    | .ok t => s.placeRoom g sp k w va t
  match s.resolve g sp k w va, s.ctx? g.id.ctx with
  | .ok (.pub _ (some (d, row, e))), some c =>
    if bitsN e 49 49 = 0 then placed s
    else match s.cow c g.site.cluster d row e with
      | .prot => .prot
      | .miss ms => .miss ms
      | .wait => .wait
      | .ok s1 => placed s1
  | _, _ => placed s

/-- What the accesses of a store or an atomic come to: a trap, what is missing with the contexts whose backing pools are empty, a
wait, or what each lane answers, with its place, and the state after all of them. -/
inductive Made where
  | trap (t : Trap)
  | miss (ms : List (Miss × Bool)) (owners : List Nat)
  | wait
  | ok (xs : List (ATgt × Nat × Nat)) (s : State)

/-- What a lane comes to at its place: the version's spill area is full, or cannot be reached, or the lane answers a number with
the state after it. -/
inductive Did where
  | vovf
  | wait
  | ok (x : Nat) (s : State)

/-- What a lane does at its place. -/
abbrev LaneFn := Nat → ATgt → State → Did

/-- A lane that fails beside what the lanes after it come to: the protection failures of all lanes, else all that is missing (11
R192), else a wait, else VOVF (DEDUCED, log 78). -/
def Made.beside (a b : Made) : Made :=
  match a, b with
  | .trap x, .trap y =>
    if x.cause = .prot && y.cause = .prot then .trap { x with lanes := x.lanes ||| y.lanes }
    else if y.cause = .prot then .trap y
    else .trap x
  | .trap x, .ok .. => .trap x
  | .trap x, r => if x.cause = .prot then .trap x else r
  | r, .trap y => if y.cause = .prot then .trap y else r
  | .miss x o, .miss y p => .miss (distinctMiss (x ++ y)) (o ++ p).dedup
  | .miss x o, _ => .miss x o
  | _, .miss y p => .miss y p
  | r, _ => r

/-- The lanes in order, each on memory as the lanes before it left it (11 R204, R226). Each answer comes with its lane; a lane that
fails leaves memory to the next as it found it. -/
def State.eachLane (s : State) (g : Group) (h : Hdr) (sp : Space) (k : AKind) (w : Nat) (act : LaneFn) : List (Nat × W64) → Made
  | [] => .ok [] s
  | (L, va) :: rest =>
    let fails (m : Made) : Made := m.beside (State.eachLane s g h sp k w act rest)
    match s.place1 g sp k w va with
    | .prot => fails (.trap { cause := .prot, info := va, lanes := tlaneOf h [L] })
    | .miss ms => fails (.miss ms [])
    | .full owner => fails (.miss [(.ember, false)] [owner])
    | .wait => fails .wait
    | .ok s1 t =>
      match act L t s1 with
      | .vovf => fails (.trap { cause := .vovf })
      | .wait => fails .wait
      | .ok x s2 =>
        match State.eachLane s2 g h sp k w act rest with
        | .ok xs s3 => .ok ((t, L, x) :: xs) s3
        | r => r

/-- The accesses of a store or an atomic, under the checks of 07 R143. -/
def State.made (s : State) (g : Group) (h : Hdr) (sp : Space) (k : AKind) (align w : Nat) (addrs : List (Nat × W64))
    (act : LaneFn) : Made :=
  match s.checkLanes g h sp k align w addrs with
  | .trap t => .trap t
  | .wait => .wait
  | _ => s.eachLane g h sp k w act addrs

/-- The trap that accesses end in. -/
def Made.trap? : Made → Option Trap
  | .trap t => some t
  | _ => none

/-- What accesses lead to that were made from the state `s` of an instruction that issued at `s0`: a trap leaves `s0`, and with
any other failure no lane has made its access; the home clusters have been asked for the lines of those that are made (11 R196). -/
def Made.out (m : Made) (s0 s : State) (g : Group) (h : Hdr) (next : List (Nat × Nat) → State → Out) : Out :=
  match m with
  | .trap t => .next (s0.trap g h t)
  | .miss ms owners => .next ((owners.foldl (fun s o => s.otherPool g.id.ctx o) s).missing g ms)
  | .wait => .next s
  | .ok xs s1 => next (xs.map (·.2)) (s1.askLines g (xs.map (·.1)))

/-- A release at a scope: it publishes at .core or wider (where `pub` says so), waits until the group's earlier accesses are
performed, and goes on (07 R145; 03 R51, R364; 11 R209, R211; 12 R239). `early` says how the instruction ends otherwise, judged on
memory as the publish leaves it: it then publishes nothing (00 R8). -/
def State.withRelease (s : State) (g : Group) (scope : Scope) (next : State → Out) (pub : Bool := true)
    (early : State → Option Out := fun _ => none) : Out :=
  let wide := pub && 2 ≤ scope.code
  let (s1, ms) := if wide then s.publish g.id.ctx g.id.task else (s, [])
  if !ms.isEmpty then .next (s1.missing g ms)
  else if wide && !s1.published g.id.ctx g.id.task then .next s1
  else match early s1 with
    | some out => out
    | none => if s1.relReady g.id scope then next s1 else .next s1

/-- Reads every lane, with the lanes whose data is uncorrectable. -/
def State.readLanes (s : State) (g : Group) (w : Nat) : List (Nat × W64 × ATgt) → List (Nat × W64) × List Nat
  | [] => ([], [])
  | (L, _, t) :: rest =>
    let (bs, bad) := s.accRead g t w
    let (vals, bads) := State.readLanes s g w rest
    ((L, BitVec.ofNat 64 (leNat bs)) :: vals, if bad then L :: bads else bads)

/-- A loaded pattern as its destination receives it (05 R70). -/
def landed (h : Hdr) (ty : Ty) (x : W64) : W64 :=
  BitVec.ofNat 64 (extend ty.isSigned ty.bits (if h.g || ty.bits = 64 then 64 else 32) x.toNat)

/-- LD (07 R140 to R146). DEDUCED, log 4. One with no active lane acquires nothing (DESIGN CHOICE, log 129). -/
def execLd (h : Hdr) (ord : Order) (sp : Space) (ty : Ty) (d a b : Opd) (scope : Scope) (s : State) : Out :=
  s.issue (.ld h ord sp ty d a b scope) fun g h =>
    let addrs := laneAddrs g h a b
    let w := ty.bits / 8
    if addrs.isEmpty then .next (s.retire g h)
    else s.withChecked g h sp .load w w addrs fun accs =>
      let (vals, bads) := s.readLanes g w accs
      let s2 := (s.touchLines g (accs.map (·.2.2))).addLoad g h (ldst d ty.regs) (.mem (vals.map fun x => (x.1, landed h ty x.2)) (tlaneIf h bads))
      .next (if ord = .acq then s2.acquire g.site scope else s2)

/-! Aperture stores (13 R256). -/

/-- The fields of an aperture offset and of its data word. -/
def apChannel (off : Nat) : Nat := bitsN off 19 14
def apCmd (off : Nat) : Nat := bitsN off 13 3
def apParam (x : W64) : W32 := x.extractLsb' 16 32
def apIndex (x : W64) : Nat := x.toNat % 2 ^ 16

/-- The checks of 13 R256 over the lanes: the first condition that any lane meets. -/
def apertureTrap (c : Ctx) (h : Hdr) (xs : List (Nat × W64 × Nat × W64)) : Option Trap :=
  let cmd := xs.filter fun x => apCmd x.2.2.1 ≠ 0
  let tmpl := xs.filter fun x =>
    let v := x.2.2.2
    2 ^ 48 ≤ v.toNat || 4096 ≤ apIndex v
      || (match c.template? (apIndex v) with | none => true | some t => tmplRemote t)
  match cmd, tmpl with
  | (_, va, _) :: _, _ => some { cause := .prot, info := va, lanes := tlaneOf h (cmd.map (·.1)) }
  | [], _ :: _ => some { cause := .tmpl, lanes := tlaneOf h (tmpl.map (·.1)) }
  | [], [] => none

/-- The aperture accesses of a store: lane, address, offset and data. -/
def aperturesOf (g : Group) (h : Hdr) (ty : Ty) (d : Opd) (accs : List (Nat × W64 × ATgt)) : List (Nat × W64 × Nat × W64) :=
  accs.filterMap fun x =>
    match x.2.2 with | .aperture off => some (x.1, x.2.1, off, BitVec.ofNat 64 (rd g h ty d x.1)) | _ => none

/-- The trap that the aperture accesses of a store raise. -/
def State.apertureCheck (s : State) (g : Group) (h : Hdr) (ty : Ty) (d : Opd) (accs : List (Nat × W64 × ATgt)) : Option Trap :=
  match s.ctx? g.id.ctx with
  | none => none
  | some c => apertureTrap c h (aperturesOf g h ty d accs)

/-- The launch of a group is VECTOR-ONLY (03 R33). -/
def State.vectorOnly (s : State) (id : GroupId) : Bool := match s.launchOf id with | some l => l.lrec.vectorOnly | none => false

/-- Earlier accesses of the group that an aperture start or a trigger entry waits for (12 R237). -/
def State.startWaits (s : State) (id : GroupId) : Bool := s.readsDue id || s.orderedDue id

/-- A start by an aperture store. -/
def State.apertureStart (s : State) (g : Group) (off : Nat) (x : W64) : State :=
  let (id, s1) := s.fresh
  s1.offer { id, ctx := g.id.ctx, gid := some g.id, task := g.id.task, cluster := g.site.cluster, channel := apChannel off
             idx := apIndex x
             tmpl := (match s.ctx? g.id.ctx with | none => [] | some c => (c.template? (apIndex x)).getD [])
             param := apParam x, vectorOnly := s.vectorOnly g.id, remote := none, st := .queued }

/-- Stores the bytes of pieces: to ember lines, as a direct release store, or to the version. -/
def State.storePieces (s : State) (g : Group) (c : Ctx) (direct : Bool) : List Piece → List Byte → Did
  | [], _ => .ok 0 s
  | p :: rest, bs =>
    let go (s1 : State) : Did := State.storePieces s1 g c direct rest (bs.drop p.n)
    let x := bs.take p.n
    if p.leaf.kind = 3 then go (s.pubWrite p.leaf c.no p.ia x)
    else if direct then go (s.pubChange p.leaf c.no p.ia x fun l => .core l.core = g.site)
    else if s.versionWaits c g.id.task (lineOf p.ia) then .wait
    else match s.holdStore c g.id.task p.ia x with
      | none => .vovf
      | some s1 => go s1

/-- Stores one lane: to scratchpad, to memory, or as a start. -/
def State.storeLane (s : State) (g : Group) (direct : Bool) (t : ATgt) (bs : List Byte) : Did :=
  match t with
  | .scr cl off => .ok 0 (s.writeScratch cl off bs)
  | .aperture off => .ok 0 (s.apertureStart g off (BitVec.ofNat 64 (leNat bs)))
  | .pub ps _ =>
    match s.ctx? g.id.ctx with
    | none => .ok 0 s
    | some c => s.storePieces g c direct ps bs

/-- What a lane of a store does. DEDUCED, log 78. -/
def storeFn (g : Group) (h : Hdr) (ty : Ty) (d : Opd) (direct : Bool) : LaneFn := fun L t s =>
  s.storeLane g direct t (leBytes (ty.bits / 8) (rd g h ty d L))

/-- ST (07 R140 to R145). A release comes once every check of the store has passed, and before it copies shared rows. The bytes
of a release at .core or wider are written directly (R145). A release with no active lane publishes nothing and waits for nothing
(DESIGN CHOICE, log 129: 11 R204 says so of ATOM alone). -/
def execSt (h : Hdr) (ord : Order) (sp : Space) (ty : Ty) (d a b : Opd) (scope : Scope) (s : State) : Out :=
  s.issue (.st h ord sp ty d a b scope) fun g h =>
    let addrs := laneAddrs g h a b
    let w := ty.bits / 8
    let made (s1 : State) : Made := s1.made g h sp .store w w addrs (storeFn g h ty d (ord = .rel && 2 ≤ scope.code))
    let store (s1 : State) : Out := (made s1).out s s1 g h fun _ s2 => .next (s2.retire g h)
    if addrs.isEmpty then .next (s.retire g h)
    else s.withChecked g h sp .store w w addrs (lost := fun _ => store s) fun accs =>
      match s.apertureCheck g h ty d accs with
      | some t => .next (s.trap g h t)
      | none =>
        if !(aperturesOf g h ty d accs).isEmpty && s.startWaits g.id then .next s
        else if ord = .rel then
          s.withRelease g scope store (early := fun s1 => (made s1).trap?.map fun t => .next (s.trap g h t))
        else store s

/-- FENCE (11 R209, R211): a release publishes first; then the fence waits for what a unit or a destination of the fabric has
still to read for the group, and at .dev or wider for the acceptance of its ordered atomics. -/
def execFence (h : Hdr) (ord : Order) (scope : Scope) (s : State) : Out :=
  s.issue (.fence h ord scope) fun g h =>
    let acq (s : State) : State := if ord = .acq || ord = .ar then s.acquire g.site scope else s
    if ord = .rel || ord = .ar then s.withRelease g scope fun s1 => .next (acq (s1.retire g h))
    else if s.readsDue g.id || (4 ≤ scope.code && s.orderedDue g.id) then .next s
    else .next (acq (s.retire g h))

/-- Lines that PREF asks for: an address that is not a line's, or is uncovered, missing, or of a kind that the form skips, is
passed over, and so is every one of .l1 on a control core (11 R212; the alignment: DEDUCED, log 92). -/
def State.prefLine (s : State) (g : Group) (llc : Bool) (va : W64) : Option ATgt :=
  match s.resolve g .gl .load 64 va with
  | .ok (.pub ps row) =>
    if va.toNat % 64 ≠ 0 || (!llc && g.site.isCc) then none
    else some (.pub (ps.filter fun p => !(p.leaf.kind = 3 || (p.leaf.kind = 1 && !llc))) row)
  | _ => none

/-- PREF never traps beyond issue and never switches out (11 R212). -/
def execPref (h : Hdr) (llc : Bool) (a b : Opd) (s : State) : Out :=
  s.issue (.pref h llc a b) fun g h =>
    let ts := (laneAddrs g h a b).filterMap fun x => s.prefLine g llc x.2
    .next ((if llc then s.askLines g ts else s.touchLines g ts).retire g h)

/-- The lines of intermediate addresses that n bytes from a virtual address touch; uncovered and missing bytes are
skipped. -/
def State.linesOf (s : State) (c : Ctx) (cluster : Nat) (va : W64) (n : Nat) : List Nat :=
  (vaBlocks va n).flatMap fun x =>
    match (s.xlat c cluster x.1).ia? with | some ia => (cutLine ia x.2).map fun y => lineOf y.1 | none => []

/-- A descriptor or a row table on the way to these lines cannot be read yet (11 R197; 19 R347). -/
def State.linesWait (s : State) (c : Ctx) (cluster : Nat) (va : W64) (n : Nat) : Bool :=
  (vaBlocks va n).any fun x => s.xlat c cluster x.1 = .wait

/-- CMAINT.inv drops P and S lines of the core's own L1 (11 R213). -/
def execCmaintInv (h : Hdr) (a b : Opd) (s : State) : Out :=
  s.issue (.cmaintInv h a b) fun g h =>
    match s.ctx? g.id.ctx with
    | none => .next (s.retire g h)
    | some c =>
      let lines := s.linesOf c g.site.cluster (rd64 g h a) (rd64 g h b).toNat
      if s.linesWait c g.site.cluster (rd64 g h a) (rd64 g h b).toNat then .next s
      else .next ((s.retire g h).dropL1 fun l =>
        .core l.core = g.site && l.ctx = g.id.ctx && !l.coherent && lines.contains l.line)

def execCmaintInvall (h : Hdr) (s : State) : Out :=
  s.issue (.cmaintInvall h) fun g h => .next ((s.retire g h).dropL1 fun l => .core l.core = g.site && !l.coherent)

end Sys2Proof.Machine
end

