-- ==== Sys2Proof/Machine/Atomic.lean ====
section
/-! DEFINITION. ATOM, and ATOMO with its ordered cells (11 R201 to R210). -/

namespace Sys2Proof.Machine

/-- The operation of an atomic on w-bit patterns (11 R204); x of a cas holds cmp and new (R205). -/
def atomNew (fn : AtomFn) (ty : Ty) (old x : Nat) : Nat :=
  match fn with
  | .add => foldOp .add ty old x
  | .min => foldOp .min ty old x
  | .max => foldOp .max ty old x
  | .and => foldOp .and ty old x
  | .or => foldOp .or ty old x
  | .xor => foldOp .xor ty old x
  | .exch => x
  | .cas => if old = x % 2 ^ ty.bits then x / 2 ^ ty.bits % 2 ^ ty.bits else old

/-- The operand of an atomic in a lane. -/
def atomArg (g : Group) (h : Hdr) (fn : AtomFn) (ty : Ty) (b : Opd) (L : Nat) : Nat :=
  match fn with
  | .cas => rdN g h (2 * ty.bits) b L
  | _ => rd g h ty b L

/-- The data of a lane's atomic is uncorrectable. -/
def State.atomBad (s : State) (g : Group) (w : Nat) (t : ATgt) : Bool :=
  match t with
  | .scr cl off => s.badScratch cl off w
  | .pub ps _ => s.piecesBad g.id.ctx ps
  | .aperture _ => false

/-- Bytes of pieces change at once; the L1 copies of their lines that satisfy a test go. -/
def State.changePieces (s : State) (ctx : Nat) (ps : List Piece) (bs : List Byte) (drop_ : L1Line → Bool) : State :=
  (s.writePieces ctx ps bs).dropL1 fun l => l.ctx = ctx && (linesIn ps).any (fun x => x.1 = l.line) && drop_ l

/-- One lane's atomic on published memory: the old value, and the state after it. An atomic that takes exclusive ownership in
the L1 recalls every copy of the line (11 R201, R202). DEDUCED, log 49. -/
def State.atomLane (s : State) (g : Group) (owns : Bool) (fn : AtomFn) (ty : Ty) (t : ATgt) (x : Nat) : Nat × State :=
  let w := ty.bits / 8
  match t with
  | .scr cl off =>
    let old := leNat (s.readScratch cl off w)
    (old, s.writeScratch cl off (leBytes w (atomNew fn ty old x)))
  | .pub ps _ =>
    let old := leNat (s.readPieces g.id.ctx ps)
    (old, s.changePieces g.id.ctx ps (leBytes w (atomNew fn ty old x)) fun l => owns || .core l.core = g.site)
  | .aperture _ => (0, s)

/-- What a lane of an atomic does: it answers the old value. -/
def atomLaneFn (g : Group) (h : Hdr) (owns : Bool) (fn : AtomFn) (ty : Ty) (b : Opd) : LaneFn := fun L t s =>
  let (old, s1) := s.atomLane g owns fn ty t (atomArg g h fn ty b L)
  .ok old s1

/-- An instruction whose destination is Z pushes 0 in every lane (05 R74, 11 R204), at its issue: where its data then traps, a
re-issue pushes once more (DEDUCED, log 93). -/
def Group.pushZero (g : Group) (h : Hdr) : Group := if h.g then g else g.push .zero 64 false fun _ => some 0

/-- The lanes of an atomic whose data is uncorrectable, once its checks pass. -/
def State.atomBads (s : State) (g : Group) (h : Hdr) (sp : Space) (w : Nat) (addrs : List (Nat × W64)) : List Nat :=
  match s.checkLanes g h sp .atom w w addrs with
  | .ok accs => (accs.filter fun x => s.atomBad g w x.2.2).map (·.1)
  | _ => []

/-- ATOM (11 R204, R205). One whose data is uncorrectable in some lane changes nothing in any, and publishes nothing. DEDUCED,
log 16. -/
def execAtom (h : Hdr) (fn : AtomFn) (ord : Order) (scope : Scope) (sp : Space) (ty : Ty) (d a b : Opd) (s : State) : Out :=
  s.issue (.atom h fn ord scope sp ty d a b) fun g h =>
    let addrs := laneAddrs g h a .zero
    let w := ty.bits / 8
    let g1 := if d.isZ then g.pushZero h else g
    let done (s1 : State) : Out := .next (if ord = .acq || ord = .ar then s1.acquire g.site scope else s1)
    let made (s1 : State) : Made := s1.made g h sp .atom w w addrs (atomLaneFn g h (!g.site.isCc && scope.code ≤ 3) fn ty b)
    let fails (s1 : State) : Option Out :=
      match s1.atomBads g h sp w addrs with
      | [] => (made s1).trap?.map fun t => .next (s.trap g h t)
      | bads => some (done ((s.askAddrs g h sp .atom w addrs).addLoad g1 h (ldst d ty.regs) (.mem [] (tlaneIf h bads))))
    let finish (s1 : State) : Out :=
      (fails s1).getD ((made s1).out s s1 g h fun vals s2 =>
        done (if d.isZ then s2.retire g1 h
              else s2.addLoad g1 h (ldst d ty.regs) (.mem (vals.map fun x => (x.1, landed h ty (BitVec.ofNat 64 x.2))) none)))
    if addrs.isEmpty then .next (s.retire g1 h)
    else s.withChecked g h sp .atom w w addrs
      (lost := fun _ => (made s).out s s g h fun _ s1 => .next s1) fun _ =>
      if ord = .rel || ord = .ar then s.withRelease g scope finish (sp = .gl) fails else finish s

/-- What a lane of an ATOMO does: its contribution is sent (11 R207, R209). -/
def atomoFn (g : Group) (h : Hdr) (fn : FoldFn) (ty : Ty) (b c : Opd) : LaneFn := fun L t s =>
  match t with
  | .pub ps _ => .ok 0 { s with
      tick := s.tick + 1
      ordered := s.ordered ++ [{ id := s.tick, gid := g.id, cluster := g.site.cluster, slice := 0, ia := iaOf ps, op := fn, ty
                                 val := BitVec.ofNat 64 (rd g h ty b L), rank := BitVec.ofNat 32 (rdN g h 32 c L), st := .sent }] }
  | _ => .ok 0 s

/-- ATOMO: each active lane sends a contribution (11 R207, R209). The checks are made of the 16 bytes of the cell, which lie with its
first eight wherever TARGET is a multiple of 16 (DEDUCED, log 111). One to a SHARED row of a remap window copies on write when it
issues, as an ATOM does, and its contribution goes to the new block (DESIGN CHOICE, log 114). -/
def execAtomo (h : Hdr) (fn : FoldFn) (ty : Ty) (a b c : Opd) (s : State) : Out :=
  s.issue (.atomo h fn ty a b c) fun g h =>
    let addrs := laneAddrs g h a .zero
    if addrs.isEmpty then .next (s.retire g h)
    else (s.made g h .gl .cell 16 16 addrs (atomoFn g h fn ty b c)).out s s g h fun _ s1 => .next (s1.retire g h)

/-! Ordered cells (11 R206 to R210). -/

/-- The cell's home and slice, where its first byte lies, with its 16 bytes; none while a page is missing, or cannot be
reached. -/
def State.cellHome (s : State) (o : Ordered) : Option (Nat × Nat × List Piece) :=
  match s.ctx? o.gid.ctx with
  | none => none
  | some c =>
    let x := s.span c o.ia 16
    if x.held || !x.missing.isEmpty || s.piecesWait c.no x.pieces then none
    else match x.pieces with
      | [] => none
      | p :: _ => some (p.leaf.home, s.slice p.leaf.home o.ia, x.pieces)

/-- Applies a contribution: VALUE and NEXT change as one (11 R207, R210). -/
def State.applyOrdered (s : State) (ps : List Piece) (o : Ordered) : State :=
  let ctx := o.gid.ctx
  let w := o.ty.bits / 8
  let cell := s.readPieces ctx ps
  let next := (nat8 cell 8 4 + 1) % 2 ^ 32
  let n := nat8 cell 12 4
  let v := foldOp o.op o.ty (nat8 cell 0 w) (o.val.toNat % 2 ^ o.ty.bits)
  s.writePieces ctx ps
    (leBytes w v ++ (cell.drop w).take (8 - w) ++ leBytes 4 (if n ≠ 0 && next = n then 0 else next))

/-- Contributions of one cell that wait in its buffer with the rank applied next, earliest first. -/
def State.nextOrdered (s : State) (ps : List Piece) (ctx ia : Nat) : Option Ordered :=
  let next := nat8 (s.readPieces ctx ps) 8 4
  s.ordered.find? fun o => o.gid.ctx = ctx && o.ia = ia && o.st = .buffered && o.rank.toNat = next

/-- Removes a contribution. -/
def State.dropOrdered (s : State) (id : Nat) : State := { s with ordered := s.ordered.filter fun o => o.id ≠ id }

/-- Applies the waiting contributions whose rank has come, one at a time. -/
def State.drainOrdered (s : State) (ps : List Piece) (ctx ia : Nat) : Nat → State
  | 0 => s
  | n + 1 =>
    match s.nextOrdered ps ctx ia with
    | none => s
    | some o =>
      if s.piecesBad ctx ps then
        State.drainOrdered ((s.dropOrdered o.id).reportCtx ctx (discardReport ctx 2 o.gid.task ia)) ps ctx ia n
      else State.drainOrdered ((s.dropOrdered o.id).applyOrdered ps o) ps ctx ia n

/-- A contribution reaches its slice: discarded, applied, buffered or refused (11 R207 to R209). -/
def State.arriveOrdered (s : State) (o : Ordered) : State :=
  match s.cellHome o with
  | none => s
  | some (home, slice, ps) =>
    let ctx := o.gid.ctx
    let cell := s.readPieces ctx ps
    let n := nat8 cell 12 4
    if s.piecesBad ctx ps then (s.dropOrdered o.id).reportCtx ctx (discardReport ctx 2 o.gid.task o.ia)
    else if n ≠ 0 && n ≤ o.rank.toNat then (s.dropOrdered o.id).reportCtx ctx (discardReport ctx 1 o.gid.task o.ia)
    else if o.rank.toNat = nat8 cell 8 4 then
      let s1 := (s.dropOrdered o.id).applyOrdered ps o
      s1.drainOrdered ps ctx o.ia s1.ordered.length
    else
      let used := (s.ordered.filter fun x => x.st = .buffered && x.cluster = home && x.slice = slice).length
      if Config.orderedEntries ≤ used then
        { s with ordered := s.ordered.map fun x => if x.id = o.id then { x with st := .refused } else x }
      else
        { s with ordered := (s.ordered.filter fun x => x.id ≠ o.id)
            ++ [{ o with st := .buffered, cluster := home, slice }] }

/-- An earlier contribution of the same group to the same cell with the same rank has not been accepted: the two take effect in
program order (07 R144; 11 R207). -/
def State.orderedBehind (s : State) (o : Ordered) : Bool :=
  s.ordered.any fun x => x.gid = o.gid && x.ia = o.ia && x.rank = o.rank && x.st ≠ .buffered && x.id < o.id

/-- ATOMO_ARRIVAL: the n-th contribution under way. -/
def execAtomoArrival (n : Nat) (s : State) : Out :=
  match (s.ordered.filter fun o => o.st = .sent)[n]? with
  | none => .next s
  | some o => if s.orderedBehind o then .next s else .next (s.arriveOrdered o)

/-- ATOMO_RESEND: the n-th refused contribution is sent again (11 R208). -/
def execAtomoResend (n : Nat) (s : State) : Out :=
  match (s.ordered.filter fun o => o.st = .refused)[n]? with
  | none => .next s
  | some o => .next { s with ordered := s.ordered.map fun x => if x.id = o.id then { x with st := .sent } else x }

end Sys2Proof.Machine
end

