-- ==== Sys2Proof/Machine/MilestoneOps.lean ====
section
/-! DEFINITION. The milestone instructions and the template table (13 R253, R258, R259, R264, R266 to R274). -/

namespace Sys2Proof.Machine

/-- A bad KIND or reserved field drops an update and reports it (13 R246). -/
def State.dropUpdate (s : State) (g : Group) (l : Loc) : State :=
  s.reportCtx g.id.ctx (discardReport g.id.ctx 3 g.id.task l.report)

def putDest (g : Group) (d : Opd) (x : W64) : Group := match d with | .g n => g.putG n.val x | _ => g
def putPred (g : Group) (d : Opd) (b : Bool) : Group := match d with | .q n => g.putQ n.val b | _ => g

/-- MSINIT (13 R267). -/
def execMsinit (h : Hdr) (kind : MsKind) (rearm chunk : Bool) (d a b c : Opd) (s : State) : Out :=
  s.issue (.msinit h kind rearm chunk d a b c) fun g h =>
    s.withMs g h (rd64 g h a) fun s l =>
      let x := rd64 g h c
      if (chunk && x.toNat % 512 ≠ 0) || (kind = .join && x.toNat % 64 ≠ 0) then
        .next (s.trap g h { cause := .align, info := x })
      else
        let m : Ms :=
          { phase := 0, kind := kind.code, err := 0, tag := 0, flags := rearm.toNat + 2 * chunk.toNat, bcore := 0
            expect := rd64 g h b, arrived := 0, chunks := 0, tilebase := if chunk then x else 0
            cont := if kind = .join then x else 0, value := 0, resolver := rd64 g h d }
        let s1 := ((s.askMs g l).retire g h).putMs l m false true
        let s2 : State := { s1 with claims := s1.claims.map fun k => if k.loc = l then { k with live := false } else k }
        .next (match l with | .img .. => s2 | _ => s2.run (s2.due g.id.ctx l 0))

/-- The milestone proves uncorrectable once a release has published: the instruction traps, and publishes nothing (00 R8; 13 R246). -/
def State.uncorrAt (s : State) (g : Group) (h : Hdr) (l : Loc) (s1 : State) : Option Out :=
  if s1.locBad l 64 then some (.next (s.trap g h { cause := .uncorr })) else none

/-- MSARR.arr, with or without a release (13 R268). -/
def execMsarrArr (h : Hdr) (rel : Bool) (d a b : Opd) (scope : Scope) (s : State) : Out :=
  s.issue (.msarrArr h rel d a b scope) fun g h =>
    s.withMs g h (rd64 g h a) fun s l =>
      let go (s : State) : Out :=
        s.withRead g h l fun s m =>
          if !m.ok then .next ((s.retire g h).dropUpdate g l)
          else
            let (m2, flip) := m.arrive (s.claimed l) (rd64 g h b).toNat
            .next ((s.retire (putDest g d m.arrived) h).change g.id.ctx g.id.task l m m2 flip)
      if rel then s.withRead g h l fun _ _ => s.withRelease g scope go (early := s.uncorrAt g h l) else go s

/-- MSARR.exp (13 R268). -/
def execMsarrExp (h : Hdr) (d a b : Opd) (s : State) : Out :=
  s.issue (.msarrExp h d a b) fun g h =>
    s.withMs g h (rd64 g h a) fun s l =>
      s.withRead g h l fun s m =>
        if !m.ok then .next ((s.retire g h).dropUpdate g l)
        else
          let (m2, flip) := m.raise (s.claimed l) (rd64 g h b).toNat
          .next ((s.retire (putDest g d m.expect) h).change g.id.ctx g.id.task l m m2 flip)

/-- The core and the team note a binding (13 R255). -/
def State.noteBind (s : State) (g : Group) (tag : Nat) (r : W64) : State :=
  let s1 : State := { s with
    tagrefs := (s.tagrefs.filter fun t => !(t.site = g.site && t.tag = tag))
      ++ [{ site := g.site, tag, ref := r, gid := g.id }] }
  s1.updTeam g.id.ctx g.id.task fun t =>
    { t with binds := (t.binds.filter fun b => !(b.1 = g.site && b.2.1 = tag && b.2.2.1 = r)) ++ [(g.site, tag, r, none)] }

/-- MSBIND (13 R253, R269). -/
def execMsbind (h : Hdr) (a b : Opd) (s : State) : Out :=
  s.issue (.msbind h a b) fun g h =>
    let r := rd64 g h a
    s.withMs g h r fun s l =>
      s.withRead g h l fun s m =>
        if !m.ok then .next ((s.retire g h).dropUpdate g l)
        else
          let tag := rd32 g h b % 64
          let m2 := { m with tag := 128 + tag, bcore := bcoreOf g.site }
          let s1 := ((s.retire g h).putMs l m2).noteBind g tag r
          let s2 := s1.setTags g.site (s1.tagsAt g.site &&& ~~~(bit64 tag))
          .next (if m.kind = 2 && m.phase = 1 then s2.setTag g.site tag else s2)

/-- MSBIND.unbind (13 R269). -/
def execMsbindUnbind (h : Hdr) (a : Opd) (s : State) : Out :=
  s.issue (.msbindUnbind h a) fun g h =>
    s.withMs g h (rd64 g h a) fun s l =>
      s.withRead g h l fun s m =>
        if !m.ok then .next ((s.retire g h).dropUpdate g l)
        else .next ((s.retire g h).putMs l { m with tag := 0, bcore := 0 })

/-- A field as MSQRY reads it (13 R270). -/
def Ms.field (m : Ms) : MsField → W64
  | .phase => BitVec.ofNat 64 m.phase
  | .arrived => m.arrived
  | .chunks => m.chunks
  | .value => m.value
  | .expect => m.expect
  | .head => m.head

/-- MSQRY (13 R270). -/
def execMsqry (h : Hdr) (field : MsField) (acq : Bool) (d a : Opd) (s : State) : Out :=
  s.issue (.msqry h field acq d a) fun g h =>
    s.withMs g h (rd64 g h a) fun s l =>
      s.withRead g h l fun s m =>
        let s1 := s.retire (putDest g d (m.field field)) h
        .next (if acq then s1.acquire g.site .job else s1)

/-- The trigger entries of a cluster are all in use, or a restored context's entries still wait to enter (13 R271,
19 R345). -/
def State.triggersFull (s : State) (ctx cluster : Nat) : Bool :=
  Config.triggerEntries ≤ (s.triggers.filter fun t => t.cluster = cluster).length
    || s.savedTrigs.any fun t => t.ctx = ctx && t.cluster = cluster

/-- TRIG (13 R264, R271): it parks while the entries are all in use, also where the phase is reached already. DEDUCED, log 79. -/
def execTrig (h : Hdr) (a b c : Opd) (s : State) : Out :=
  s.issue (.trig h a b c) fun g h =>
    let r := rd64 g h a
    s.withMs g h r fun s l =>
      let x := rd64 g h c
      let i := apIndex x
      let tmpl := match s.ctx? g.id.ctx with | none => none | some c => c.template? i
      if bitsN x.toNat 63 54 ≠ 0 || 4096 ≤ i || (match tmpl with | none => true | some t => tmplRemote t) then
        .next (s.trap g h { cause := .tmpl })
      else s.withRead g h l fun s m =>
        if m.err ≠ 0 then .next (s.trap g h { cause := .mserr, info := r })
        else if s.startWaits g.id || s.fenced (unitCode g.site.cluster 13 0) then .next s
        else if s.triggersFull g.id.ctx g.site.cluster then .next (s.park g h .triggers)
        else if !m.ok then .next ((s.retire g h).dropUpdate g l)
        else
          let p := rdN g h 16 b 0
          let t : Trigger :=
            { id := s.tick, ctx := g.id.ctx, cluster := g.site.cluster, loc := s.winOf l, ref := r, phase := p, idx := i
              param := apParam x, channel := bitsN x.toNat 53 48, task := g.id.task, vectorOnly := s.vectorOnly g.id }
          if reached m.phase p then
            let (s1, more) := (s.retire g h).fireTrigger t
            .next (s1.run more)
          else
            let s1 := s.retire g h
            .next { s1 with triggers := s1.triggers ++ [t] }

/-- A template record that TDEF accepts (13 R259). -/
def tmplOk (b : List Byte) : Bool :=
  let mode := nat8 b 0 1
  let esize := nat8 b 1 1
  let flags := nat8 b 2 2
  let unit := nat8 b 4 1
  let rows := nat8 b 0x18 4
  let rowb := nat8 b 0x1C 4
  let ss := nat8 b 0x20 8
  let ds := nat8 b 0x28 8
  let ms := nat8 b 0x30 8
  mode ≤ 4 && nat8 b 5 3 = 0 && flags < 16
    && rowb % 32 = 0 && 32 ≤ rowb && rowb ≤ 1048576 && 1 ≤ rows && rows ≤ 16777216 && ms % 64 = 0
    && (mode ≠ 0 || (ss = 0 && ds = 0))
    && (!(mode = 1 || mode = 2 || mode = 3) || (ss % 32 = 0 && ds % 32 = 0))
    && (mode ≠ 4 || (ds % 32 = 0 && bitsN flags 1 1 = 0))
    && (mode = 3 || (esize = 0 && unit = 0 && bitsN flags 3 3 = 0))
    && (mode = 2 || nat8 b 0x38 8 = 0)
    && (mode ≠ 2 || (1 ≤ nat8 b 0x3C 1 && 1 ≤ nat8 b 0x3D 1 && 1 ≤ nat8 b 0x3E 2))
    && (mode ≠ 3
      || (1 ≤ esize && esize ≤ 4 && (esize ≠ 1 || bitsN flags 3 3 = 1) && unit ≤ 31
        && rows * rowb = (if bitsN flags 3 3 = 0 then 8192 else if esize = 1 then 2048 else 4096)
        && nat8 b 0x10 8 = 0 && ds = 0 && bitsN flags 2 2 = 0 && flags % 2 = 0))

/-- Sets an entry of the template table, or makes it undefined. -/
def Ctx.setTemplate (c : Ctx) (i : Nat) (t : Option (List Byte)) : Ctx :=
  { c with templates := (c.templates.filter fun x => x.1 ≠ i) ++ (match t with | none => [] | some b => [(i, b)]) }

/-- TDEF (13 R272). -/
def execTdef (h : Hdr) (a b : Opd) (s : State) : Out :=
  s.issue (.tdef h a b) fun g h =>
    let i := rd32 g h b
    let va := rd64 g h a
    if 4096 ≤ i then .next (s.trap g h { cause := .tmpl })
    else if va.toNat % 64 ≠ 0 then .next (s.trap g h { cause := .align, info := va })
    else match s.readSpan g.id va 8 8 with
      | .prot x => .next (s.trap g h { cause := .prot, info := x })
      | .miss ms => .next (s.missing g ms)
      | .wait => .next s
      | .bad _ => .next (s.trap g h { cause := .uncorr })
      | .ok rec_ =>
        if !tmplOk rec_ then .next ((s.noteSpan g.id va 8 8).trap g h { cause := .tmpl })
        else .next (((s.noteSpan g.id va 8 8).retire g h).updCtx g.id.ctx fun c => c.setTemplate i (some rec_))

/-- TDEF.clr (13 R272). -/
def execTdefClr (h : Hdr) (b : Opd) (s : State) : Out :=
  s.issue (.tdefClr h b) fun g h =>
    let i := rd32 g h b
    if 4096 ≤ i then .next (s.trap g h { cause := .tmpl })
    else .next ((s.retire g h).updCtx g.id.ctx fun c => c.setTemplate i none)

/-- The claim that a group holds on a future. -/
def State.ownClaim (s : State) (g : Group) (l : Loc) : Option Claim := s.claims.find? fun c => c.loc = l && c.gid = g.id

/-- The group's claim on a future ends. -/
def State.unclaim (s : State) (g : Group) (l : Loc) : State :=
  { s with claims := s.claims.filter fun c => !(c.loc = l && c.gid = g.id) }

/-- The second half of FRES: publish, then resolve (13 R273). -/
def State.resolve2 (s : State) (g : Group) (h : Hdr) (l : Loc) (v : W64) : Out :=
  s.withRelease g .job (early := (s.unclaim g l).uncorrAt g h l) fun s =>
    s.withRead g h l fun s m =>
      let live := match s.ownClaim g l with | some c => c.live | none => false
      let s1 := s.unclaim g l
      let s2 := s1.retire g h
      if m.kind = 2 && (live || (m.phase = 0 && !s1.claimed l)) then
        (if m.ok then .next (s2.change g.id.ctx g.id.task l m (m.flip v) true) else .next (s2.dropUpdate g l))
      else .next (s2.reportCtx g.id.ctx (discardReport g.id.ctx 10 g.id.task l.report))

/-- FRES (13 R273). -/
def execFres (h : Hdr) (a b : Opd) (s : State) : Out :=
  s.issue (.fres h a b) fun g h =>
    s.withMs g h (rd64 g h a) fun s l =>
      match s.ownClaim g l with
      | some _ => s.resolve2 g h l (rd64 g h b)
      | none =>
        s.withRead g h l fun s m =>
          if m.kind ≠ 2 then .next (s.trap g h { cause := .prot, info := rd64 g h a })
          else if m.phase = 1 || s.claimed l then .next (s.trap g h { cause := .dres })
          else
            let s1 : State := { s with claims := s.claims ++ [{ loc := l, gid := g.id, live := true }] }
            s1.resolve2 g h l (rd64 g h b)

/-- FREG (13 R274). Where it arrives at the join itself, that is an access of the group to j: uncorrectable bytes there trap like those
of the future (13 R246). -/
def execFreg (h : Hdr) (d a b : Opd) (s : State) : Out :=
  s.issue (.freg h d a b) fun g h =>
    s.withMs g h (rd64 g h a) fun s l =>
      let j := rd64 g h b
      match s.mref g.id.ctx (s.joinCluster g.id.ctx l) j with
      | .trap c => .next (s.trap g h { cause := c, info := j })
      | .miss ms => .next (s.missing g ms)
      | .ok lj =>
        let arrives (m : Ms) : Bool := m.kind = 2 && m.ok && m.phase = 1
        if (s.locSpan lj).held || ((s.ms? l).any arrives && s.msWaits g lj) then .next s
        else s.withRead g h l fun s m =>
          if arrives m && s.locBad lj 64 then .next (s.trap g h { cause := .uncorr })
          else if m.kind ≠ 2 then .next (s.trap g h { cause := .prot, info := rd64 g h a })
          else if !m.ok then .next ((s.retire g h).dropUpdate g l)
          else if m.phase = 0 && m.cont = 0 then
            .next ((s.retire (putPred g d true) h).putMs l { m with cont := j })
          else if m.phase = 1 then
            .next ((s.retire (putPred g d true) h).updRef g.id.ctx g.id.task (s.joinCluster g.id.ctx l) j
              (.arrive 1 (if m.err ≠ 0 then 6 else 0)))
          else .next (s.retire (putPred g d false) h)

end Sys2Proof.Machine
end

