-- ==== Sys2Proof/Machine/Launch.lean ====
section
/-! DEFINITION. LAUNCH, RGROW, RSHRK and PROBE (03 R45, R57, R60 to R63). -/

namespace Sys2Proof.Machine

/-- LAUNCH (03 R61). The record is copied when it issues, and a LAUNCH that parks keeps the copy. -/
def execLaunch (h : Hdr) (d a : Opd) (s : State) : Out :=
  s.issue (.launch h d a) fun g h =>
    let va := rd64 g h a
    match s.launchOf g.id, s.ctx? g.id.ctx with
    | some l, some c =>
      if g.id.grp ≠ 0 then .next (s.trap g h { cause := .ill })
      else if va.toNat % 64 ≠ 0 then .next (s.trap g h { cause := .align, info := va })
      else match s.readSpan g.id va 8 16 with
        | .prot x => .next (s.trap g h { cause := .prot, info := x })
        | .miss ms => .next (s.missing g ms)
        | .wait => .next s
        | .bad _ => .next (s.trap g h { cause := .uncorr })
        | .ok b =>
          let r := LRec.ofBytes b
          let seen := s.noteSpan g.id va 8 16
          if (recordFault b).isSome then .next (seen.trap g h { cause := .ill })
          else if 10 < l.depth + 1 then .next (seen.trap g h { cause := .nest })
          else if l.lrec.dmode && !r.dmode then .next (seen.trap g h { cause := .ill })
          else s.withRelease g .dev fun s0 =>
            let s1 := s0.noteSpan g.id va 8 16
            if s1.tableFull c.no then .next (s1.park g h (.launches d r))
            else .next ((s1.retire (putDest g d (c.serial.setWidth 64)) h).acceptLaunch c r (l.depth + 1) (some l.serial)).1
    | _, _ => .next s

/-- The group of a context that has been parked longest on a full launch table, with what it copied. -/
def State.launchWaiter (s : State) (ctx : Nat) : Option (Group × Opd × LRec) :=
  (s.groups.filterMap fun g => match g.st with
    | .parked (.launches d r) => if g.id.ctx = ctx then some (g, d, r) else none
    | _ => none).foldl (fun b x => match b with
      | none => some x
      | some y => if x.1.seq < y.1.seq then some x else some y) none

/-- Entries of the launch table have become free: parked LAUNCHes complete, in the order in which they parked (03 R37, R61). -/
def State.grantLaunches (s : State) (ctx : Nat) : Nat → State
  | 0 => s
  | n + 1 =>
    if s.tableFull ctx then s
    else match s.launchWaiter ctx with
      | none => s
      | some (g, d, r) =>
        match s.launchOf g.id, s.ctx? ctx with
        | some l, some c =>
          State.grantLaunches
            ((s.complete (putDest g d (c.serial.setWidth 64))).acceptLaunch c r (l.depth + 1) (some l.serial)).1 ctx n
        | _, _ => s

/-- Registers of all windows of a team. -/
def State.teamRegs (s : State) (id : GroupId) : Nat :=
  (((s.groupsOf id.ctx id.task).filter fun g => g.st ≠ .exited).map fun g => g.v.length).foldl (· + ·) 0

/-- RGROW: granted at once, or in the core's queue (03 R45, R57, R62). -/
def execRgrow (h : Hdr) (a : Opd) (s : State) : Out :=
  s.issue (.rgrow h a) fun g h =>
    let n := (rd64 g h a).toNat
    let W := g.v.length
    match s.launchOf g.id with
    | none => .next s
    | some l =>
      if n % 16 ≠ 0 || n < 16 || l.lrec.regmax < n then .next (s.trap g h { cause := .window })
      else if n ≤ W then .next (s.retire g h)
      else if l.lrec.logical then
        (if 24576 < s.teamRegs g.id + (n - W) then .next (s.trap g h { cause := .window })
         else .next (s.retire (g.grow n) h))
      else
        let waiting := s.growq.any fun r => (match s.group? r.gid with | some x => x.site = g.site | none => false)
        if !waiting && n - W ≤ s.regsFree g.site then .next (s.retire (g.grow n) h)
        else
          let s1 : State := { s with growq := s.growq ++ [{ gid := g.id, n }] }
          .next (s1.park { g with want := n } h (.rgrow n))

/-- RSHRK waits for loads into the registers that it returns (03 R62). -/
def execRshrk (h : Hdr) (a : Opd) (s : State) : Out :=
  s.issue (.rshrk h a) fun g h =>
    let n := (rd64 g h a).toNat
    let W := g.v.length
    if n % 16 ≠ 0 || n < 16 then .next (s.trap g h { cause := .window })
    else if W ≤ n then .next (s.retire g h)
    else if emptyV g n (W - n) then .next s
    else .next ((s.retire { g with v := g.v.take n, full := g.full.take n, bad := g.inWindow n } h).settleRegs g.site)

/-- PROBE: the group waits until its probe returns or dies (03 R63). -/
def execProbe (h : Hdr) (a : Opd) (s : State) : Out :=
  s.issue (.probe h a) fun g h =>
    s.withMs g h (rd64 g h a) fun s l =>
      s.withRead g h l fun s m =>
        if m.resolver = 0 then .next (s.retire g h)
        else
          let (id, s1) := s.fresh
          let p : Probe := { id, origin := g.id, target := m.resolver, hops := [], byInstr := true }
          .next (State.park { s1 with probes := s1.probes ++ [p] } g h .probe)

end Sys2Proof.Machine
end

