-- ==== Sys2Proof/Machine/Tier.lean ====
section
/-! DEFINITION. Tier moves, migration, ember instructions and remap windows (11 R196, R197, R214 to R228). -/

namespace Sys2Proof.Machine

/-- One enabled NORMAL range covers n bytes from an address (11 R214, R222). -/
def State.spanOk (s : State) (c : Ctx) (va n : Nat) : Bool :=
  (s.rangesOn c).any fun r => r.kind = 0 && r.base.toNat ≤ va && va + n ≤ r.limit.toNat + 1

/-- The parts of n bytes from a virtual address on that lie in one 64 KiB block of virtual addresses and on one page: the block, and
the IA and the length in its lowest-numbered range, none where that is not a NORMAL one (11 R188, R189; DEDUCED, logs 94 and 111). -/
def State.pageCuts (s : State) (c : Ctx) (va n : Nat) : List (Nat × Option (Nat × Nat)) :=
  let first := va / 65536
  let count := if n = 0 then 0 else (va + n - 1) / 65536 - first + 1
  (List.range count).flatMap fun i =>
    let block := 65536 * (first + i)
    let lo := max va block
    let len := min (va + n) (block + 65536) - lo
    match s.rangeOf c lo with
    | none => [(block, none)]
    | some r =>
      let ia := r.ia lo
      let k := 65536 - ia % 65536
      if r.kind ≠ 0 then [(block, none)]
      else if len ≤ k then [(block, some (ia, len))]
      else [(block, some (ia, k)), (block, some ((ia + k) % 2 ^ 52, len - k))]

/-- The pages of such bytes, where a NORMAL range comes first. -/
def State.pagesAt (s : State) (c : Ctx) (va n : Nat) : List Nat :=
  ((s.pageCuts c va n).filterMap fun x => x.2.map fun y => pageOf y.1).dedup

/-! TIER (11 R214, R215). -/

/-- TIER starts a move; an m that reads 0 is none (DESIGN CHOICE, log 130); the group goes on at once. A page whose lowest-numbered covering range is not NORMAL has no frame to move,
and is passed over as a missing one is (DESIGN CHOICE, log 102). -/
def execTier (h : Hdr) (lp : Bool) (a b m : Opd) (s : State) : Out :=
  s.issue (.tier h lp a b m) fun g h =>
    let va := rd64 g h a
    let n := (rd64 g h b).toNat
    let ms := rd64 g h m
    match s.ctx? g.id.ctx with
    | none => .next s
    | some c =>
      if va.toNat % 65536 ≠ 0 then .next (s.trap g h { cause := .align, info := va })
      else
        if n ≠ 0 && !s.spanOk c va.toNat (65536 * n) then .next (s.trap g h { cause := .prot, info := va })
        else if ms.toNat % 64 ≠ 0 then .next (s.trap g h { cause := .align, info := ms })
        else
          let (id, s1) := (s.retire g h).fresh
          .next { s1 with tiers := s1.tiers ++
            [{ id, ctx := g.id.ctx, task := g.id.task, cluster := g.site.cluster, lp, pages := s.pagesAt c va.toNat (65536 * n), ms
               bytes := 65536 * n, err := 0 }] }

/-- Copies a frame's bytes. -/
def State.copyFrame (s : State) (src dst : Nat) : State := s.writeMem dst (cellRead s.mem src 65536)

/-- A copied frame's uncorrectable words stay uncorrectable (19 R348; DEDUCED, log 86). -/
def State.copyPoison (s : State) (src dst : Nat) : State :=
  s.spoilMem ((s.badWords src 65536).map fun w => w - src / 8 + dst / 8)

def State.setTier (s : State) (t : Tier) : State := { s with tiers := s.tiers.map fun x => if x.id = t.id then t else x }

/-- Frees a frame: it is reported (11 R194). -/
def State.freeFrame (s : State) (ctx frame : Nat) : State :=
  s.reportCtx ctx (frameReport ctx (if isLp frame then 1 else 0) frame)

/-- Moves the first page of a tier move; an S page is an error 2 (11 R198, R214, R215). -/
def State.tierPage (s : State) (t : Tier) : State :=
  match t.pages, s.ctx? t.ctx with
  | page :: rest, some c =>
    let skip := s.setTier { t with pages := rest }
    match s.walk c page with
    | .missing _ => skip
    | .ok l =>
      if l.kind = 3 || isLp l.frame = t.lp then skip
      else if s.migrating t.ctx page then s
      else if l.kind = 1 then s.setTier { t with pages := [], err := 2 }
      else if s.badMem l.frame 65536 then s.setTier { t with pages := [], err := 4 }
      else
        match s.takeFrame c (if t.lp then lpPool else hbmPool (s.posOf l.home)) with
        | none => s.setTier { t with pages := [], err := 6 }
        | some (f, s1) =>
          (((s1.copyFrame l.frame f).writeLeaf { l with frame := f }).freeFrame t.ctx l.frame).setTier
            { t with pages := rest }
  | _, _ => s

/-- TIER_PAGE_MOVE: a page of the n-th move that has pages left. -/
def execTierPageMove (n : Nat) (s : State) : Out :=
  match (s.tiers.filter fun t => !t.pages.isEmpty)[n]? with
  | none => .next s
  | some t => .next (s.tierPage t)

/-- An engine's result at a milestone: an arrival, or an error; an Engine error report where no milestone takes it; none
while the milestone's page is missing (13 R263). A reference of 0 names no milestone, also one that a TIER reads from a register or a
literal (DESIGN CHOICE, log 130). -/
def State.finishAt (s : State) (ctx : Nat) (task : W64) (cluster : Nat) (ms : W64) (bytes err : Nat) (rep : Nat → Report) :
    Option State :=
  let u : MsUpd := if err = 0 then .done bytes else .fail err
  if ms = 0 then some (if err = 0 then s else s.reportCtx ctx (rep err))
  else match s.mref ctx cluster ms with
    | .trap _ => some (s.reportCtx ctx (rep (if err = 0 then 2 else err)))
    | .miss _ => none
    | .ok _ => some (s.updRef ctx task cluster ms u)

/-- TIER_COMPLETE: the n-th move that has no page left arrives. DEDUCED, log 70. -/
def execTierComplete (n : Nat) (s : State) : Out :=
  match (s.tiers.filter fun t => t.pages.isEmpty && t.waits.isEmpty)[n]? with
  | none => .next s
  | some t =>
    let s1 := { s with tiers := s.tiers.filter fun x => x.id ≠ t.id }
    match s1.finishAt t.ctx t.task t.cluster t.ms t.bytes t.err
        (fun e => engineReport t.ctx 3 e 0 0 0 t.task t.ms (s.posOf t.cluster)) with
    | some s2 => .next s2
    | none =>
      match s.mref t.ctx t.cluster t.ms with
      | .miss ms =>
        .next ((ms.foldl (fun s m => s.reportCtx t.ctx (missingReport t.ctx m.1 m.2 0)) s).setTier
          { t with waits := ms.map (·.1) })
      | _ => .next s

/-! Migration (11 R196, R197). -/

/-- The page moves to the requesting cluster, or stays when its pool has become empty. -/
def State.movePage (s : State) (m : Migration) : State :=
  let s0 := { s with migrations := s.migrations.filter fun x => !(x.ctx = m.ctx && x.page = m.page) }
  let clear (s : State) : State := { s with counters := s.counters.filter fun x => !(x.1.1 = m.ctx && x.1.2.2 = m.page) }
  match s.ctx? m.ctx with
  | none => s0
  | some c =>
    match s.walk c m.page with
    | .missing _ => s0
    | .ok l =>
      if isLp l.frame then clear (s0.writeLeaf { l with home := m.cluster })
      else match s0.takeFrame c (hbmPool (s.posOf m.cluster)) with
        | none => s0
        | some (f, s1) =>
          clear ((((s1.copyFrame l.frame f).copyPoison l.frame f).writeLeaf { l with frame := f }).freeFrame m.ctx l.frame)

/-- A migration ends, and what waited for the page goes on: updates, joins, and the host message at the head of its
function's queue. -/
def State.migrate (s : State) (m : Migration) : State :=
  let moved : Hold := { page := m.page, fill := false }
  let s1 := ((s.movePage m).retryLate m.ctx moved).retryJoins m.ctx (some moved)
  { s1 with fns := s1.fns.modify (s1.ownerOf m.ctx) fun f => if f.waits = some moved then { f with waits := none } else f }

/-- PAGE_MIGRATION: the n-th migration under way ends. -/
def execPageMigration (n : Nat) (s : State) : Out :=
  match s.migrations[n]? with
  | none => .next s
  | some m => .next (s.migrate m)

/-! Ember instructions (11 R217 to R222). -/

/-- Lines that other contexts reserve on a cluster. -/
def State.reservedBy (s : State) (ctx cluster : Nat) : Nat :=
  ((s.ctxs.filter fun c => c.no ≠ ctx && c.st ≠ .saved && (s.clusters c.part).contains cluster).map fun c =>
    c.ember.getD (s.posOf cluster) 0).foldl (· + ·) 0

/-- ERSV (11 R220). -/
def execErsv (h : Hdr) (d a b : Opd) (s : State) : Out :=
  s.issue (.ersv h d a b) fun g h =>
    let lines := rd32 g h a
    let pos := rd32 g h b
    match s.ctx? g.id.ctx with
    | none => .next s
    | some c =>
      match (s.clusters c.part)[pos]? with
      | none => .next (s.retire (putPred g d false) h)
      | some cl =>
        if s.reservedBy c.no cl + lines ≤ Config.emberLines then
          .next ((s.retire (putPred g d true) h).updCtx c.no fun c => { c with ember := c.ember.set pos lines })
        else .next (s.retire (putPred g d false) h)

/-- EREL (11 R220). -/
def execErel (h : Hdr) (a : Opd) (s : State) : Out :=
  s.issue (.erel h a) fun g h =>
    .next ((s.retire g h).updCtx g.id.ctx fun c => { c with ember := c.ember.set (rd32 g h a) 0 })

/-- Neighbouring pieces of one page become one. -/
def joinPieces : List Piece → List Piece
  | [] => []
  | p :: t =>
    match joinPieces t with
    | q :: r => if p.ia + p.n = q.ia && pageOf p.ia = pageOf q.ia then { p with n := p.n + q.n } :: r else p :: q :: r
    | [] => [p]

/-- n bytes of ember memory from a virtual address on: refused with the block that fails, missing pages, or pieces of E pages. -/
def State.emberPages (s : State) (c : Ctx) (va n : Nat) : (W64 ⊕ List (Miss × Bool)) ⊕ List Piece :=
  let xs := (s.pageCuts c va n).map fun x => (x.1, x.2.map fun y => (y.1, y.2, s.walk c y.1))
  match xs.find? fun x => match x.2 with | none => true | some (_, _, .ok l) => l.kind ≠ 3 | some (_, _, .missing _) => false with
  | some x => .inl (.inl (BitVec.ofNat 64 x.1))
  | none =>
    let ms := distinctMiss (xs.filterMap fun x =>
      match x.2 with | some (ia, _, .missing m) => some (.page (pageOf ia), m) | _ => none)
    if !ms.isEmpty then .inl (.inr ms)
    else .inr (joinPieces (xs.filterMap fun x =>
      match x.2 with | some (ia, k, .ok leaf) => some { ia, n := k, leaf } | _ => none))

/-- Bytes of one line read as zero: one that is neither in its slice nor in a late frame does so already. -/
def State.zeroBytes (s : State) (l : Leaf) (ctx ia n : Nat) : State :=
  if n = 0 || !(l.late || (s.emberLine? ctx (lineOf ia)).isSome) then s else s.pubWrite l ctx ia (List.replicate n 0)

/-- Discards bytes of an E page: its whole lines go, and read as zero; a whole page gives its late frame back. -/
def State.discard (s : State) (c : Ctx) (p : Piece) : State :=
  match s.walk c p.ia with
  | .missing _ => s
  | .ok l =>
    let lo := (p.ia + 63) / 64 * 64
    let hi := (p.ia + p.n) / 64 * 64
    if hi < lo then s.zeroBytes l c.no p.ia p.n
    else
      let s1 := { s with ember := s.ember.filter fun e => !(e.ctx = c.no && lo ≤ e.line && e.line < hi) }
      if hi - lo = 65536 then
        (if l.late then (s1.writeLeaf { l with late := false, frame := 0 }).reportCtx c.no (frameReport c.no 2 l.frame) else s1)
      else
        let zeros : List Ember := if !l.late then [] else (List.range ((hi - lo) / 64)).map fun j =>
          { ctx := c.no, cluster := l.home, line := lo + 64 * j, bytes := List.replicate 64 0 }
        (State.zeroBytes { s1 with ember := s1.ember ++ zeros } l c.no p.ia (lo - p.ia)).zeroBytes l c.no hi (p.ia + p.n - hi)

/-- Some page of n bytes from a virtual address on cannot be walked yet (19 R347; DEDUCED, log 69). -/
def State.emberHeld (s : State) (c : Ctx) (va n : Nat) : Bool :=
  !s.fences.isEmpty && (s.pageCuts c va n).any fun x => x.2.any fun y => s.walkWaits c y.1

/-- EDISC (11 R221). A trap with PROT names the first 64 KiB block that fails, by its base (DESIGN CHOICE, log 103). The group waits
for a line that a fence keeps from it (19 R347). -/
def execEdisc (h : Hdr) (a b : Opd) (s : State) : Out :=
  s.issue (.edisc h a b) fun g h =>
    let va := (rd64 g h a).toNat
    let n := (rd64 g h b).toNat
    if va % 64 ≠ 0 || n % 64 ≠ 0 then .next (s.trap g h { cause := .align, info := rd64 g h a })
    else match s.ctx? g.id.ctx with
      | none => .next s
      | some c =>
        if s.emberHeld c va n then .next s
        else match s.emberPages c va n with
        | .inl (.inl x) => .next (s.trap g h { cause := .prot, info := x })
        | .inl (.inr ms) => .next (s.missing g ms)
        | .inr ps =>
          if ps.any (s.pieceWaits c.no g.site.cluster) || s.cellDue g.id ps then .next s
          else .next ((ps.foldl (fun s p => s.discard c p) s).retire g h)

/-- Moves an E page's lines to a cluster; lines beyond the share there leave (11 R218, R222). -/
def State.emberMove (s : State) (ctx page : Nat) (l : Leaf) (cluster : Nat) : State :=
  if l.home = cluster then s
  else
    let mine (e : Ember) : Bool := e.ctx = ctx && page ≤ e.line && e.line < page + 65536
    let s1 := { s with ember := s.ember.map fun e => if mine e then { e with cluster } else e }.writeLeaf { l with home := cluster }
    (s1.ember.filter mine).foldl (fun s e => if s.beyond e then s.leaveEmber e else s) s1

/-- Moving an E page to a cluster waits: for a line at its home or at the target, for a die link on the way, or for the late frame
that a line beyond the share there would take (19 R347). -/
def State.emigWaits (s : State) (c : Ctx) (cluster target page : Nat) (l : Leaf) : Bool :=
  let whole (leaf : Leaf) : Piece := { ia := page, n := 65536, leaf }
  l.home ≠ target && (s.pieceWaits c.no cluster (whole l) || s.pieceWaits c.no l.home (whole { l with home := target })
    || (!l.late && s.poolFenced c target emberPool))

/-- The pages of pieces, each once. -/
def pagesIn (ps : List Piece) : List (Nat × Leaf) :=
  ps.foldl (fun acc p => if acc.any fun x => x.1 = pageOf p.ia then acc else acc ++ [(pageOf p.ia, p.leaf)]) []

/-- EMIG (11 R222). A trap with PROT for the cluster index names the base address (DESIGN CHOICE, log 120). -/
def execEmig (h : Hdr) (a b c : Opd) (s : State) : Out :=
  s.issue (.emig h a b c) fun g h =>
    let va := rd64 g h a
    let n := (rd64 g h b).toNat
    if va.toNat % 65536 ≠ 0 then .next (s.trap g h { cause := .align, info := va })
    else match s.ctx? g.id.ctx with
      | none => .next s
      | some x =>
        match (s.clusters x.part)[rd32 g h c]? with
        | none => .next (s.trap g h { cause := .prot, info := va })
        | some cl =>
          if n ≠ 0 && !s.spanOk x va.toNat (65536 * n) then .next (s.trap g h { cause := .prot, info := va })
          else if s.emberHeld x va.toNat (65536 * n) then .next s
          else match s.emberPages x va.toNat (65536 * n) with
            | .inl (.inl e) => .next (s.trap g h { cause := .prot, info := e })
            | .inl (.inr ms) => .next (s.missing g ms)
            | .inr ps =>
              if (pagesIn ps).any fun p => s.emigWaits x g.site.cluster cl p.1 p.2 then .next s
              else .next (((pagesIn ps).foldl (fun s p => s.emberMove x.no p.1 p.2 cl) s).retire g h)

/-- A slice may evict the line: it lies beyond its context's share, or that context is switched out and the slice is full
(11 R218). -/
def State.evictable (s : State) (e : Ember) : Bool :=
  s.beyond e || (s.mayLeave e && sliceLines ≤ s.sliceUse e.cluster (s.emberSlice e))

/-- EMBER_LINE_EVICT: the n-th ember line, when it may leave (11 R218). -/
def execEmberLineEvict (n : Nat) (s : State) : Out :=
  match s.ember[n]? with
  | none => .next s
  | some e => if s.evictable e then .next (s.leaveEmber e) else .next s

/-! Remap windows (11 R227, R228). -/

/-- The frame of RMSET and RMREF: the window, the publish, the descriptor. `out` says which operands the window refuses; a refusal
publishes nothing (00 R8). A descriptor that is malformed is refused as an access through the window would be (DESIGN CHOICE, log
104). A trap with PROT for the row, the entry or the block names the window's address (DESIGN CHOICE, log 120). -/
def State.withWindow (s : State) (g : Group) (h : Hdr) (w : Opd) (out : Group → Hdr → Remap → Bool) (k : State → Ctx → Remap → Out) :
    Out :=
  let va := rd64 g h w
  let prot : Out := .next (s.trap g h { cause := .prot, info := va })
  match s.ctx? g.id.ctx with
  | none => .next s
  | some c =>
    match s.rangeOf c va.toNat with
    | none => prot
    | some r =>
      if r.kind ≠ 1 then prot
      else
        let refused (s1 : State) : Option Out :=
          match s1.remap c g.site.cluster r with
          | .malformed => some prot
          | .ok d => if out g h d then some prot else none
          | _ => none
        s.withRelease g .dev (early := refused) fun s1 =>
          match s1.remap c g.site.cluster r with
          | .miss ms => .next (s1.missing g ms)
          | .wait => .next s1
          | .malformed => prot
          | .ok d => k s1 c d

/-- The entry that RMSET writes; RMSET.get writes none. -/
def newEntry (g : Group) (h : Hdr) (new : Option Opd) : W64 := match new with | some o => rd64 g h o | none => 0

/-- RMSET and RMSET.get: the old entry, and the new one when there is one. Bytes of the descriptor or the entry that are
uncorrectable go on as they read (DESIGN CHOICE, log 105). The row is read as 64 bits (DESIGN CHOICE, log 116). -/
def State.rowEntry (s : State) (i : Instr) (d w row : Opd) (new : Option Opd) : Out :=
  s.issue i fun g h =>
    s.withWindow g h w (fun g h x => x.rows ≤ (rd64 g h row).toNat || (newEntry g h new).toNat / 2 ^ 50 ≠ 0) fun s c x =>
      let n := (rd64 g h row).toNat
      let e := newEntry g h new
      match s.iaRead c g.site.cluster (x.table + 8 * n) 8 with
        | .miss ms => .next (s.missing g ms)
        | .wait => .next s
        | .ok b =>
          let s1 := s.retire (putDest g d (wordOf b)) h
          let s2 := match new with | some _ => s1.iaWrite c (x.table + 8 * n) (leBytes 8 e.toNat) | none => s1
          .next (s2.acquire g.site .dev)

def execRmset (h : Hdr) (d a b c : Opd) (s : State) : Out := s.rowEntry (.rmset h d a b c) d a b (some c)

def execRmsetGet (h : Hdr) (d a b : Opd) (s : State) : Out := s.rowEntry (.rmsetGet h d a b) d a b none

/-- What RMREF does to a count. -/
inductive RefFn where | inc | dec | get | set (v : Nat)
  deriving DecidableEq, Repr

def RefFn.new (f : RefFn) (old : Nat) : Nat :=
  match f with
  | .inc => min (old + 1) (2 ^ 32 - 1)
  | .dec => old - 1
  | .get => old
  | .set v => v

/-- What pushing a block comes to. -/
inductive Push where
  | done (s : State)
  | miss (ms : List (Miss × Bool))
  | wait

/-- A block whose count falls to 0 goes onto the free list; a full one is reported for the task (11 R228, 21 R357). -/
def State.pushBlock (s : State) (c : Ctx) (cluster : Nat) (task : W64) (d : Remap) (b : Nat) : Push :=
  let cnt := d.freeCnt
  if d.freeCap ≤ cnt then .done (s.reportCtx c.no (discardReport c.no 8 task (d.poolBase + b * 2 ^ d.k)))
  else match s.iaRead c cluster (d.free + 4 * cnt) 4 with
    | .miss ms => .miss ms
    | .wait => .wait
    | .ok _ => .done ((s.iaWrite c (d.free + 4 * cnt) (leBytes 4 b)).iaWrite c (d.ia + 0x34) (leBytes 4 (cnt + 1)))

/-- RMREF (11 R228). The block is read as 64 bits (DESIGN CHOICE, log 116). Bytes of the descriptor, the count or the free list that
are uncorrectable go on as they read (DESIGN CHOICE, log 105). -/
def State.refCount (s : State) (i : Instr) (d w block : Opd) (f : Group → Hdr → RefFn) : Out :=
  s.issue i fun g h =>
    s.withWindow g h w (fun g h x => x.blocks ≤ (rd64 g h block).toNat) fun s c x =>
      let b := (rd64 g h block).toNat
      match s.iaRead c g.site.cluster (x.refs + 4 * b) 4 with
        | .miss ms => .next (s.missing g ms)
        | .wait => .next s
        | .ok bs =>
          let old := leNat bs
          let s1 := s.iaWrite c (x.refs + 4 * b) (leBytes 4 ((f g h).new old))
          let done (s : State) : Out := .next ((s.retire (putDest g d (BitVec.ofNat 64 old)) h).acquire g.site .dev)
          if f g h = .dec && old = 1 then
            match s1.pushBlock c g.site.cluster g.id.task x b with
            | .miss ms => .next (s.missing g ms)
            | .wait => .next s
            | .done s2 => done s2
          else done s1

def execRmrefInc (h : Hdr) (d a b : Opd) (s : State) : Out := s.refCount (.rmrefInc h d a b) d a b fun _ _ => .inc

def execRmrefDec (h : Hdr) (d a b : Opd) (s : State) : Out := s.refCount (.rmrefDec h d a b) d a b fun _ _ => .dec

def execRmrefGet (h : Hdr) (d a b : Opd) (s : State) : Out := s.refCount (.rmrefGet h d a b) d a b fun _ _ => .get

def execRmrefSet (h : Hdr) (d a b c : Opd) (s : State) : Out :=
  s.refCount (.rmrefSet h d a b c) d a b fun g h => .set (rd32 g h c)

end Sys2Proof.Machine
end

