-- ==== Sys2Proof/Machine/Matrix.lean ====
section
/-! DEFINITION. The matrix units: accumulator arithmetic, tiles, steps, slots, codebooks and the instructions of OP 0x64 to
0x6B (09 R151, R152, R174 to R177; 15 R275 to R300). A unit's index is its cluster's number times 32 plus its own. -/

namespace Sys2Proof.Machine

/-! Accumulator arithmetic (09 R174 to R177). -/

/-- rne(m × 2^sh) for an integer m; a negative sh drops bits. -/
def rneShift (m : Int) (sh : Int) : Int :=
  let x : Int := (roundAt .rne 0 false m.natAbs sh 0 false : Nat)
  if m < 0 then -x else x

/-- The smallest k with |rn(p, k)| < 2^(37 + k), for a nonzero finite p (09 R175). -/
def FVal.need : FVal → Option Int
  | .num _ m e =>
    if m = 0 then none
    else
      let k : Int := e + bitLen m - 37
      some (if roundAt .rne 0 false m e k false < 2 ^ 37 then k else k + 1)
  | _ => none

/-- The least rise of the exponent that brings an element below 2^45. -/
def elemNeed (m : Int) : Nat :=
  let t := bitLen m.natAbs - 45
  if roundAt .rne 0 false m.natAbs 0 t false < 2 ^ 45 then t else t + 1

/-- An element of a slot. -/
abbrev Elem := EClass × Int

/-- E′ of a step (09 R175). -/
def stepExp (e : Int) (elems : List Elem) (prods : List (List FVal)) : Int :=
  let byProd := prods.foldl (fun a ps => ps.foldl (fun a p => match p.need with | some k => max a k | none => a) a) e
  elems.foldl (fun a x => if x.1 = .fin then max a (e + elemNeed x.2) else a) byProd

/-- An element after a step with its products (09 R175, R176). -/
def stepElem (e e1 : Int) (x : Elem) (ps : List FVal) : Elem :=
  let p := x.1 = .pinf || ps.any (· = .inf false)
  let n := x.1 = .ninf || ps.any (· = .inf true)
  if x.1 = .nan || ps.any (· = .nan) || (p && n) then (.nan, 0)
  else if p then (.pinf, 0)
  else if n then (.ninf, 0)
  else
    (.fin, ps.foldl (fun a q => match q with
      | .num neg m k => let y : Int := (roundAt .rne 0 false m k e1 false : Nat); a + (if neg then -y else y)
      | _ => a) (rneShift x.2 (e - e1)))

/-- The elements of a slot, written out. -/
def Slot.all (s : Slot) : List Elem := if s.elems.isEmpty then List.replicate 8192 (.fin, 0) else s.elems

/-- A step on a slot, with the products of each element in row order. -/
def Slot.step (s : Slot) (prods : List (List FVal)) : Slot :=
  let e1 := stepExp s.e s.all prods
  { s with e := e1, elems := (s.all.zip prods).map fun (x, ps) => stepElem s.e e1 x ps }

/-- A drained element as a pattern (09 R177). -/
def drainElem (f : Fmt) (e : Int) (x : Elem) : Nat :=
  match x.1 with
  | .nan => f.nan
  | .pinf => f.inf
  | .ninf => f.sign + f.inf
  | .fin => f.round .rne false 0 (x.2 < 0) x.2.natAbs e

def Slot.drain (s : Slot) (f : Fmt) (row col : Nat) : Nat := drainElem f s.e (s.elems.getD (64 * row + col) (.fin, 0))

/-! Tiles and formats (15 R279, R282 to R287). -/

/-- Elements along the reduction dimension, by the class of a format code; 0 for no format (15 R279, R283). -/
def fmtK (code : Nat) : Nat :=
  if code = 9 || code = 10 then 32
  else if code = 6 || code = 11 || code = 12 then 64
  else if code = 13 || code = 14 || code = 16 then 128
  else 0

/-- ESIZE of an operand's tiles. -/
def fmtEsize (code : Nat) : Nat :=
  if code = 16 then 1 else match fmtK code with | 32 => 4 | 64 => 3 | _ => 2

def fmtIsInt (code : Nat) : Bool := code = 6 || code = 14

/-- A format block that R283 accepts. -/
def FmtBlock.ok (f : FmtBlock) (bytes : List Byte) (sparse : Bool) : Bool :=
  let klog := if sparse then 2 * fmtK f.afmt else fmtK f.afmt
  fmtK f.afmt ≠ 0 && f.afmt ≠ 16 && fmtK f.bfmt = fmtK f.afmt
    && (f.bfmt = 16 || (if fmtIsInt f.afmt then f.bfmt = f.afmt else !fmtIsInt f.bfmt))
    && (f.abl = 0 || (4 ≤ f.abl && 2 ^ f.abl ≤ klog)) && (f.bbl = 0 || (4 ≤ f.bbl && 2 ^ f.bbl ≤ klog))
    && nat8 bytes 4 1 = sparse.toNat && nat8 bytes 5 3 = 0 && nat8 bytes 0x18 8 = 0

def FmtBlock.ofBytes (b : List Byte) : FmtBlock :=
  { afmt := nat8 b 0 1, bfmt := nat8 b 1 1, abl := nat8 b 2 1, bbl := nat8 b 3 1 }

/-- The value of an element of a format code. -/
def elemVal (code x : Nat) : FVal :=
  let ty := Ty.ofCode code
  if fmtIsInt code then
    let i := toInt true ty.bits x
    .num (i < 0) i.natAbs 0
  else (fmtOf ty).val x

/-- Weight n of a CB2 index (09 R152). -/
def cb2Weight (codebook : List W32) (index n : Nat) : FVal :=
  let ent := (codebook.getD (bitsN index 15 8) 0).toNat
  let u := bitsN ent (4 * n + 3) (4 * n)
  .num (u ≠ 0 && bitsN index n n = 1) u (-1)

/-- Element k of the vector at bytes 64i of a tile (15 R279). -/
def tileElem (code : Nat) (tile : List Byte) (i k : Nat) : FVal :=
  let w := (Ty.ofCode code).bits
  elemVal code (nat8 tile (64 * i) 64 / 2 ^ (w * k) % 2 ^ w)

/-- Element (k, j) of a B tile. -/
def tileB (code : Nat) (codebook : List W32) (tile : List Byte) (j k : Nat) : FVal :=
  if code = 16 then cb2Weight codebook (nat8 tile (32 * j + 2 * (k / 8)) 2) (k % 8) else tileElem code tile j k

/-- A block scale: its exponent, or NaN (09 R151). -/
def scaleOf (scales : List Byte) (bl n line k : Nat) : Option Int :=
  if bl = 0 then some 0
  else
    let b := (scales.getD (line * n + k / 2 ^ bl) 0).toNat
    if b = 255 then none else some ((b : Int) - 127)

/-- A product with its scales (15 R286; 09 R176). -/
def scaledProd (a b : FVal) (sa sb : Option Int) : FVal :=
  match sa, sb with
  | some x, some y =>
    match a.mul b with
    | .num n m e => .num n m (e + x + y)
    | v => v
  | _, _ => .nan

/-- The index of stored value s in row i (15 R287). -/
def metaIndex (md : List Byte) (K i s : Nat) : Nat :=
  (md.getD (i * (K / 4) + s / 4) 0).toNat / 2 ^ (2 * (s % 4)) % 4

/-- The products of element (i, j) of a step (15 R286, R287). -/
def MStep.prods (t : MStep) (codebook : List W32) (a b1 b2 : List Byte) (i j : Nat) : List FVal :=
  let f := t.fmt
  let K := fmtK f.afmt
  let klog := if t.mdata.isSome then 2 * K else K
  (List.range K).map fun q =>
    let k := match t.mdata with | none => q | some md => 4 * (q / 2) + metaIndex md K i q
    scaledProd (tileElem f.afmt a i q)
      (if k < K then tileB f.bfmt codebook b1 j k else tileB f.bfmt codebook b2 j (k - K))
      (scaleOf t.ascale f.abl (klog / 2 ^ f.abl) i k) (scaleOf t.bscale f.bbl (klog / 2 ^ f.bbl) j k)

/-! Units. -/

def State.munit (s : State) (u : Nat) : MUnit := s.units.getD u idleUnit
def State.setUnit (s : State) (u : Nat) (m : MUnit) : State := { s with units := s.units.set u m }
def MUnit.slot (m : MUnit) (k : Nat) : Slot := m.slots.getD k freeSlot
def MUnit.setSlot (m : MUnit) (k : Nat) (x : Slot) : MUnit := { m with slots := m.slots.set k x }

/-- The slot is allocated to the context (15 R289). -/
def Slot.allocated (x : Slot) (ctx : Nat) : Bool := x.ctx = some ctx && x.wait.isNone

/-- A context holds the unit (15 R277). -/
def MUnit.heldBy (m : MUnit) (ctx : Nat) : Bool :=
  m.slots.any (fun x => x.allocated ctx) || m.steps.any (fun t => t.ctx = ctx) || (m.a ++ m.b).any fun p => p.ctx = ctx

/-- The unit is held by a context other than this one. -/
def MUnit.heldByOther (m : MUnit) (ctx : Nat) : Bool :=
  m.slots.any (fun x => x.wait.isNone && x.ctx.isSome && x.ctx ≠ some ctx) || m.steps.any (fun t => t.ctx ≠ ctx)
    || (m.a ++ m.b).any fun p => p.ctx ≠ ctx

def MUnit.held (m : MUnit) : Bool :=
  m.slots.any (fun x => x.wait.isNone && x.ctx.isSome) || !m.steps.isEmpty || !(m.a ++ m.b).isEmpty

/-- Slots whose release has no step left to wait for become free (15 R289). -/
def MUnit.freeSlots (m : MUnit) : MUnit :=
  { m with slots := m.slots.map fun x =>
      match x.wait with
      | some ids => if m.steps.any fun t => ids.contains t.id then x else freeSlot
      | none => x }

/-- The lowest-numbered free slot (15 R288). -/
def MUnit.freeSlot? (m : MUnit) : Option Nat := m.slots.findIdx? fun x => x.ctx.isNone

/-- Allocates a slot, in its starting state. -/
def MUnit.allocate (m : MUnit) (k ctx : Nat) : MUnit := m.setSlot k { freeSlot with ctx := some ctx }

def MUnit.push (m : MUnit) (t : MStep) : MUnit := { m with steps := m.steps ++ [t] }
def MUnit.full (m : MUnit) : Bool := Config.stepQueue ≤ m.steps.length

/-- Parked groups in their order of parking. -/
def State.parkedBy (s : State) (p : Park → Bool) : List Group :=
  sortBy (fun a b => a.seq < b.seq) (s.groups.filter fun g => match g.st with | .parked w => p w | _ => false)

def Park.onSlot (u : Nat) : Park → Bool | .accslot v _ _ => u = v | _ => false
def Park.onSteps (u : Nat) : Park → Bool | .steps v _ => u = v | _ => false
def Park.onCbld : Park → Bool | .cbld _ _ => true | _ => false

/-- The controller has fenced a matrix unit (19 R347). -/
def State.unitFenced (s : State) (u : Nat) : Bool := s.fenced (unitCode (u / 32) 3 (u % 32))

/-- A step enters the queue of a unit on behalf of a group. -/
def State.queueStep (s : State) (u : Nat) (t : MStep) : State := s.setUnit u ((s.munit u).push t)

/-- Grants the free slots of a unit to the groups that wait for one, oldest first (15 R276, R288). -/
def State.grantSlots (s : State) (u : Nat) : Nat → State
  | 0 => s
  | n + 1 =>
    match (s.parkedBy (Park.onSlot u)).head?, (s.munit u).freeSlot? with
    | some g, some k =>
      match g.st with
      | .parked (.accslot _ d t) =>
        if (s.munit u).heldByOther g.id.ctx || s.unitFenced u then s
        else
          let s1 := s.setUnit u ((s.munit u).allocate k g.id.ctx)
          let g1 := { putDest g d (BitVec.ofNat 64 k) with granted := some (u, k), st := .parked (.steps u { t with slot := k }) }
          State.grantSlots (s1.setGroup g1) u n
      | _ => s
    | _, _ => s

/-- Queues the steps of the groups that wait for room, oldest first (15 R276). -/
def State.grantSteps (s : State) (u : Nat) : Nat → State
  | 0 => s
  | n + 1 =>
    if (s.munit u).full || s.unitFenced u then s
    else match (s.parkedBy (Park.onSteps u)).head? with
      | none => s
      | some g =>
        match g.st with
        | .parked (.steps _ t) => State.grantSteps ((s.queueStep u t).complete { g with granted := none }) u n
        | _ => s

/-- A trap raised by the instruction on which a group is parked. -/
def State.trapParked (s : State) (g : Group) (t : Trap) : State :=
  s.trapIssued g g.ilen g.ie [] t

/-- The 256 entries of a codebook. -/
def codebookOf (b : List Byte) : List W32 := (List.range 256).map fun e => BitVec.ofNat 32 (nat8 b (4 * e) 4)

/-- The second half of CBLD: the table is read and every copy of the codebook takes it (15 R296). While a page of the table
is not to be reached yet, a group that was parked on its steps issues the instruction again. -/
def State.loadCodebook (s : State) (g : Group) (a : W64) (trap : Trap → State) (done : State → State) : State :=
  match s.readSpan g.id a 4 256 with
  | .prot x => trap { cause := .prot, info := x }
  | .miss ms => s.missing g ms
  | .wait => s.setGroup (match g.st with | .parked _ => { g with st := .ready, since := s.now } | _ => g)
  | .bad _ => trap { cause := .uncorr }
  | .ok b => done ((s.noteSpan g.id a 4 256).updCtx g.id.ctx fun c => { c with codebook := codebookOf b })

/-- Finishes the CBLDs whose earlier steps have all completed (15 R296). -/
def State.finishCblds (s : State) : State :=
  (s.parkedBy Park.onCbld).foldl (fun s g =>
    match g.st with
    | .parked (.cbld ids a) =>
      if s.anyStep fun t => ids.contains t.id then s
      else s.loadCodebook g a (fun t => s.trapParked g t) fun s => s.complete g
    | _ => s) s

/-- A saved state of a context that is back enters its unit when no other context holds it (19 R345), and no fence (19 R347). -/
def State.enterUnit (s : State) (u : Nat) : State :=
  if (s.munit u).held || s.fenced (unitCode (u / 32) 3 (u % 32)) then s
  else match s.savedUnits.find? fun x =>
      (match s.ctx? x.ctx with
        | some c => c.st = .resident && (s.clusters c.part)[x.pos]? = some (u / 32) && x.unit = u % 32
        | none => false) with
    | none => s
    | some x => { s.setUnit u x.state with savedUnits := s.savedUnits.erase x }

/-- What follows when a unit's slots, queue or streams change. DEDUCED, log 62. -/
def State.unitService (s : State) (u : Nat) : State :=
  let s1 := (s.setUnit u (s.munit u).freeSlots).enterUnit u
  let n := s1.groups.length
  ((s1.grantSlots u n).grantSteps u n).finishCblds

/-! Steps (15 R278, R281). -/

/-- B tiles of a step. -/
def MStep.nb (t : MStep) : Nat := if t.mdata.isSome then 2 else 1

/-- The tiles of a step stand whole at the heads of its streams. -/
def MUnit.ready (m : MUnit) (t : MStep) : Bool :=
  (match m.a with | p :: _ => p.entered | [] => false)
    && t.nb ≤ m.b.length && (m.b.take t.nb).all fun p => p.entered

/-- MATRIX_STEP_BEGIN. -/
def execMatrixStepBegin (unit : Nat) (s : State) : Out :=
  let m := s.munit unit
  match m.steps with
  | [] => .next s
  | t :: rest =>
    if unit < 128 && !t.begun && m.ready t then .next (s.setUnit unit { m with steps := { t with begun := true } :: rest })
    else .next s

/-- The step's effect on its slot: products, or NAN everywhere for tiles of a wrong class (15 R281, R286). -/
def MStep.effect (t : MStep) (codebook : List W32) (m : MUnit) (x : Slot) : Slot × Bool :=
  let a := m.a.head?
  let bs := m.b.take t.nb
  let ok := (match a with | some p => p.esize = fmtEsize t.fmt.afmt | none => false)
    && bs.all fun p => p.esize = fmtEsize t.fmt.bfmt
  if !ok then ({ x with elems := List.replicate 8192 (.nan, 0), bad := [] }, false)
  else
    let bytes (p : Option TilePos) : List Byte := match p with | some p => p.bytes | none => []
    (x.step ((List.range 8192).map fun e => t.prods codebook (bytes a) (bytes bs.head?) (bytes bs[1]?) (e / 64) (e % 64)),
      true)

/-- MATRIX_STEP_COMPLETE: the step that has begun takes effect and consumes its tiles. -/
def execMatrixStepComplete (unit : Nat) (s : State) : Out :=
  let m := s.munit unit
  match m.steps with
  | [] => .next s
  | t :: rest =>
    if unit < 128 && t.begun && m.ready t then
      let cb := match s.ctx? t.ctx with | some c => c.codebook | none => []
      let (x, ok) := t.effect cb m (m.slot t.slot)
      let m1 := { (m.setSlot t.slot x) with steps := rest, a := m.a.drop 1, b := m.b.drop t.nb }
      let s1 := s.setUnit unit m1
      let s2 := if ok then s1 else
        s1.reportCtx t.ctx (engineReport t.ctx 4 0 0 0 (unit % 32) t.gid.task 0 (s.posOf (unit / 32)))
      .next (s2.unitService unit)
    else .next s

/-! MMA and MMAS (15 R291). -/

/-- Unit, slot and stream of a control word (15 R285). -/
def ctlUnit (c : W64) : Nat := c.toNat % 32
def ctlSlot (c : W64) : Nat := bitsN c.toNat 11 8
def ctlB (c : W64) : Bool := c.getLsbD 12

def Group.unitOf (g : Group) (c : W64) : Nat := g.site.cluster * 32 + ctlUnit c

/-- The unit of a control word is disabled. -/
def State.unitOff (s : State) (g : Group) (c : W64) : Bool := s.off g.site.cluster 3 (ctlUnit c)

/-- k pieces of w bytes at a reference of R243, in window form or in global form. -/
def State.readRef (s : State) (g : Group) (a : W64) (w k : Nat) : Rd :=
  if a.msb then
    let off := a.toNat % 2 ^ 26
    if bitsN a.toNat 62 26 ≠ 0 then .prot a
    else
      let cl := g.site.cluster
      let at_ (j : Nat) : W64 := a + BitVec.ofNat 64 (w * j)
      match (List.range k).find? fun j => s.cwProt g.id.ctx cl (off + w * j) w with
      | some j => .prot (at_ j)
      | none =>
        if s.winWaits cl off (w * k) then .wait
        else match (List.range k).find? fun j => s.badScratch cl (off + w * j) w with
        | some j => .bad (at_ j)
        | none => .ok (s.readScratch cl off (w * k))
  else s.readSpan g.id a w k

/-- The lines that n bytes at a reference ask for. -/
def State.noteRef (s : State) (g : Group) (a : W64) (n : Nat) : State := if a.msb then s else s.noteSpan g.id a 1 n

/-- The lines that the scales of a format block ask for. -/
def State.noteScales (s : State) (g : Group) (f : FmtBlock) (b : List Byte) (klog : Nat) : State :=
  let one (s : State) (bl off lines : Nat) : State :=
    if bl = 0 then s else s.noteRef g (word64 b off) (lines * (klog / 2 ^ bl))
  one (one s f.abl 8 128) f.bbl 16 64

/-- The bytes of a read, or what the instruction comes to. `seen` is the state with the lines that it has read before: a trap leaves
them in the L1 (12 R233). -/
def State.withRd (s : State) (g : Group) (h : Hdr) (r : Rd) (k : List Byte → Out) (seen : State := s) : Out :=
  match r with
  | .prot x => .next (seen.trap g h { cause := .prot, info := x })
  | .miss ms => .next (s.missing g ms)
  | .wait => .next s
  | .bad _ => .next (seen.trap g h { cause := .uncorr })
  | .ok b => k b

/-- The scales of a format block. -/
def State.readScales (s : State) (g : Group) (f : FmtBlock) (b : List Byte) (klog : Nat) : Rd :=
  let one (bl off lines : Nat) : Rd := if bl = 0 then .ok [] else s.readRef g (word64 b off) 1 (lines * (klog / 2 ^ bl))
  (one f.abl 8 128).then (one f.bbl 16 64)

/-- The last three lines of R291: a slot for .new, then a place in the queue. A .new that issues again after its group was saved with a
slot granted and no step queued goes on with that slot where it names the same unit, and is granted one more on another (DESIGN
CHOICE, log 134). -/
def State.placeStep (s : State) (g : Group) (h : Hdr) (u : Nat) (d : Option Opd) (t : MStep) : State :=
  let m := s.munit u
  let queue (s : State) (g : Group) (t : MStep) : State :=
    if (s.munit u).full || !(s.parkedBy (Park.onSteps u)).isEmpty then s.park g h (.steps u t)
    else (s.queueStep u t).retire { g with granted := none } h
  match d with
  | none => queue s g t
  | some d =>
    match g.granted with
    | some (v, k) =>
      if v = u then queue s g { t with slot := k } else fresh m d queue
    | none => fresh m d queue
where
  fresh (m : MUnit) (d : Opd) (queue : State → Group → MStep → State) : State :=
    match m.freeSlot? with
    | some k =>
      if (s.parkedBy (Park.onSlot u)).isEmpty then
        queue (s.setUnit u (m.allocate k g.id.ctx)) { putDest g d (BitVec.ofNat 64 k) with granted := some (u, k) }
          { t with slot := k }
      else s.park g h (.accslot u d t)
    | none => s.park g h (.accslot u d t)

/-- MMA and MMAS, with the destination of .new and the metadata of MMAS, whose address may have either form of 13 R243 as that of the
format block may (DESIGN CHOICE, log 121). -/
def State.mma (s : State) (i : Instr) (d : Option Opd) (ctl fb : Opd) (md : Option Opd) : Out :=
  s.issue i fun g h =>
    let c := rd64 g h ctl
    let u := g.unitOf c
    let m := s.munit u
    if s.unitOff g c then .next (s.trap g h { cause := .ill })
    else if s.unitFenced u then .next s
    else if m.heldByOther g.id.ctx then .next (s.park g h (.unit u))
    else if d.isNone && !(m.slot (ctlSlot c)).allocated g.id.ctx then .next (s.trap g h { cause := .accslot })
    else
      let a := rd64 g h fb
      if a.toNat % 32 ≠ 0 then .next (s.trap g h { cause := .align, info := a })
      else s.withRd g h (s.readRef g a 8 4) fun b =>
        let f := FmtBlock.ofBytes b
        let s0 := s.noteRef g a 32
        if !f.ok b md.isSome then .next (s0.trap g h { cause := .ill })
        else
          let K := fmtK f.afmt
          s.withRd g h (s.readScales g f b (if md.isSome then 2 * K else K)) (seen := s0) fun sc =>
            let na := if f.abl = 0 then 0 else 128 * ((if md.isSome then 2 * K else K) / 2 ^ f.abl)
            let t : MStep :=
              { id := s.tick, ctx := g.id.ctx, gid := g.id, slot := ctlSlot c, fmt := f, ascale := sc.take na
                bscale := sc.drop na, mdata := none }
            let s1 := s0.noteScales g f b (if md.isSome then 2 * K else K)
            match md with
            | none => .next (s1.placeStep g h u d t)
            | some x =>
              let p := rd64 g h x
              if p.toNat % 64 ≠ 0 then .next (s1.trap g h { cause := .align, info := p })
              else s.withRd g h (s.readRef g p 1 (128 * (K / 4))) (seen := s1) fun mb =>
                .next ((s1.noteRef g p (128 * (K / 4))).placeStep g h u d { t with mdata := some mb })

def execMma (h : Hdr) (a b : Opd) (s : State) : Out := s.mma (.mma h a b) none a b none

def execMmaNew (h : Hdr) (d a b : Opd) (s : State) : Out := s.mma (.mmaNew h d a b) (some d) a b none

def execMmas (h : Hdr) (a b c : Opd) (s : State) : Out := s.mma (.mmas h a b c) none a b (some c)

def execMmasNew (h : Hdr) (d a b c : Opd) (s : State) : Out := s.mma (.mmasNew h d a b c) (some d) a b (some c)

/-! Releasing and draining (15 R292, R293). -/

/-- ACCREL (15 R292). A slot whose saved state still waits for the unit, which another context holds, is none of the unit's: ACCSLOT
(DESIGN CHOICE, log 133). -/
def execAccrel (h : Hdr) (a : Opd) (s : State) : Out :=
  s.issue (.accrel h a) fun g h =>
    let c := rd64 g h a
    let u := g.unitOf c
    let m := s.munit u
    let k := ctlSlot c
    if s.unitOff g c then .next (s.trap g h { cause := .ill })
    else if s.unitFenced u then .next s
    else if !(m.slot k).allocated g.id.ctx then .next (s.trap g h { cause := .accslot })
    else
      let ids := (m.steps.filter fun t => t.slot = k).map fun t => t.id
      .next (((s.retire g h).setUnit u (m.setSlot k { m.slot k with wait := some ids })).unitService u)

/-- ACCDR: the read is made at the unit later. -/
def execAccdr (h : Hdr) (ty : Ty) (d a b : Opd) (s : State) : Out :=
  s.issue (.accdr h ty d a b) fun g h =>
    let c := rd64 g h a
    if s.vectorOnly g.id || s.unitOff g c then .next (s.trap g h { cause := .ill })
    else match lanesOf g h with
      | [] => .next (s.retire g h)
      | L :: ls =>
        .next (s.addLoad g h (ldst d (if ty = .f32 then 2 else 1))
          (.acc (g.unitOf c) (ctlSlot c) (rd32 g h b % 128) (L :: ls) (ty = .bf16)))

/-- The registers of a load become full. -/
def Group.markFull (g : Group) : LDst → Group
  | .v n regs => { g with full := (List.range regs).foldl (fun f j => f.set (n + j) true) g.full }
  | _ => g

/-- A load ends with a trap raised after issue: its registers keep their contents, and the group traps before its next
instruction (07 R146). DEDUCED, log 33. -/
def State.failLoad (s : State) (l : Load) (t : Trap) : State :=
  let s1 := { s with loads := s.loads.filter fun x => x.id ≠ l.id }
  s1.updGroup l.gid fun g =>
    { g.markFull l.dst with pend := g.pend ++ [(l.pc, t)] }

/-- A row of a slot as the lanes of an ACCDR receive it. -/
def Slot.row (x : Slot) (row : Nat) (lanes : List Nat) (bf : Bool) : List (Nat × W64) :=
  lanes.map fun L =>
    let f := fmtOf (if bf then .bf16 else .f32)
    (L, BitVec.ofNat 64 (x.drain f row (2 * L) + 2 ^ (if bf then 16 else 32) * x.drain f row (2 * L + 1)))

/-- A drain of the same group from the same slot that was issued before is still to read (07 R144; 12 R231). -/
def State.drainBehind (s : State) (l : Load) (unit slot : Nat) : Bool :=
  (s.loads.takeWhile fun x => x.id ≠ l.id).any fun x => x.gid = l.gid
    && match x.kind with | .acc u k _ _ _ => u = unit && k = slot | _ => false

/-- ACCDR_READ: the n-th drain's read at its unit. A slot whose saved state still waits for the unit, which another context holds, is
none of the unit's: ACCSLOT (DESIGN CHOICE, log 133). -/
def execAccdrRead (n : Nat) (s : State) : Out :=
  match (s.loads.filter fun l => match l.kind with | .acc .. => true | _ => false)[n]? with
  | none => .next s
  | some l =>
    match l.kind with
    | .acc u k row lanes bf =>
      let x := (s.munit u).slot k
      if s.drainBehind l u k then .next s
      else if !x.allocated l.gid.ctx then .next (s.failLoad l { cause := .accslot })
      else if x.bad.contains row then .next (s.failLoad l { cause := .uncorr, lanes := maskOf lanes })
      else
        .next { s with loads := s.loads.map fun y =>
          if y.id = l.id then { y with kind := .mem (x.row row lanes bf) none } else y }
    | _ => .next s

/-! Compression and codebooks (15 R294 to R298). -/

/-- |x| of an element, none for a NaN. -/
def magOf (ty : Ty) (x : Nat) : Option FVal :=
  match elemVal ty.code x with
  | .nan => none
  | .inf _ => some (.inf false)
  | .num _ m e => some (.num false m e)

/-- An element ranks above another by its value alone. -/
def ranksAbove (ty : Ty) (x y : Nat) : Bool :=
  match magOf ty x, magOf ty y with
  | none, none => false
  | none, some _ => true
  | some _, none => false
  | some a, some b => a.cmp b = .gt

/-- The two kept elements of a run, as indices in the run in ascending order (15 R294). -/
def keptOf (ty : Ty) (e : Nat → Nat) : List Nat :=
  sortBy (· < ·) ((sortBy (fun i j => ranksAbove ty (e i) (e j)) [0, 1, 2, 3]).take 2)

/-- Kept elements of a 64-bit value: run and index in the run, in order. -/
def keptAll (ty : Ty) (x : Nat) : List (Nat × Nat) :=
  (List.range (16 / ty.bits)).flatMap fun q => (keptOf ty fun t => x / 2 ^ (ty.bits * (4 * q + t)) % 2 ^ ty.bits).map fun t => (q, t)

def execCmpsVal (h : Hdr) (ty : Ty) (d a : Opd) (s : State) : Out :=
  s.perLane (.cmpsVal h ty d a) d 32 false fun g h L =>
    let x := rdN g h 64 a L
    ((keptAll ty x).zipIdx.map fun ((q, t), i) =>
      x / 2 ^ (ty.bits * (4 * q + t)) % 2 ^ ty.bits * 2 ^ (ty.bits * i)).foldl (· + ·) 0

def execCmpsMeta (h : Hdr) (ty : Ty) (d a : Opd) (s : State) : Out :=
  s.perLane (.cmpsMeta h ty d a) d 32 false fun g h L =>
    ((keptAll ty (rdN g h 64 a L)).zipIdx.map fun ((_, t), i) => t * 2 ^ (2 * i)).foldl (· + ·) 0

/-- A weight as a pattern of a format. -/
def weightPat (f : Fmt) (codebook : List W32) (x n : Nat) : Nat := f.ofVal .rne false 0 (cb2Weight codebook x n)

/-- CBDEC (15 R298). -/
def execCbdec (h : Hdr) (ty : Ty) (d a b : Opd) (s : State) : Out :=
  s.perLane (.cbdec h ty d a b) d 32 false fun g h L =>
    let cb := match s.ctx? g.id.ctx with | some c => c.codebook | none => []
    let x := rdN g h 16 a L
    let k := rdN g h 32 b L
    let w (n : Nat) : Nat := weightPat (fmtOf ty) cb x n
    match ty with
    | .f32 => w (k % 8)
    | .e4m3 => ((List.range 4).map fun n => w (4 * (k % 2) + n) * 2 ^ (8 * n)).foldl (· + ·) 0
    | _ => w (2 * (k % 4)) + 65536 * w (2 * (k % 4) + 1)

/-- Identifiers of the context's steps: on every unit of its partition, and still to enter one (19 R345). -/
def State.stepIds (s : State) (ctx : Nat) : List Nat :=
  (s.units ++ s.savedUnits.map fun x => x.state).flatMap fun u => (u.steps.filter fun t => t.ctx = ctx).map fun t => t.id

/-- CBLD (15 R296). -/
def execCbld (h : Hdr) (a : Opd) (s : State) : Out :=
  s.issue (.cbld h a) fun g h =>
    let va := rd64 g h a
    if va.toNat % 64 ≠ 0 then .next (s.trap g h { cause := .align, info := va })
    else
      let ids := s.stepIds g.id.ctx
      if ids.isEmpty then .next (s.loadCodebook g va (fun t => s.trap g h t) fun s => s.retire g h)
      else .next (s.park g h (.cbld ids va))

/-! Streams (15 R299). -/

def MUnit.stream (m : MUnit) (b : Bool) : List TilePos := if b then m.b else m.a
def MUnit.setStream (m : MUnit) (b : Bool) (ps : List TilePos) : MUnit := if b then { m with b := ps } else { m with a := ps }

/-- Tiles that have entered a stream, and positions reserved whose tiles have not. -/
def MUnit.counts (m : MUnit) (b : Bool) : Nat × Nat :=
  ((m.stream b).countP fun p => p.entered, (m.stream b).countP fun p => !p.entered)

/-- STRM.cnt. -/
def execStrmCnt (h : Hdr) (d a : Opd) (s : State) : Out :=
  s.issue (.strmCnt h d a) fun g h =>
    let c := rd64 g h a
    let m := s.munit (g.unitOf c)
    if s.unitOff g c then .next (s.trap g h { cause := .ill })
    else if s.unitFenced (g.unitOf c) then .next s
    else if m.heldByOther g.id.ctx then .next (s.park g h (.unit (g.unitOf c)))
    else
      let (present, reserved) := m.counts (ctlB c)
      .next (s.retire (putDest g d (BitVec.ofNat 64 (8 * reserved + present))) h)

/-- STRM.drop. DEDUCED, log 63. -/
def execStrmDrop (h : Hdr) (d a b : Opd) (s : State) : Out :=
  s.issue (.strmDrop h d a b) fun g h =>
    let c := rd64 g h a
    let u := g.unitOf c
    let m := s.munit u
    let n := rd32 g h b
    if s.unitOff g c then .next (s.trap g h { cause := .ill })
    else if s.unitFenced u then .next s
    else if m.heldByOther g.id.ctx then .next (s.park g h (.unit u))
    else if n = 0 then .next (s.retire (putDest g d 0) h)
    else if !m.steps.isEmpty then .next (s.park g h (.drop u))
    else
      let k := min n (m.counts (ctlB c)).1
      .next (((s.retire (putDest g d (BitVec.ofNat 64 k)) h).setUnit u
        (m.setStream (ctlB c) ((m.stream (ctlB c)).drop k))).unitService u)

end Sys2Proof.Machine
end

