-- ==== Sys2Proof/Machine/Qrs.lean ====
section
/-! DEFINITION. The quasi-random sequence unit (09 R178 to R185). -/

namespace Sys2Proof.Machine

/-! The standard set (09 R181). -/

/-- Multiplies by x modulo a polynomial of degree n. -/
def polyStep (n p x : Nat) : Nat := if 2 ^ n ≤ 2 * x then Nat.xor (2 * x) p else 2 * x

/-- Steps until the powers of x return to 1, at most the fuel. -/
def polyOrder (n p x : Nat) : Nat → Nat
  | 0 => 0
  | k + 1 => if polyStep n p x = 1 then 1 else 1 + polyOrder n p (polyStep n p x) k

/-- A polynomial of degree n over GF(2) with constant term 1 is primitive: x has order 2^n − 1. -/
def isPrimitive (n p : Nat) : Bool := polyOrder n p 1 (2 ^ n) = 2 ^ n - 1

/-- Primitive polynomials with their degrees, by degree and then by number; degrees up to 11 give 336 of them. -/
def primitives : List (Nat × Nat) :=
  (List.range 11).flatMap fun j =>
    (((List.range (2 ^ j)).map fun t => 2 ^ (j + 1) + 2 * t + 1).filter (isPrimitive (j + 1))).map fun p => (j + 1, p)

/-- The next odd integer of the recurrence; earlier ones stand latest first. -/
def nextOdd (n p : Nat) (prev : List Nat) : Nat :=
  (List.range (n - 1)).foldl
    (fun acc j => if p.testBit (n - 1 - j) then Nat.xor acc (2 ^ (j + 1) * prev.getD j 0) else acc)
    (Nat.xor (2 ^ n * prev.getD (n - 1) 0) (prev.getD (n - 1) 0))

/-- m_1 to m_k, latest first. -/
def oddSeq (n p : Nat) : Nat → List Nat
  | 0 => []
  | k + 1 => let prev := oddSeq n p k; (if k < n then 1 else nextOdd n p prev) :: prev

/-- Direction numbers of a standard dimension. -/
def stdDir (d : Nat) : List W32 :=
  let ms := if d = 0 then List.replicate 32 1 else match primitives.getD (d - 1) (1, 3) with | (n, p) => (oddSeq n p 32).reverse
  ms.zipIdx.map fun (m, k) => BitVec.ofNat 32 (m * 2 ^ (31 - k))

/-- A dimension of the standard set. -/
def stdDim (d : Nat) : QDim :=
  { dir := stdDir d, row := (List.range 32).map fun j => BitVec.ofNat 32 (2 ^ (31 - j)), shift := 0 }

/-- A dimension from its record (09 R180). -/
def QDim.ofBytes (b : List Byte) : QDim :=
  let words (off : Nat) : List W32 := (List.range 32).map fun k => BitVec.ofNat 32 (nat8 b (off + 4 * k) 4)
  { dir := words 0, row := words 0x80, shift := BitVec.ofNat 32 (nat8 b 0x100 4) }

/-! The sequence (09 R184). -/

/-- The value of an index before scrambling. -/
def QDim.point (q : QDim) (i : W32) : W32 :=
  let gc := i ^^^ (i >>> 1)
  lanes32.foldl (fun acc k => if gc.getLsbD k then acc ^^^ q.dir.getD k 0 else acc) 0

/-- Row j of the matrix as it counts: the bits above the diagonal digit's place, and a diagonal of 1 (09 R180). -/
def QDim.rowAt (q : QDim) (j : Nat) : W32 :=
  let diag : Nat := 2 ^ (31 - j)
  BitVec.ofNat 32 ((q.row.getD j 0).toNat / (2 * diag) * (2 * diag) + diag)

def parity (x : W32) : Bool := lanes32.foldl (fun b k => b != x.getLsbD k) false

/-- (M · y) XOR s. -/
def QDim.scramble (q : QDim) (y : W32) : W32 :=
  lanes32.foldl (fun acc j => if parity (q.rowAt j &&& y) then acc ^^^ BitVec.ofNat 32 (2 ^ (31 - j)) else acc) 0 ^^^ q.shift

/-- The point of an index in a dimension of a context. -/
def Ctx.qrs (c : Ctx) (i : W32) (dim : Nat) : W32 :=
  match c.qdims[dim]? with
  | none => 0
  | some q => if c.scramble then q.scramble (q.point i) else q.point i

/-! Instructions. -/

/-- Replaces the dimensions from first on; n rises (09 R182). -/
def Ctx.loadDims (c : Ctx) (first : Nat) (ds : List QDim) : Ctx :=
  { c with qdims := c.qdims.take first ++ ds ++ c.qdims.drop (first + ds.length), qn := max c.qn (first + ds.length) }

/-- QLD (09 R182). -/
def execQld (h : Hdr) (a b c : Opd) (s : State) : Out :=
  s.issue (.qld h a b c) fun g h =>
    let first := rd32 g h b
    let count := rd32 g h c
    let n := match s.ctx? g.id.ctx with | some x => x.qn | none => 0
    if count = 0 then .next (s.retire g h)
    else if n < first || 256 < first + count then .next (s.trap g h { cause := .qrsdim })
    else if a.isZ then
      .next ((s.retire g h).updCtx g.id.ctx fun x => x.loadDims first ((List.range count).map fun j => stdDim (first + j)))
    else
      let va := rd64 g h a
      if va.toNat % 16 ≠ 0 then .next (s.trap g h { cause := .align, info := va })
      else s.withRd g h (s.readSpan g.id va 4 (68 * count)) fun bs =>
        .next (((s.noteSpan g.id va 4 (68 * count)).retire g h).updCtx g.id.ctx fun x =>
          x.loadDims first ((List.range count).map fun j => QDim.ofBytes ((bs.drop (272 * j)).take 272)))

/-- QSET (09 R183). -/
def execQset (h : Hdr) (a : Opd) (s : State) : Out :=
  s.issue (.qset h a) fun g h => .next ((s.retire g h).updCtx g.id.ctx fun x => { x with scramble := rd32 g h a % 2 = 1 })

/-- The context whose state the quasi-random unit of a site holds. -/
def State.qunit (s : State) (site : Site) : Option Nat :=
  match site with
  | .core k => (s.qunits.find? fun q => q.1 = k).map (·.2)
  | .cc _ => none

/-- A core's unit is asked for a context's state. -/
def State.askQ (s : State) (site : Site) (ctx : Nat) : State :=
  match site with
  | .core k => if s.qloads.contains (k, ctx) then s else { s with qloads := s.qloads ++ [(k, ctx)] }
  | .cc _ => s

/-- QRS: held in its slot while the unit loads its context's state (09 R179, R184). -/
def execQrs (h : Hdr) (ty : Ty) (d a b : Opd) (s : State) : Out :=
  s.issue (.qrs h ty d a b) fun g h =>
    match s.ctx? g.id.ctx with
    | none => .next s
    | some c =>
      if s.qunit g.site ≠ some c.no then .next (s.askQ g.site c.no)
      else
        let bad := (lanesOf g h).filter fun L => c.qn ≤ rdN g h 32 b L
        if !bad.isEmpty then .next (s.trap g h { cause := .qrsdim, lanes := maskOf bad })
        else
          let f (L : Nat) : Nat :=
            let x := (c.qrs (BitVec.ofNat 32 (rdN g h 32 a L)) (rdN g h 32 b L)).toNat
            if ty = .f32 then (fmtOf .f32).round .rne false 0 false (x / 256) (-24) else x
          .next (s.retire (g.result h d 32 false (forLanes (lanesOf g h) f)) h)

/-- QRS_STATE_LOAD: the unit of a core takes the state of the context that was asked for first (09 R179). How two contexts on one core
share the unit is not given: a state that is asked for replaces the one that is there, whether or not a QRS of that context has
issued meanwhile (DESIGN CHOICE, log 113). -/
def execQrsStateLoad (core : Nat) (s : State) : Out :=
  match s.qloads.find? fun q => q.1 = core with
  | none => .next s
  | some q =>
    .next { s with qloads := s.qloads.erase q, qunits := (s.qunits.filter fun x => x.1 ≠ core) ++ [q] }

end Sys2Proof.Machine
end

