-- ==== Sys2Proof/Machine/Fabric.lean ====
section
/-! DEFINITION. The job grid, send-allowance slots, remote operations, the switches, landings, acknowledgements and
responses (17 R301 to R329). -/

namespace Sys2Proof.Machine

/-! Patterns (17 R303 to R305). -/

/-- The field of an axis, and its parts. -/
def axisField (pat : W64) (a : Nat) : Nat := bitsN pat.toNat (12 * a + 11) (12 * a)
def axMode (f : Nat) : Nat := bitsN f 11 10
def axHi (f : Nat) : Nat := bitsN f 9 5
def axLo (f : Nat) : Nat := f % 32

def patAck (pat : W64) : Bool := pat.getLsbD 61
def patNself (pat : W64) : Bool := pat.getLsbD 60

/-- A field of a declared axis is good (17 R304). -/
def axisOk (size f : Nat) : Bool :=
  match axMode f with
  | 0 => axHi f = 0 && axLo f < size
  | 1 => axLo f ≤ axHi f && axHi f < size
  | _ => axHi f = 0 && axLo f = 0

/-- A pattern is good for the axis sizes of a job (17 R304). -/
def patOk (sizes : List Nat) (pat : W64) : Bool :=
  bitsN pat.toNat 63 62 = 0 && (List.range 5).all fun a =>
    match sizes[a]? with
    | some n => axisOk n (axisField pat a)
    | none => axisField pat a = 0

/-- The box of a pattern that a sender at `coord` reads (17 R305). -/
def boxOf (sizes coord : List Nat) (pat : W64) : Box :=
  sizes.zipIdx.map fun (n, a) =>
    let f := axisField pat a
    match axMode f with
    | 0 => (axLo f, axLo f)
    | 1 => (axLo f, axHi f)
    | 2 => (0, n - 1)
    | _ => (coord.getD a 0, coord.getD a 0)

def boxCount (b : Box) : Nat := b.foldl (fun n (lo, hi) => n * (hi + 1 - lo)) 1

/-- The common part of two boxes; none when it is empty. -/
def meet (a b : Box) : Option Box :=
  let c := (a.zip b).map fun ((l1, h1), (l2, h2)) => (max l1 l2, min h1 h2)
  if c.all fun (lo, hi) => lo ≤ hi then some c else none

/-- The devices of a box, as coordinates in ascending order. -/
def coordsOf : Box → List (List Nat)
  | [] => [[]]
  | (lo, hi) :: rest => (List.range (hi + 1 - lo)).flatMap fun j => (coordsOf rest).map fun c => (lo + j) :: c

/-- The resolved pattern: a self field becomes an exact one (17 R305). -/
def resolvePat (sizes coord : List Nat) (pat : W64) : W64 :=
  sizes.zipIdx.foldl (fun p (_, a) =>
    if axMode (axisField pat a) = 3 then
      BitVec.ofNat 64 (p.toNat - 0xC00 * 2 ^ (12 * a) + coord.getD a 0 * 2 ^ (12 * a))
    else p) pat

/-- The derived count (17 R305). -/
def derived (sizes coord : List Nat) (pat : W64) : Nat :=
  let b := boxOf sizes coord pat
  boxCount b - (if patNself pat && inBox coord b then 1 else 0)

def State.place (s : State) (part : Nat) : Place5 := s.places.getD part noPlace
def Place5.ok (p : Place5) (pat : W64) : Bool := patOk p.sizes pat
def Place5.box (p : Place5) (pat : W64) : Box := boxOf p.sizes p.coord pat
def Place5.count (p : Place5) (pat : W64) : Nat := derived p.sizes p.coord pat

/-- Every declared axis is exact or self, and NSELF is clear (17 R314, R319). -/
def Place5.single (p : Place5) (pat : W64) : Bool :=
  !patNself pat && p.sizes.zipIdx.all fun (_, a) => axMode (axisField pat a) = 0 || axMode (axisField pat a) = 3

/-! Slots (17 R306 to R309). -/

/-! The expansion at the switches (17 R327). -/

/-- The device-side boxes of a switch cover a reach: they are disjoint, so their parts of it add up. -/
def coversBox (w : Switch) (reach : Box) : Bool :=
  boxCount reach ≤ (w.ports.map fun p => match meet reach p.1 with | some b => boxCount b | none => 0).foldl (· + ·) 0

/-- The port of a switch that leads to a neighbour; none is the outward port. -/
def portTo (w : Switch) (t : Toward) : Option Nat := w.ports.findIdx? fun p => p.2 = t

/-- What a switch sends for a copy of a reach that came by a port: to other switches, each with the port by which it comes there and
its reach; and to devices. -/
def fanOut (net : List Switch) (n : Nat) (x : Option Nat) (reach : Box) : List (Nat × Option Nat × Box) × List (List Nat) :=
  match net[n]? with
  | none => ([], [])
  | some w =>
    let toSwitch (m : Nat) (b : Box) : Nat × Option Nat × Box :=
      (m, match net[m]? with | some v => portTo v (.switch n) | none => none, b)
    let down := w.ports.zipIdx.filterMap fun (p, i) =>
      if x = some i then none else (meet reach p.1).map fun b => (p.2, b)
    let up := if x = none || coversBox w reach then [] else match w.out with | some m => [toSwitch m reach] | none => []
    (down.filterMap (fun (t, b) => match t with | .switch m => some (toSwitch m b) | .device _ => none) ++ up,
      down.filterMap fun (t, b) => match t with | .device _ => some (b.map (·.1)) | .switch _ => none)

/-- Where an operation enters the fabric: the switch that the port is attached to, with the port by which it comes there; nowhere when
no other device lies in the reach. -/
def Place5.entry (p : Place5) (reach : Box) : Option (Nat × Option Nat) :=
  match p.attach with
  | none => none
  | some n =>
    if boxCount reach ≤ (inBox p.coord reach).toNat then none
    else some (n, some (match p.switches[n]? with | some w => (portTo w (.device p.coord)).getD w.ports.length | none => 0))

/-- The switches that a copy and what is sent for it still come to; the fuel bounds the switches of a path. -/
def routeFrom (net : List Switch) : Nat → Nat → Option Nat → Box → List Nat
  | 0, _, _, _ => []
  | k + 1, n, x, reach => n :: (fanOut net n x reach).1.flatMap fun (m, y, b) => routeFrom net k m y b

/-- The switches that a copy at a place of the fabric still comes to, the port being no switch. -/
def Place5.route (p : Place5) (reach : Box) (at_ : Option (Nat × Option Nat)) : List Nat :=
  match at_.or (p.entry reach) with
  | none => []
  | some (n, x) => (routeFrom p.switches (p.switches.length + 1) n x reach).dedup

/-- Changes the next hops of a slot. -/
def Ctx.updCredit (c : Ctx) (k : Nat) (f : Credit → Credit) : Ctx :=
  { c with credits := c.credits.modify k fun hs => hs.map f }

/-- The cost of an operation is deducted on every next hop that it uses (17 R308). -/
def Ctx.deduct (c : Ctx) (k cost : Nat) : Ctx := c.updCredit k fun h => { h with owed := h.owed + cost }

/-- Cost of a contribution (17 R308). -/
def redCost (c : Contribution) : Nat := (32 * (c.ty.bits / 8) + 255) / 256

/-- The slot of an operation. -/
def bodySlot (l : Landing) : Option Nat := l.origins.head?.map (·.slot)

/-- Units that data of a partition's slot has still to leave in the buffer of a switch: of copies on their way to it or in it, and of
rounds that are not whole (17 R307; DEDUCED, log 9). -/
def State.inHop (s : State) (part k hop : Nat) : Nat :=
  let p := s.place part
  ((s.fcopies.filter fun f => f.part = part && bodySlot f.body = some k
      && (p.route f.reach f.at_).contains hop).map fun f => f.cost).foldl (· + ·) 0
    + ((s.rounds.flatMap fun r => r.parts).filter fun c =>
        c.job = p.jobNo && c.origin.src = p.coord && c.origin.slot = k).foldl (fun n c => n + redCost c) 0

/-- The next hops of a slot of a partition: the switches that the expansion of its pattern comes to; a slot of a context outside a job
is granted nothing (17 R307; what a hop grants: DESIGN CHOICE, log 9). -/
def State.hopsOf (s : State) (part k : Nat) (job : Bool) (pat : W64) : List Credit :=
  let p := s.place part
  if !job then [{ hop := 0, grant := 0, owed := 0, passed := 0 }]
  else (p.route (p.box pat) none).map fun n =>
    { hop := n, grant := Config.hopCredit ((32 * s.tick + k) * 2 ^ 32 + n), owed := s.inHop part k n, passed := 0 }

/-- What the bound slots of a context read afresh (17 R307, 19 R346). -/
def State.creditsOf (s : State) (c : Ctx) : List (List Credit) :=
  (List.range 32).map fun k =>
    match c.binding? k with
    | none => []
    | some b => s.hopsOf c.part k (s.jobCtx c.part = some c.no) b.pat

/-- Binds or unbinds a slot; a newly bound slot of the job context reads the credit that its next hops grant, another reads 0
(17 R307; DESIGN CHOICE, log 9; DEDUCED, log 58). -/
def State.bind (s : State) (c : Ctx) (k : Nat) (b : Option Binding) : State :=
  let slots := (c.slots.filter fun x => x.1 ≠ k) ++ (match b with | none => [] | some b => [(k, b)])
  let hops := match b with | none => [] | some b => s.hopsOf c.part k (s.jobCtx c.part = some c.no) b.pat
  s.updCtx c.no fun c => { c with slots, credits := c.credits.set k hops }

/-- A switch, or with none each of them, has passed on data of a partition's slot that cost so many units: they return with
ALLOWANCE_RETURN. -/
def State.passOn (s : State) (part : Nat) (k hop : Option Nat) (cost : Nat) : State :=
  match s.jobCtx part, k with
  | some n, some k => s.updCtx n fun c => c.updCredit k fun h =>
      if hop = none || hop = some h.hop then { h with passed := h.passed + cost } else h
  | _, _ => s

/-- The slot that an operand names; a value of 32 or more traps (17 R309). -/
def State.withSlot (s : State) (g : Group) (h : Hdr) (o : Opd) (k : Nat → Out) : Out :=
  let n := rd32 g h o
  if 32 ≤ n then .next (s.trap g h { cause := .pattern }) else k n

/-- A group leaves the queue of its slot (17 R308). -/
def State.unq (s : State) (id : GroupId) : State := { s with allowq := s.allowq.filter fun q => q.2 ≠ id }

/-- Parks for allowance, or deducts the cost and goes on (17 R308). While the link to the port die is fenced the instruction waits
(19 R347). -/
def State.withAllowance (s : State) (g : Group) (h : Hdr) (k cost : Nat) (next : State → Out) : Out :=
  match s.ctx? g.id.ctx with
  | none => .next s
  | some c =>
    if s.portFenced g.site.cluster then .next s
    else if c.allowance k < cost then
      let s1 := if s.allowq.contains (k, g.id) then s else { s.unq g.id with allowq := (s.unq g.id).allowq ++ [(k, g.id)] }
      .next (s1.park g h (.allowance k cost))
    else next ((s.unq g.id).updCtx c.no fun c => c.deduct k cost)

/-- An instruction that names a slot and sends: the slot's binding, for a group whose context and place are known. -/
def State.withBinding (s : State) (g : Group) (h : Hdr) (o : Opd) (k : Ctx → Place5 → Nat → Binding → Out) : Out :=
  s.withSlot g h o fun n =>
    match s.ctx? g.id.ctx with
    | none => .next s
    | some c =>
      match c.binding? n with
      | none => .next (s.trap g h { cause := .pattern })
      | some b => k c (s.place c.part) n b

/-- The completion timeout in timebase cycles (17 R327; 00 R4). -/
def State.timeout (s : State) : Nat := s.ftimeout * 4000

/-- EXPECT rises by the acknowledgements to come, and the sender waits for them (17 R313). -/
def State.expectAcks (s : State) (g : Group) (b : Binding) (dsts : List (List Nat)) (tag : Nat) (until_ : Option Nat) : State :=
  if !patAck b.pat || b.ms = 0 then s
  else
    let s1 := s.updRef g.id.ctx g.id.task b.cluster b.ms (.expect dsts.length)
    if dsts.isEmpty then s1
    else { s1 with awaits := s1.awaits ++ [{ tag, ctx := g.id.ctx, ms := b.ms, cluster := b.cluster, from_ := dsts, until_ }] }

/-- The destinations of a pattern. -/
def Place5.dests (p : Place5) (pat : W64) : List (List Nat) :=
  (coordsOf (p.box pat)).filter fun c => !(patNself pat && c = p.coord)

/-- Whether an acknowledgement is due, and to whom. -/
def ackTo (b : Binding) (src : List Nat) (tag : Nat) : List (List Nat × Nat) :=
  if patAck b.pat && b.ms ≠ 0 then [(src, tag)] else []

/-- A release may have to wait for the landing of an operation that the group sends now (07 R145); what has landed is forgotten. -/
def State.noteSent (s : State) (id : GroupId) (p : Place5) (seq : Nat) : State :=
  { s with sent := s.sent.filter s.underWay ++ [{ gid := id, job := p.jobNo, src := p.coord, seq }] }

/-- An operation enters the sender's port (17 R326, R327). -/
def State.send (s : State) (part : Nat) (p : Place5) (b : Binding) (cost : Nat) (body : Landing) : State :=
  { s with fcopies := s.fcopies ++ [{ part, at_ := none, reach := p.box b.pat, nself := patNself b.pat, cost, body }] }

/-- An operation of a slot of a context. -/
def mkBody (s : State) (p : Place5) (k : Nat) (b : Binding) (op : RemOp) (acks : List (List Nat × Nat)) (tag : Nat) : Landing :=
  { job := p.jobNo, dst := [], origins := [{ src := p.coord, slot := k, seq := s.tick }], op, msOff := b.dst, acks, tag }

/-- The address checks of RST (17 R313): the trap, or the FABRIC range. -/
def State.checkRemote (s : State) (c : Ctx) (h : Hdr) (w : Nat) (addrs : List (Nat × W64)) : Trap ⊕ Nat :=
  let fail (cause : Cause) (bad : List (Nat × W64)) : Trap :=
    { cause, info := (bad.headD (0, 0)).2, lanes := tlaneOf h (bad.map (·.1)) }
  let mis := addrs.filter fun x => x.2.toNat % w ≠ 0
  if !mis.isEmpty then .inl (fail .align mis)
  else
    let out := addrs.filter fun x =>
      match s.fabricRange c with
      | none => true
      | some r => !(r.covers x.2.toNat && x.2.toNat + w - 1 ≤ r.limit.toNat)
    if !out.isEmpty then .inl (fail .prot out)
    else .inr (match s.fabricRange c with | some r => r.base.toNat | none => 0)

/-- Lanes with their addresses. -/
def remoteAddrs (g : Group) (h : Hdr) (a : Opd) : List (Nat × W64) :=
  (lanesOf g h).map fun L => (L, BitVec.ofNat 64 (rdN g h 64 a L))

/-! Binding, counting, testing (17 R310 to R312). -/

/-- SABIND (17 R310). -/
def execSabind (h : Hdr) (a b c : Opd) (s : State) : Out :=
  s.issue (.sabind h a b c) fun g h =>
    s.withSlot g h a fun k =>
      match s.ctx? g.id.ctx with
      | none => .next s
      | some x =>
        let p := rd64 g h b
        let m := rd64 g h c
        let done : Out := .next ((s.retire g h).bind x k (some { pat := p, ms := m, cluster := g.site.cluster, dst := 0 }))
        if !(s.place x.part).ok p then .next (s.trap g h { cause := .pattern })
        else if m = 0 then done
        else match s.mref g.id.ctx g.site.cluster m with
          | .trap t => .next (s.trap g h { cause := t, info := m })
          | .miss ms => .next (s.missing g ms)
          | .ok l => if (s.locSpan l).held then .next s else done

/-- SABIND.dst. A trap with ALIGN or PROT names the offset, which is no address (DESIGN CHOICE, log 120). -/
def execSabindDst (h : Hdr) (a b : Opd) (s : State) : Out :=
  s.issue (.sabindDst h a b) fun g h =>
    s.withBinding g h a fun c _ k x =>
      let o := rd64 g h b
      let top := match s.fabricRange c with | some r => some (r.limit.toNat - r.base.toNat) | none => none
      if o.toNat % 64 ≠ 0 then .next (s.trap g h { cause := .align, info := o })
      else if (match top with | some t => decide (t < o.toNat) | none => true) then .next (s.trap g h { cause := .prot, info := o })
      else .next ((s.retire g h).updCtx c.no fun c =>
        { c with slots := c.slots.map fun y => if y.1 = k then (k, { x with dst := o.toNat }) else y })

/-- SABIND.clr. -/
def execSabindClr (h : Hdr) (a : Opd) (s : State) : Out :=
  s.issue (.sabindClr h a) fun g h =>
    s.withSlot g h a fun k =>
      match s.ctx? g.id.ctx with
      | none => .next s
      | some c => .next ((s.retire g h).bind c k none)

/-- PCNT (17 R311). -/
def execPcnt (h : Hdr) (d a : Opd) (s : State) : Out :=
  s.issue (.pcnt h d a) fun g h =>
    match s.ctx? g.id.ctx with
    | none => .next s
    | some c =>
      let p := s.place c.part
      let pat := rd64 g h a
      if !p.ok pat then .next (s.trap g h { cause := .pattern })
      else .next (s.retire (putDest g d (BitVec.ofNat 64 (p.count pat))) h)

/-- BSA (17 R312). -/
def execBsa (h : Hdr) (lt : Bool) (slot thr t : Opd) (s : State) : Out :=
  s.issue (.bsa h lt slot thr t) fun g h =>
    s.withSlot g h slot fun k =>
      let c := match s.ctx? g.id.ctx with | some c => c.allowance k | none => 0
      if (c < rd32 g h thr) = lt then .next (s.transfer g h (g.at_ + 8 * rd64 g h t) (fun _ => true) id)
      else .next (s.retire g h)

/-! Remote store, reduction, atomic, load (17 R313 to R322). -/

/-- RST (17 R308, R313). -/
def execRst (h : Hdr) (ty : Ty) (d a b : Opd) (s : State) : Out :=
  s.issue (.rst h ty d a b) fun g h =>
    (s.unq g.id).withBinding g h b fun c p k x =>
      let w := ty.bits / 8
      let addrs := remoteAddrs g h a
      match s.checkRemote c h w addrs with
      | .inl t => .next ((s.unq g.id).trap g h t)
      | .inr base =>
        if addrs.isEmpty || p.count x.pat = 0 then .next ((s.unq g.id).retire g h)
        else
          let offs := addrs.map fun y => (y.1, y.2.toNat - base)
          let sectors := (offs.map fun y => y.2 / 32).dedup
          let cost := max 1 ((32 * sectors.length + 255) / 256)
          s.withAllowance g h k cost fun s1 =>
            let s2 := (s1.retire g h).expectAcks g x (p.dests x.pat) s.tick (some (s.now + s.timeout))
            .next ((s2.noteSent g.id p s.tick).send c.part p x cost (mkBody s p k x (.store (offs.map fun y => (y.2, leBytes w (rd g h ty d y.1))))
              (ackTo x p.coord s.tick) s.tick))

/-- Two contributions to one reduction (17 R315). -/
def sameRed (a b : Contribution) : Bool :=
  a.job = b.job && a.dst = b.dst && a.base = b.base && a.op = b.op && a.ty = b.ty && a.srcPat = b.srcPat

/-- Contributions that a device has made to a reduction. -/
def State.redCount (s : State) (c : Contribution) : Nat :=
  match s.redcounts.find? fun r => sameRed r.key c && r.key.origin.src = c.origin.src with
  | some r => r.count
  | none => 0

def State.setRedCount (s : State) (c : Contribution) (n : Nat) : State :=
  { s with
    redcounts := (s.redcounts.filter fun r => !(sameRed r.key c && r.key.origin.src = c.origin.src)) ++ [{ key := c, count := n }] }

/-- The nested left fold over a box, the highest-numbered axis innermost (17 R316). -/
def foldBox (f : Nat → Nat → Nat) (val : List Nat → Nat) : Box → List Nat → Nat
  | [], pre => val pre.reverse
  | (lo, hi) :: rest, pre =>
    match (List.range (hi + 1 - lo)).map fun j => foldBox f val rest ((lo + j) :: pre) with
    | [] => 0
    | x :: xs => xs.foldl f x

/-- The axis sizes of a job. -/
def State.jobSizes (s : State) (job : Nat) : List Nat :=
  match s.places.find? fun p => p.jobNo = job && !p.sizes.isEmpty with | some p => p.sizes | none => []

/-- The source box of a reduction. -/
def State.srcBox (s : State) (c : Contribution) : Box := boxOf (s.jobSizes c.job) [] c.srcPat

def State.updLink (s : State) (i : Nat) (f : Link → Link) : State :=
  match s.links[i]? with
  | none => s
  | some l => { s with links := s.links.set i (f l) }

/-- The rejoin of the device at a coordinate of a job, when it has reset since an operation with this number was sealed
(17 R329). -/
def State.stale (s : State) (job : Nat) (coord : List Nat) (tag : Nat) : Option Rejoin :=
  s.rejoins.find? fun r => r.job = job && r.coord = coord && tag < r.below

/-- Traffic sealed under an old key is dropped and counted at its link (17 R329). -/
def State.dropStale (s : State) (r : Rejoin) : State := s.updLink r.link fun l => { l with dropped := l.dropped + 1 }

/-- An operation was sealed under an old key: its destination has reset since, or its sender has. The contributions of a combined
packet were tested as they joined their round (17 R329). -/
def State.oldKey (s : State) (coord : List Nat) (body : Landing) : Option Rejoin :=
  (s.stale body.job coord body.tag).or (match body.op with
    | .packet .. => none
    | .void _ => none
    | _ => body.origins.findSome? fun o => s.stale body.job o.src body.tag)

/-- An operation reaches a destination; one outside the package leaves the model (DESIGN CHOICE, log 29), and one sealed under
an old key is dropped (17 R329). -/
def State.deliver (s : State) (coord : List Nat) (body : Landing) : State :=
  match s.partAt body.job coord with
  | none => s
  | some part =>
    match s.oldKey coord body with
    | some r => s.dropStale r
    | none => { s with landings := s.landings ++ [{ part, waits := [], body := { body with dst := coord } }] }

/-- The contributor that comes first in the summation order (17 R315). -/
def firstOf (parts : List Contribution) : Option Contribution :=
  parts.foldl (fun b c => match b with | none => some c | some x => if decide (c.origin.src < x.origin.src) then some c else b) none

/-- The combined packet of a whole round (17 R315, R316). -/
def State.packet (s : State) (parts : List Contribution) (c : Contribution) : Landing :=
  let w := c.ty.bits / 8
  let at_ (j : Nat) (coord : List Nat) : Nat :=
    match parts.find? fun x => x.origin.src = coord with | some x => (x.elems.getD j 0).toNat | none => 0
  { job := c.job, dst := c.dst, origins := parts.map (·.origin)
    op := .packet c.base c.op c.ty c.srcPat
      ((List.range 32).flatMap fun j => leBytes w (foldBox (foldOp c.op c.ty) (at_ j) (s.srcBox c) []))
    msOff := match firstOf parts with | some f => f.msOff | none => 0
    acks := (parts.filter fun x => x.ack).map fun x => (x.origin.src, x.tag), tag := c.tag }

/-- A round holds every device of its box. -/
def State.whole (s : State) (r : Round) : Bool := boxCount (s.srcBox r.first) ≤ r.parts.length

/-- The costs of a round's data return once the switches have done with it (17 R307). -/
def State.passRound (s : State) (r : Round) : State :=
  r.parts.foldl (fun s c =>
    match s.partAt c.job c.origin.src with
    | none => s
    | some part => s.passOn part (some c.origin.slot) none (redCost c)) s

/-- The rounds of a reduction that are whole land, in round order (17 R315, R317). -/
def State.flushRounds (s : State) (c : Contribution) : Nat → State
  | 0 => s
  | n + 1 =>
    match s.rounds.find? fun r => sameRed r.first c && s.whole r
        && !(s.rounds.any fun x => sameRed x.first c && x.first.round < r.first.round) with
    | none => s
    | some r =>
      State.flushRounds
        ((State.deliver { s with rounds := s.rounds.filter fun x => x.id ≠ r.id } c.dst (s.packet r.parts r.first)).passRound r) c n

/-- A pending round takes no contribution of a device: it lost that device, whose contributions since are of later rounds, or holds
one of it already (17 R315, R317, R329). -/
def Round.closedTo (r : Round) (src : List Nat) : Bool := r.lost.contains src || r.parts.any fun x => x.origin.src = src

/-- The round of a contribution: the one of its number, or else the next that takes it; the fuel bounds the rounds that do not
(17 R317, R329; DEDUCED, log 59). -/
def State.roundOf (s : State) (c : Contribution) : Nat → Nat → Nat
  | 0, k => k
  | n + 1, k =>
    if s.rounds.any fun r => sameRed r.first c && r.first.round = k && r.closedTo c.origin.src then State.roundOf s c n (k + 1) else k

/-- A contribution joins its round (17 R315); one that was sealed under an old key is dropped and counted (17 R329). -/
def State.joinRound (s : State) (c : Contribution) : State :=
  match s.stale c.job c.origin.src c.tag with
  | some r => s.dropStale r
  | none =>
    let k := s.roundOf c s.rounds.length c.round
    let c1 := { c with round := k }
    let s1 := if k = c.round then s else s.setRedCount c1 (k + 1)
    match s1.rounds.find? fun r => sameRed r.first c1 && r.first.round = k with
    | some r => State.flushRounds
        { s1 with rounds := s1.rounds.map fun x => if x.id = r.id then { r with parts := r.parts ++ [c1] } else x } c1
        (s1.rounds.length + 1)
    | none =>
      let r : Round := { id := s.tick, first := c1, parts := [c1], until_ := s.now + s.timeout, lost := [] }
      State.flushRounds { s1 with rounds := s1.rounds ++ [r] } c1 (s1.rounds.length + 1)

/-- RRED (17 R314). -/
def execRred (h : Hdr) (fn : FoldFn) (ty : Ty) (d a b c : Opd) (s : State) : Out :=
  s.issue (.rred h fn ty d a b c) fun g h =>
    (s.unq g.id).withBinding g h b fun x p k bd =>
      let w := ty.bits / 8
      let src := rd64 g h c
      let base := rd64 g h a
      let bad (t : Trap) : Out := .next ((s.unq g.id).trap g h t)
      if !p.ok bd.pat || !p.single bd.pat then bad { cause := .pattern }
      else if !p.ok src || patNself src || patAck src || !inBox p.coord (p.box src) then bad { cause := .pattern }
      else if base.toNat % (32 * w) ≠ 0 then bad { cause := .align, info := base }
      else match s.checkRemote x h (32 * w) [(0, base)] with
        | .inl t => bad { t with lanes := 0 }
        | .inr b0 =>
          if (lanesOf g h).isEmpty then .next ((s.unq g.id).retire g h)
          else s.withAllowance g h k ((32 * w + 255) / 256) fun s1 =>
            let dst := (p.box bd.pat).map (·.1)
            let s2 := (s1.retire g h).expectAcks g bd [dst] s.tick (some (s.now + s.timeout))
            let ct : Contribution :=
              { job := p.jobNo, origin := { src := p.coord, slot := k, seq := s.tick }, dst, base := base.toNat - b0, op := fn
                ty, srcPat := resolvePat p.sizes p.coord src, round := 0
                elems := (foldVals g h fn ty d).map fun v => BitVec.ofNat 64 v, msOff := bd.dst
                ack := patAck bd.pat && bd.ms ≠ 0, tag := s.tick }
            let n := s2.redCount ct
            .next (((s2.noteSent g.id p s.tick).setRedCount ct (n + 1)).joinRound { ct with round := n })

/-- RATOM and RLD: one destination, the checks of RST, one unit, and a response that is awaited (17 R319 to R322).
DEDUCED, log 47. -/
def State.remoteRead (s : State) (i : Instr) (ty : Ty) (d a slot : Opd) (load : Bool)
    (op : Group → Hdr → List (Nat × Nat) → RemOp) : Out :=
  s.issue i fun g h =>
    (s.unq g.id).withBinding g h slot fun c p k b =>
      let bad (t : Trap) : Out := .next ((s.unq g.id).trap g h t)
      if !p.ok b.pat || !p.single b.pat then bad { cause := .pattern }
      else
        let addrs := remoteAddrs g h a
        match s.checkRemote c h (ty.bits / 8) addrs with
        | .inl t => bad t
        | .inr base =>
          let g1 := if d.isZ then g.pushZero h else g
          if addrs.isEmpty then .next ((s.unq g.id).retire g1 h)
          else s.withAllowance g h k 1 fun s1 =>
            let dst := (p.box b.pat).map (·.1)
            let s2 := s1.addLoad g1 h (ldst d ty.regs) (.remote ty h.g b.ms b.cluster addrs (s.now + s.timeout))
            let s3 := if load then s2 else s2.expectAcks g b [dst] s.tick (some (s.now + s.timeout))
            let body := mkBody s p k b (op g h (addrs.map fun y => (y.1, y.2.toNat - base)))
              (if load then [] else ackTo b p.coord s.tick) s.tick
            .next (s3.send c.part p b 1 (if load then { body with msOff := 0 } else body))

def execRatom (h : Hdr) (fn : AtomFn) (ty : Ty) (d a b c : Opd) (s : State) : Out :=
  s.remoteRead (.ratom h fn ty d a b c) ty d a c false fun g h offs =>
    .atom fn ty (offs.map fun y =>
      let x := atomArg g h fn ty b y.1
      (y.1, y.2, BitVec.ofNat 64 (x % 2 ^ ty.bits), BitVec.ofNat 64 (x / 2 ^ ty.bits)))

def execRld (h : Hdr) (ty : Ty) (d a b : Opd) (s : State) : Out :=
  s.remoteRead (.rld h ty d a b) ty d a b true fun _ _ offs => .load (ty.bits / 8) offs

/-- RCOPY (17 R323). In a context without a FABRIC range it traps with PROT, after the checks of its own entry and with DST of
the template in %tinfo (17 R302; DEDUCED, log 96). -/
def execRcopy (h : Hdr) (a b : Opd) (s : State) : Out :=
  s.issue (.rcopy h a b) fun g h =>
    s.withBinding g h a fun c p k bd =>
      let x := rd64 g h b
      let i := apIndex x
      match (if bitsN x.toNat 63 54 ≠ 0 || 4096 ≤ i then none else c.template? i) with
      | none => .next (s.trap g h { cause := .tmpl })
      | some t =>
        if !tmplRemote t || 1 < nat8 t 0 1 || bitsN (nat8 t 2 2) 2 2 = 1 then .next (s.trap g h { cause := .tmpl })
        else if (s.fabricRange c).isNone then .next (s.trap g h { cause := .prot, info := word64 t 0x10 })
        else
          let (id, s1) := (s.retire g h).fresh
          let s2 := s1.expectAcks g bd (p.dests bd.pat) id none
          .next (s2.offer
            { id, ctx := g.id.ctx, gid := some g.id, task := g.id.task, cluster := g.site.cluster, channel := bitsN x.toNat 53 48
              idx := i, tmpl := t, param := apParam x, vectorOnly := s.vectorOnly g.id, remote := some (k, bd)
              st := .queued })

/-! The switches (17 R326, R327). -/

/-- An operation comes after another of the same sender and slot. -/
def laterThan (x y : Landing) : Bool :=
  x.origins.any fun a => y.origins.any fun b => a.src = b.src && a.slot = b.slot && b.seq < a.seq

/-- The copy may move: no earlier operation of its slot toward the same devices is under way. -/
def State.mayMove (s : State) (f : FCopy) : Bool :=
  !s.fcopies.any fun y => y.body.job = f.body.job && laterThan f.body y.body && (meet f.reach y.reach).isSome

/-- What a switch sends for a copy that came by a port (17 R327). -/
def expand (net : List Switch) (n : Nat) (x : Option Nat) (f : FCopy) : List FCopy × List (List Nat) :=
  let (on, here) := fanOut net n x f.reach
  (on.map fun (m, y, b) => { f with reach := b, at_ := some (m, y) }, here)

/-- A copy takes its next hop. -/
def State.hop (s : State) (i : Nat) (f : FCopy) : State :=
  let p := s.place f.part
  let s1 : State := { s with fcopies := s.fcopies.eraseIdx i }
  match f.at_ with
  | none =>
    let own := inBox p.coord f.reach
    let s2 := if own && !f.nself then s1.deliver p.coord f.body else s1
    match p.entry f.reach with
    | none => s2
    | some x => { s2 with fcopies := s2.fcopies.take i ++ [{ f with at_ := some x }] ++ s2.fcopies.drop i }
  | some (n, x) =>
    let (copies, here) := expand p.switches n x f
    let s2 : State := { s1 with fcopies := s1.fcopies.take i ++ copies ++ s1.fcopies.drop i }
    here.foldl (fun s c => s.deliver c f.body) (s2.passOn f.part (bodySlot f.body) (some n) f.cost)

/-- SWITCH_COPY: the n-th copy under way, or a peer's contribution that meets its round. -/
def execSwitchCopy (n : Nat) (fromPeer : Option Contribution) (s : State) : Out :=
  match fromPeer with
  | some c => .next (s.joinRound c)
  | none =>
    match s.fcopies[n]? with
    | none => .next s
    | some f => if s.mayMove f then .next (s.hop n f) else .next s

/-! Milestones of slots. -/

/-- An update of a slot's milestone: for a context that is saved out, in global form a change to published memory, in
window form dropped and reported (19 R343). DEDUCED, log 56. -/
def State.slotUpd (s : State) (ctx cluster : Nat) (ms : W64) (u : MsUpd) : State :=
  match s.ctx? ctx with
  | none => s
  | some c =>
    if c.st = .saved && ms.msb then s.reportCtx ctx (discardReport ctx 6 0 ms.toNat) else s.updRef ctx 0 cluster ms u

/-- The destination milestone of an abandoned round takes ERR 6, when one is named: the error lands there as an operation's would, in
the order of its contributors' slots (17 R317, R324; 13 R244). -/
def State.roundFails (s : State) (r : Round) : State :=
  let off := match firstOf r.parts with | some f => f.msOff | none => 0
  match s.partAt r.first.job r.first.dst with
  | none => s
  | some part =>
    if off = 0 then s
    else
      let body : Landing :=
        { job := r.first.job, dst := r.first.dst, origins := r.parts.map (·.origin), op := .void 6, msOff := off, acks := []
          tag := r.first.tag }
      { s with landings := s.landings ++ [{ part, waits := [], body }] }

/-- What the sender of a contribution waits for, where that is a partition of this package (17 R317). -/
def State.awaitOf (s : State) (c : Contribution) : Option Await :=
  s.awaits.find? fun a => a.tag = c.tag
    && (match s.ctx? a.ctx with | some x => s.partAt c.job c.origin.src = some x.part | none => false)

/-- ROUND_TIMEOUT: the n-th round, while it lacks a contribution, is abandoned; its later contributions begin the next (17 R317). DEDUCED, log 59. -/
def execRoundTimeout (n : Nat) (s : State) : Out :=
  match s.rounds[n]? with
  | none => .next s
  | some r =>
    if s.now < r.until_ || s.whole r then .next s
    else
      let s1 : State := State.passRound { s with rounds := s.rounds.filter fun x => x.id ≠ r.id } r
      let s2 := (coordsOf (s.srcBox r.first)).foldl (fun s c =>
        let k := { r.first with origin := { r.first.origin with src := c } }
        if s.redCount k ≤ r.first.round then s.setRedCount k (r.first.round + 1) else s) s1
      let s3 := r.parts.foldl (fun s c =>
        match s.awaitOf c with
        | none => s
        | some a => State.slotUpd { s with awaits := s.awaits.erase a } a.ctx a.cluster a.ms (.fail 6)) s2
      .next ((s3.roundFails r).flushRounds r.first s.rounds.length)

/-! Landing (17 R324, R325; 12 R241). -/

/-- The check of some bytes at a destination. -/
inductive LChk where
  | fail (err : Nat)
  | miss (ms : List (Miss × Bool))
  | moving
  | ok (ps : List Piece)

/-- The job context of a partition with its FABRIC range. -/
def State.jobRange (s : State) (part : Nat) : Option (Ctx × Range) :=
  match s.jobCtx part with
  | none => none
  | some n => match s.ctx? n with
    | none => none
    | some c => (s.fabricRange c).map fun r => (c, r)

/-- w bytes at a fabric offset of a destination. -/
def State.landAt (s : State) (c : Ctx) (r : Range) (off w : Nat) (write : Bool) : LChk :=
  if r.limit.toNat - r.base.toNat < off + w - 1 then .fail 2
  else
    let x := s.span c ((r.target.toNat + off) % 2 ^ 52) w
    if x.held then .moving
    else if write && x.pieces.any fun p => p.leaf.kind = 1 then .fail 2
    else if !x.missing.isEmpty then .miss x.missing
    else if s.piecesWait c.no x.pieces || x.pieces.any fun p => s.portFenced p.leaf.home then .moving
    else .ok x.pieces

/-- Bytes cut at aligned 32-byte sectors. -/
def sectorsOf (off : Nat) (bs : List Byte) : List (Nat × List Byte) :=
  if bs.isEmpty then []
  else
    let first := 32 - off % 32
    (off, bs.take first) :: (List.range ((bs.length - first + 31) / 32)).map fun j =>
      (off + first + 32 * j, ((bs.drop (first + 32 * j)).take 32))

/-- The pieces that an operation stores. -/
def RemPieces : RemOp → List (Nat × List Byte)
  | .store ps => ps
  | .packet off _ _ _ bs => sectorsOf off bs
  | .segment off bs _ => sectorsOf off bs
  | _ => []

/-- Pages missing among checks, with their flag. -/
def missOf (cs : List LChk) : List (Miss × Bool) :=
  cs.flatMap fun c => match c with | .miss ms => ms | _ => []
def failOf (cs : List LChk) : Option Nat := cs.findSome? fun c => match c with | .fail e => some e | _ => none
def movingOf (cs : List LChk) : Bool := cs.any fun c => match c with | .moving => true | _ => false

/-- A landing waits, each missing page reported once (17 R324). -/
def State.landWait (s : State) (i : Nat) (a : Arrived) (ctx : Nat) (ps : List (Miss × Bool)) : State :=
  let ms := distinctMiss ps
  let s1 := ms.foldl (fun s m => s.reportCtx ctx (missingReport ctx m.1 m.2 0)) s
  { s1 with landings := s1.landings.set i { a with waits := ms.map (·.1) } }

/-- Acknowledgements leave a destination (17 R315, R324). -/
def State.sendAcks (s : State) (l : Landing) (err : Nat) : State :=
  l.acks.foldl (fun s (coord, tag) =>
    match s.partAt l.job coord with
    | none => s
    | some p => { s with acks := s.acks ++ [(p, { peer := l.dst, tag, err })] }) s

/-- The sender of an RLD or RATOM is served by the device itself: what its group reads this way it never later reads older in its
core's L1 (12 R233). -/
def State.servesOwn (s : State) (l : Landing) : State :=
  match s.loads.find? fun x => x.id = l.tag && match x.kind with | .remote .. => true | _ => false with
  | some x =>
    if l.origins.any fun o => o.src = l.dst then s.dropL1 fun y => .core y.core = s.siteOf x.gid && !y.coherent else s
  | none => s

/-- A response leaves a destination (17 R321, R322). -/
def State.respond (s : State) (l : Landing) (err : Nat) (lanes : List (Nat × W64)) : State :=
  match l.origins.head? with
  | none => s
  | some o =>
    match s.partAt l.job o.src with
    | none => s
    | some p => { s with resps := s.resps ++ [(p, { peer := l.dst, tag := l.tag, err, lanes })] }

/-- The arrival of an operation at the destination milestone (17 R324, R325). -/
def State.landMs (s : State) (c : Ctx) (r : Range) (l : Landing) (bytes err : Nat) : State × Nat :=
  if l.msOff = 0 then (s, err)
  else
    let refuse : State × Nat :=
      (s.reportCtx c.no (discardReport c.no 7 0 ((r.target.toNat + l.msOff) % 2 ^ 52)), if err = 0 then 2 else err)
    match s.landAt c r l.msOff 64 true with
    | .ok ps =>
      if l.msOff % 64 ≠ 0 || ps.any fun p => p.leaf.kind < 2 then refuse
      else (s.updLoc c.no 0 (.mem c.no (iaOf ps)) (if err = 0 then .done bytes else .fail err), err)
    | _ => refuse

/-- What has landed of a remote copy at this destination. -/
def State.seen? (s : State) (part : Nat) (l : Landing) : Option SegSeen :=
  s.segs.find? fun e => e.part = part && e.tag = l.tag && (l.origins.head?.map (·.src)) = some e.src

/-- What has landed of it once a segment more has, with an error or the range that it wrote. -/
def State.seeSeg (s : State) (part : Nat) (l : Landing) (err : Nat) (range : Nat × Nat) : SegSeen :=
  let e := (s.seen? part l).getD { part, src := (l.origins.head?.map (·.src)).getD [], tag := l.tag, err := 0, ranges := [] }
  if e.err ≠ 0 then e else if err ≠ 0 then { e with err } else { e with ranges := range :: e.ranges }

/-- Keeps what has landed of a remote copy, or forgets it once it has landed whole. -/
def State.setSeen (s : State) (e : SegSeen) (keep : Bool) : State :=
  let rest := s.segs.filter fun x => !(x.part = e.part && x.tag = e.tag && x.src = e.src)
  { s with segs := if keep then rest ++ [e] else rest }

/-- The chunks that the landed segments of a remote copy complete are set in its destination milestone, whose tile is named by a
virtual address of the job context (13 R252; DEDUCED, log 106). -/
def State.landChunks (s : State) (c : Ctx) (r : Range) (l : Landing) (e : SegSeen) : State :=
  let loc : Loc := .mem c.no ((r.target.toNat + l.msOff) % 2 ^ 52)
  if l.msOff = 0 || e.err ≠ 0 then s
  else match s.landAt c r l.msOff 64 true, s.ms? loc with
    | .ok ps, some m =>
      let tile := m.tilebase.toNat
      match s.rangeOf c tile with
      | none => s
      | some rg =>
        let rs := e.ranges.map fun x => (x.1 + tile - rg.ia tile, x.2)
        let old := rs.length - 1
        if l.msOff % 64 ≠ 0 || (ps.any fun p => p.leaf.kind < 2) || rg.kind ≠ 0 || !m.chunksDue false rs old then s
        else s.updLoc c.no 0 loc (.chunks false rs old)
    | _, _ => s

/-- Pieces are written at a destination one after the other: each has room for its line, and finds the page as the pieces before
left it (11 R216, R219). -/
def State.landPieces (s : State) (c : Ctx) : List (List Piece × List Byte) → Room
  | [] => .ok s
  | (ps, bs) :: rest =>
    match s.roomFor c.no ps with
    | .empty o => .empty o
    | .ok s1 => State.landPieces (s1.iaWrite c (iaOf ps) bs) c rest

/-- A landing waits for a FILL of its context's own backing pool (11 R219; DEDUCED, log 90). -/
def State.landFull (s : State) (i : Nat) (a : Arrived) (ctx owner : Nat) : State :=
  (s.otherPool ctx owner).landWait i a ctx [(.ember, false)]

/-- The operation is a segment of a remote copy, with the bytes that the whole copy counts when it is the last. -/
def isSegment : RemOp → Bool | .segment .. => true | _ => false
def segTotal : RemOp → Option Nat | .segment _ _ t => t | _ => none

/-- The error that an operation brings. -/
def opError : RemOp → Option Nat | .void e => some e | _ => none

/-- A store, a packet or a segment lands with the error that its checks gave. -/
def State.landStore (s : State) (i : Nat) (a : Arrived) (c : Ctx) (r : Range) : State :=
  let l := a.body
  let ps := RemPieces l.op
  let checks := ps.map fun p => s.landAt c r p.1 p.2.length true
  let err0 := ((opError l.op).or (failOf checks)).getD 0
  let msChk : List LChk := if l.msOff ≠ 0 then [s.landAt c r l.msOff 64 true] else []
  let waits := missOf ((if err0 = 0 then checks else []) ++ msChk)
  if !waits.isEmpty then s.landWait i a c.no waits
  else if (err0 = 0 && movingOf checks) || movingOf msChk then s
  else
    let oks := if err0 ≠ 0 then [] else (ps.zip checks).filterMap fun (p, k) => match k with | .ok xs => some (xs, p.2) | _ => none
    match State.landPieces { s with landings := s.landings.eraseIdx i } c oks with
    | .empty owner => s.landFull i a c.no owner
    | .ok s1 =>
      let bytes := (ps.map fun p => p.2.length).foldl (· + ·) 0
      if isSegment l.op then
        let e := s1.seeSeg a.part l err0 ((oks.head?.map fun x => iaOf x.1).getD 0, bytes)
        let s2 := (s1.setSeen e (segTotal l.op).isNone).landChunks c r l e
        match segTotal l.op with
        | none => if err0 = 0 || ((s.seen? a.part l).any fun x => x.err ≠ 0) then s2 else (s2.landMs c r l 0 err0).1
        | some total =>
          let (s3, ack) := s2.landMs c r l total e.err
          s3.sendAcks l ack
      else
        let (s2, ack) := s1.landMs c r l bytes err0
        s2.sendAcks l ack

/-- What the lanes of an RATOM come to: the context of a line that cannot leave, or old values, and the lanes that failed with their
errors. -/
inductive Atoms where
  | full (owner : Nat)
  | ok (vals : List (Nat × W64)) (errs : List (Nat × Nat)) (s : State)

/-- One lane's atomic at a destination: its old value, or its error. -/
def State.landAtom (s : State) (c : Ctx) (r : Range) (fn : AtomFn) (ty : Ty) (L off x : Nat) : Atoms :=
  let w := ty.bits / 8
  match s.landAt c r off w true with
  | .ok ps =>
    if s.piecesBad c.no ps then .ok [] [(L, 4)] s
    else match s.roomFor c.no ps with
      | .empty o => .full o
      | .ok s1 =>
        -- a line that left may have taken its page's late frame
        let now := (s1.span c (iaOf ps) w).pieces
        let old := leNat (s1.readPieces c.no now)
        .ok [(L, BitVec.ofNat 64 old)] [] (s1.writePieces c.no now (leBytes w (atomNew fn ty old x)))
  | .fail e => .ok [] [(L, e)] s
  | _ => .ok [] [] s

/-- The atomics of an RATOM in lane order (17 R320, R324). -/
def State.landAtoms (s : State) (c : Ctx) (r : Range) (fn : AtomFn) (ty : Ty) : List (Nat × Nat × W64 × W64) → Atoms
  | [] => .ok [] [] s
  | (L, off, x, y) :: rest =>
    match s.landAtom c r fn ty L off (x.toNat + 2 ^ ty.bits * y.toNat) with
    | .full o => .full o
    | .ok v e s1 =>
      match State.landAtoms s1 c r fn ty rest with
      | .full o => .full o
      | .ok v2 e2 s2 => .ok (v ++ v2) (e ++ e2) s2

/-- The error of a response: that of the lowest failing lane, and the lanes that met it. -/
def respErr (errs : List (Nat × Nat)) : Nat × List (Nat × W64) :=
  match errs with
  | [] => (0, [])
  | (_, e) :: _ => (e, (errs.filter fun x => x.2 = e).map fun x => (x.1, 0))

/-- An operation lands: index i of the list. An RATOM that fails gives its ERR to the destination milestone; one that succeeds
makes no arrival there (DEDUCED, log 57). At a partition that has no job context, or whose job context has no enabled FABRIC range, it
fails with ERR 2: nothing is reported, and a segment before the last vanishes (DESIGN CHOICE, log 118). -/
def State.land (s : State) (i : Nat) (a : Arrived) : State :=
  let l := a.body
  let gone : State := { s with landings := s.landings.eraseIdx i }
  match s.jobRange a.part with
  | none =>
    match l.op with
    | .load _ lanes => gone.respond l 2 (lanes.map fun x => (x.1, 0))
    | .atom _ _ lanes => (gone.respond l 2 (lanes.map fun x => (x.1, 0))).sendAcks l 2
    | .segment _ _ none => gone
    | _ => gone.sendAcks l 2
  | some (c, r) =>
    match l.op with
    | .load w lanes =>
      let checks := lanes.map fun x => (x.1, s.landAt c r x.2 w false)
      let waits := missOf (checks.map (·.2))
      if !waits.isEmpty then s.landWait i a c.no waits
      else if movingOf (checks.map (·.2)) then s
      else
        let errs := checks.filterMap fun (L, k) =>
          match k with
          | .fail e => some (L, e)
          | .ok ps => if s.piecesBad c.no ps then some (L, 4) else none
          | _ => none
        if errs.isEmpty then
          (gone.servesOwn l).respond l 0 (checks.filterMap fun (L, k) =>
            match k with | .ok ps => some (L, BitVec.ofNat 64 (leNat (s.readPieces c.no ps))) | _ => none)
        else gone.respond l (respErr errs).1 (respErr errs).2
    | .atom fn ty lanes =>
      let checks := lanes.map fun x => s.landAt c r x.2.1 (ty.bits / 8) true
      let fails := checks.any fun k => match k with | .fail _ => true | .ok ps => s.piecesBad c.no ps | _ => false
      let msChk := if fails && l.msOff ≠ 0 then [s.landAt c r l.msOff 64 true] else []
      let waits := missOf (checks ++ msChk)
      if !waits.isEmpty then s.landWait i a c.no waits
      else if movingOf (checks ++ msChk) then s
      else match gone.landAtoms c r fn ty lanes with
        | .full owner => s.landFull i a c.no owner
        | .ok vals errs s1 =>
          let (e, bad) := respErr errs
          let (s2, ea) := if e = 0 then (s1, 0) else s1.landMs c r l 0 e
          ((s2.servesOwn l).respond l e (if e = 0 then vals else bad)).sendAcks l ea
    | _ => s.landStore i a c r

/-- A combined packet comes after another of the same reduction: rounds complete in order (17 R317). -/
def laterRound (x y : Landing) : Bool :=
  match x.op, y.op with
  | .packet b fn ty sp _, .packet b' fn' ty' sp' _ =>
    b = b' && fn = fn' && ty = ty' && sp = sp' && x.origins.any fun o => y.origins.any fun p => o.src = p.src && p.seq < o.seq
  | _, _ => false

/-- An operation at the same destination lands before another (17 R317, R326). -/
def landsBefore (x y : Landing) : Bool := y.job = x.job && (laterThan x y || laterRound x y)

/-- Adds to some of the landings those that land before one of them at its destination. -/
def State.addBefore (s : State) (is : List Nat) : List Nat :=
  let ls := s.landings.zipIdx
  is ++ (ls.filter fun (b, j) => !is.contains j && ls.any fun (a, i) =>
    is.contains i && b.part = a.part && landsBefore a.body b.body).map (·.2)

/-- A landing, and all that lands before it, as far as so many links go. -/
def State.landChain (s : State) : Nat → List Nat → List Nat
  | 0, is => is
  | n + 1, is => State.landChain s n (s.addBefore is)

/-- Another landing holds this one up: it lands before this one, which does not in turn land before it. Packets that two devices sent
in contradictory orders land in either order (DESIGN CHOICE, log 107). -/
def State.heldUp (s : State) (i : Nat) (a : Arrived) : Bool :=
  s.landings.zipIdx.any fun (b, j) => j ≠ i && b.part = a.part && landsBefore a.body b.body
    && !(s.landChain s.landings.length [j]).contains i

/-- A segment of a remote copy is served by the BTE of the cluster on which it lands, which is fenced (01 R20; 19 R347). -/
def State.bteHeld (s : State) (a : Arrived) : Bool :=
  !s.fences.isEmpty && match s.jobRange a.part with
    | none => false
    | some (c, r) => isSegment a.body.op && (RemPieces a.body.op).any fun p =>
        match s.landAt c r p.1 p.2.length true with | .ok ps => ps.any fun p => s.fenced (unitCode p.leaf.home 6 0) | _ => false

/-- No earlier operation of the same sender and slot toward the same device, and no packet of an earlier round, is still to
land (17 R317, R326). -/
def State.mayLand (s : State) (i : Nat) (a : Arrived) : Bool :=
  !(s.fcopies.any fun f => landsBefore a.body f.body && inBox a.body.dst f.reach) && !s.heldUp i a && !s.bteHeld a
    && !(s.rounds.any fun r => r.first.job = a.body.job && r.first.dst = a.body.dst && r.parts.any fun c =>
        a.body.origins.any fun o => o.src = c.origin.src && o.slot = c.origin.slot && c.origin.seq < o.seq)

/-- REMOTE_LANDING: the n-th operation at its destination, or one that a peer sent. -/
def execRemoteLanding (n : Nat) (fromPeer : Option Landing) (s : State) : Out :=
  let (s1, i) := match fromPeer with
    | none => (s, n)
    | some l => (s.deliver l.dst l, s.landings.length)
  match s1.landings[i]? with
  | none => .next s1
  | some a => if a.waits.isEmpty && s1.mayLand i a then .next (s1.land i a) else .next s1

/-! Acknowledgements and responses (17 R321, R322, R325, R329). -/

/-- The job of a context's partition. -/
def State.jobOf (s : State) (ctx : Nat) : Nat := match s.ctx? ctx with | some c => (s.place c.part).jobNo | none => 0

/-- Traffic from a peer for an operation that nothing waits for any more: under an old key it is still dropped and counted
(17 R329). -/
def State.unawaited (s : State) (peer : List Nat) (tag : Nat) : State :=
  match s.rejoins.find? fun r => r.coord = peer && tag < r.below with
  | some r => s.dropStale r
  | none => s

/-- An acknowledgement arrives at the sender's slot milestone; one for an operation sealed under an old key is dropped
(17 R329). -/
def State.ackAt (s : State) (a : Ack) : State :=
  match s.awaits.find? fun w => w.tag = a.tag && w.from_.contains a.peer with
  | none => s.unawaited a.peer a.tag
  | some w =>
    match s.stale (s.jobOf w.ctx) a.peer a.tag with
    | some r => s.dropStale r
    | none =>
    let left := w.from_.erase a.peer
    let s1 : State := { s with
      awaits := if left.isEmpty then s.awaits.erase w else s.awaits.map fun x => if x = w then { w with from_ := left } else x }
    s1.slotUpd w.ctx w.cluster w.ms (if a.err = 0 then .arrive 1 0 else .fail a.err)

/-- ACK_ARRIVAL: the n-th acknowledgement on its way, or a peer's. -/
def execAckArrival (n : Nat) (fromPeer : Option Ack) (s : State) : Out :=
  match fromPeer with
  | some a => .next (s.ackAt a)
  | none =>
    match s.acks[n]? with
    | none => .next s
    | some (_, a) => .next (State.ackAt { s with acks := s.acks.eraseIdx n } a)

/-- The operation is a contribution to a round that is still pending: R317 decides on it. -/
def State.inRound (s : State) (tag : Nat) : Bool := s.rounds.any fun r => r.parts.any fun c => c.tag = tag

/-- The peers from which an acknowledgement never comes: they have reset since the operation, or stand outside the package, where
silence past the timeout counts as a reset (17 R329; DESIGN CHOICE, log 127). -/
def State.silent (s : State) (w : Await) : List (List Nat) :=
  w.from_.filter fun p => (s.stale (s.jobOf w.ctx) p w.tag).isSome || (s.partAt (s.jobOf w.ctx) p).isNone

/-- The timeout of an operation has passed, and some acknowledgement never comes. -/
def State.overdue (s : State) (w : Await) : Bool :=
  !s.inRound w.tag && (match w.until_ with | some t => t ≤ s.now | none => false) && !(s.silent w).isEmpty

/-- ACKNOWLEDGEMENT_TIMEOUT: the n-th operation some of whose acknowledgements never come: ERR 3, and it waits for the others alone
(17 R329). -/
def execAcknowledgementTimeout (n : Nat) (s : State) : Out :=
  match s.awaits[n]? with
  | none => .next s
  | some w =>
    if !s.overdue w then .next s
    else
      let left := w.from_.filter fun p => !(s.silent w).contains p
      let awaits := if left.isEmpty then s.awaits.eraseIdx n else s.awaits.set n { w with from_ := left }
      .next (State.slotUpd { s with awaits } w.ctx w.cluster w.ms (.fail 3))

/-- A returned pattern as the destination receives it (05 R70). -/
def landedTo (dst : LDst) (ty : Ty) (x : W64) : W64 :=
  BitVec.ofNat 64 (extend ty.isSigned ty.bits (match dst with | .v _ 1 => 32 | _ => 64) x.toNat)

/-- A response reaches the load that awaits it. -/
def State.response (s : State) (r : Response) : State :=
  match s.loads.find? fun l => l.id = r.tag && match l.kind with | .remote .. => true | _ => false with
  | none => s.unawaited r.peer r.tag
  | some l =>
    match l.kind with
    | .remote ty g1 ms cluster addrs _ =>
      match s.stale (s.jobOf l.gid.ctx) r.peer r.tag with
      | some x => s.dropStale x
      | none =>
      if r.err = 0 then
        { s with loads := s.loads.map fun x =>
            if x.id = l.id then { x with kind := .mem (r.lanes.map fun v => (v.1, landedTo l.dst ty v.2)) none } else x }
      else
        let lanes := r.lanes.map (·.1)
        let low := addrs.find? fun x => lanes.contains x.1
        let t : Trap :=
          { cause := if r.err = 4 then .uncorr else .prot
            info := if r.err = 4 then 0 else (match low with | some x => x.2 | none => 0)
            lanes := if g1 then 0 else maskOf lanes }
        let s1 := s.failLoad l t
        if ms = 0 then s1 else s1.slotUpd l.gid.ctx cluster ms (.fail r.err)
    | _ => s

/-- REMOTE_RESPONSE: the n-th response on its way, or a peer's. -/
def execRemoteResponse (n : Nat) (fromPeer : Option Response) (s : State) : Out :=
  match fromPeer with
  | some r => .next (s.response r)
  | none =>
    match s.resps[n]? with
    | none => .next s
    | some (_, r) => .next (State.response { s with resps := s.resps.eraseIdx n } r)

/-- REMOTE_TIMEOUT: the n-th remote read or atomic whose response did not come in time (17 R322). -/
def execRemoteTimeout (n : Nat) (s : State) : Out :=
  match (s.loads.filter fun l => match l.kind with | .remote .. => true | _ => false)[n]? with
  | none => .next s
  | some l =>
    match l.kind with
    | .remote _ g1 ms cluster addrs until_ =>
      if s.now < until_ then .next s
      else
        let s1 := s.failLoad l { cause := .mserr, info := ms, lanes := if g1 then 0 else maskOf (addrs.map (·.1)) }
        .next (if ms = 0 then s1 else s1.slotUpd l.gid.ctx cluster ms (.fail 3))
    | _ => .next s

/-! Allowance, links, the fabric manager (17 R301, R302, R307, R328, R329). -/

/-- The next hop of a slot that returns costs and grants anew: the first that has passed data on, or else the one of the least room
(17 R307; DESIGN CHOICE, log 9). -/
def returnHop (hs : List Credit) : Option Nat :=
  (hs.findIdx? fun h => 0 < h.passed).or (hs.findIdx? fun h => hs.all fun x => h.grant - h.owed ≤ x.grant - x.owed)

/-- A hop returns the costs of what it has passed on, and grants anew. -/
def Credit.give (h : Credit) (grant : Nat) : Credit := { h with grant, owed := h.owed - h.passed, passed := 0 }

/-- One of the next hops of a slot does so. -/
def giveBack (grant : Nat) (hs : List Credit) : List Credit :=
  match returnHop hs with
  | some i => hs.modify i fun h => h.give grant
  | none => hs

/-- ALLOWANCE_RETURN: a next hop of a slot returns the costs of what it has passed on, and grants anew (17 R307). -/
def execAllowanceReturn (ctx slot grant : Nat) (s : State) : Out :=
  match s.ctx? ctx with
  | none => .next s
  | some c =>
    if (c.binding? slot).isSome && s.jobCtx c.part = some ctx && c.st ≠ .saved then
      .next (s.updCtx ctx fun c => { c with credits := c.credits.modify slot (giveBack grant) })
    else .next s

/-- LANE_SPARING: the spare, lane 8, takes the place of a weak lane. -/
def execLaneSparing (link lane : Nat) (s : State) : Out :=
  .next (s.updLink link fun l =>
    if l.lanes.contains lane && !l.lanes.contains 8 then { l with lanes := l.lanes.map fun x => if x = lane then 8 else x } else l)

/-- PEER_REJOIN: a fresh link key; from now on what was sealed under the old one is dropped, and what had arrived of it is
counted: acknowledgements, responses, and operations for the peer. Rounds that wait for the peer take nothing of it any more
(17 R329). -/
def execPeerRejoin (link : Nat) (peer : Peer) (key : Nat) (s : State) : Out :=
  let job := peer.job
  let coord := peer.coord
  let ours (p : Nat) : Bool := (s.place p).jobNo = job
  let acks := s.acks.filter fun a => !(ours a.1 && a.2.peer = coord)
  let resps := s.resps.filter fun r => !(ours r.1 && r.2.peer = coord)
  let landings := s.landings.filter fun a => !(a.body.job = job && a.body.dst = coord)
  let gone := (s.acks.length - acks.length) + (s.resps.length - resps.length) + (s.landings.length - landings.length)
  let s1 : State := { s with
    acks, resps, landings
    rejoins := (s.rejoins.filter fun r => !(r.job = job && r.coord = coord)) ++ [{ job, coord, below := s.tick + 1, link }]
    rounds := s.rounds.map fun r =>
      if r.first.job = job && !(r.parts.any fun c => c.origin.src = coord) then { r with lost := r.lost ++ [coord] } else r }
  .next (s1.updLink link fun l => { l with key, dropped := l.dropped + gone })

/-- MARGIN_SAMPLING. -/
def execMarginSampling (link : Nat) (corrected margin : W32) (s : State) : Out :=
  .next (s.updLink link fun l => { l with corrected, margin })

/-- An assignment that a job can have (17 R301). -/
def assignmentOk (a : Assignment) : Bool :=
  1 ≤ a.sizes.length && a.sizes.length ≤ 5 && a.sizes.all (fun n => 1 ≤ n && n ≤ 32)
    && a.sizes.foldl (· * ·) 1 ≤ 16384 && a.coord.length = a.sizes.length
    && (a.coord.zip a.sizes).all fun (c, n) => c < n

/-- The other partitions of the job agree on its sizes, and none has the coordinate (17 R301). -/
def State.assignmentFits (s : State) (a : Assignment) : Bool :=
  s.places.zipIdx.all fun (p, i) => i = a.part || p.sizes.isEmpty || p.jobNo ≠ a.job || (p.sizes = a.sizes && p.coord ≠ a.coord)

/-- FABRIC_MANAGER_ASSIGNMENT: the partition's place; the slots of its contexts read their hops' credit. -/
def execFabricManagerAssignment (a : Assignment) (s : State) : Out :=
  if s.places.length ≤ a.part || !assignmentOk a || !s.assignmentFits a then .next s
  else
    let p : Place5 :=
      { coord := a.coord, sizes := a.sizes, job := a.jobCtx, jobNo := a.job, switches := a.switches, attach := a.attach }
    let s1 : State := { s with places := s.places.set a.part p }
    .next { s1 with ctxs := s1.ctxs.map fun c => if c.part = a.part then { c with credits := s1.creditsOf c } else c }

end Sys2Proof.Machine
end

