-- ==== Sys2Proof/Machine/Bte.lean ====
section
/-! DEFINITION. The bulk transfer engine: starts, copies, tiles and remote segments (13 R256 to R263, R252; 17 R323; 19 R338). -/

namespace Sys2Proof.Machine

/-! Templates and rows (13 R258, R260). -/

structure Tmpl where
  mode : Nat
  esize : Nat
  flags : Nat
  unit : Nat
  src : W64
  dst : W64
  rows : Nat
  rowb : Nat
  ss : W64
  ds : W64
  ms : W64
  ox : Int
  oy : Int
  ww : Nat
  wh : Nat
  iw : Nat
  deriving DecidableEq, Repr

def Tmpl.ofBytes (b : List Byte) : Tmpl :=
  { mode := nat8 b 0 1, esize := nat8 b 1 1, flags := nat8 b 2 2, unit := nat8 b 4 1, src := word64 b 8, dst := word64 b 0x10
    rows := nat8 b 0x18 4, rowb := nat8 b 0x1C 4, ss := word64 b 0x20, ds := word64 b 0x28, ms := word64 b 0x30
    ox := toInt true 16 (nat8 b 0x38 2), oy := toInt true 16 (nat8 b 0x3A 2), ww := nat8 b 0x3C 1, wh := nat8 b 0x3D 1
    iw := nat8 b 0x3E 2 }

def Start.t (s : Start) : Tmpl := Tmpl.ofBytes s.tmpl
def Tmpl.srcCw (t : Tmpl) : Bool := t.flags / 2 % 2 = 1
def Tmpl.dstCw (t : Tmpl) : Bool := t.flags / 4 % 2 = 1
def Tmpl.streamB (t : Tmpl) : Bool := t.flags / 8 % 2 = 1

/-- Rows of a copy. -/
def Tmpl.count (t : Tmpl) : Nat := if t.mode = 2 then t.ww * t.wh else t.rows

/-- Bytes that a copy counts. -/
def Tmpl.bytes (t : Tmpl) : Nat := t.count * t.rowb

/-- PARAM + r as 64 bits. -/
def shifted (p : W32) (r : Nat) : W64 := p.signExtend 64 + BitVec.ofNat 64 r

/-- The pixel of a WINDOW row. -/
def Tmpl.pixel (t : Tmpl) (p : W32) (r : Nat) : Int × Int :=
  (t.ox + toInt true 16 p.toNat + (r % t.ww : Nat), t.oy + toInt true 16 (p.toNat / 65536) + (r / t.ww : Nat))

/-- The address at which a GATHER row's index stands. -/
def Tmpl.indexAt (t : Tmpl) (p : W32) (r : Nat) : W64 := t.src + 4 * shifted p r

/-- The address of a source row; GATHER's depends on its index. -/
def Tmpl.srcAt (t : Tmpl) (p : W32) (r : Nat) : W64 :=
  let rb := BitVec.ofNat 64 t.rowb
  match t.mode with
  | 0 => t.src + shifted p r * rb
  | 2 => let (x, y) := t.pixel p r; t.src + BitVec.ofInt 64 y * t.ss + BitVec.ofInt 64 x * rb
  | _ => t.src + shifted p r * t.ss

/-- The address of a destination row. -/
def Tmpl.dstAt (t : Tmpl) (p : W32) (r : Nat) : W64 :=
  if t.mode = 0 then t.dst + shifted p r * BitVec.ofNat 64 t.rowb else t.dst + BitVec.ofNat 64 r * t.ds

/-- A WINDOW row outside the image is written as zeros. -/
def Tmpl.outside (t : Tmpl) (p : W32) (r : Nat) : Bool :=
  t.mode = 2 && (let (x, y) := t.pixel p r; !(0 ≤ x && x < t.iw && 0 ≤ y && y < t.rows))

/-! Reading and writing for a copy (13 R261). -/

/-- A span cut at aligned 32-byte boundaries. -/
def cuts (va : W64) (n : Nat) : List (W64 × Nat) :=
  if n = 0 then []
  else
    let first := min n (32 - va.toNat % 32)
    (va, first) :: (List.range ((n - first + 31) / 32)).map fun j =>
      (va + BitVec.ofNat 64 (first + 32 * j), min 32 (n - first - 32 * j))

/-- What a copy's access comes to. -/
inductive Acc (α : Type) where
  | err (e : Nat)
  | miss (ms : List (Miss × Bool))
  /-- a line of that context cannot leave for a new one (11 R219) -/
  | full (owner : Nat)
  | moving
  | ok (x : α)

/-- Where n bytes of global memory stand for a copy of a cluster's engine: their pieces, and the row of a remap window. -/
def State.bteAt (s : State) (c : Ctx) (cluster : Nat) (va : W64) (n : Nat) (write : Bool) :
    Acc (List Piece × Option (Remap × Nat × Nat)) :=
  match s.xlat c cluster va with
  | .prot => .err 2
  | .aperture _ => .err 2
  | .fabric _ => .err 2
  | .miss ms => .miss ms
  | .wait => .moving
  | .ia ia => go ia none
  | .row ia d row e => if write && d.foreign e then .err 2 else go ia (some (d, row, e))
where
  go (ia : Nat) (row : Option (Remap × Nat × Nat)) : Acc (List Piece × Option (Remap × Nat × Nat)) :=
    let x := s.span c ia n
    if x.held then .moving
    else if write && x.pieces.any fun p => p.leaf.kind = 1 then .err 2
    else if !x.missing.isEmpty then .miss x.missing
    else if s.unreached cluster c.no x.pieces then .moving
    else .ok (x.pieces, row)

/-- An access that follows another. -/
def Acc.bind {α β : Type} (a : Acc α) (k : α → Acc β) : Acc β :=
  match a with
  | .err e => .err e
  | .miss ms => .miss ms
  | .full o => .full o
  | .moving => .moving
  | .ok x => k x

/-- All of several accesses, none of which makes room: a failure before a missing page before a moving one. -/
def Acc.all {α : Type} (xs : List (Acc α)) : Acc (List α) :=
  match xs.findSome? fun x => match x with | .err e => some e | _ => none with
  | some e => .err e
  | none =>
    let ms := xs.flatMap fun x => match x with | .miss m => m | _ => []
    if !ms.isEmpty then .miss (distinctMiss ms)
    else if xs.any fun x => match x with | .moving => true | _ => false then .moving
    else .ok (xs.filterMap fun x => match x with | .ok y => some y | _ => none)

/-- The cluster's line requests for pages whose home is elsewhere (11 R196). -/
def State.requests (s : State) (c : Ctx) (cluster : Nat) (ps : List Piece) : State :=
  (linesIn ps).foldl (fun s x => s.request c cluster x.1 x.2) s

/-- n bytes of a source: published memory, or the window of the engine's cluster. -/
def State.bteRead (s : State) (c : Ctx) (cluster : Nat) (cw : Bool) (va : W64) (n : Nat) : Acc (List Byte × State) :=
  if cw then
    if s.cwProt c.no cluster va.toNat n then .err 2
    else if s.winWaits cluster va.toNat n then .moving
    else if s.badScratch cluster va.toNat n then .err 4
    else .ok (s.readScratch cluster va.toNat n, s)
  else
    (Acc.all ((cuts va n).map fun p => s.bteAt c cluster p.1 p.2 false)).bind fun xs =>
      let ps := xs.flatMap (·.1)
      if s.piecesBad c.no ps then .err 4 else .ok (s.readPieces c.no ps, s.requests c cluster ps)

/-- Runs of window bytes with the same owner: the switched-out team whose former share holds them, with the offset there, or
none (19 R338). -/
def State.shareRuns (s : State) (ctx cluster off n : Nat) : List (Nat × Nat × Option (W64 × Nat)) :=
  if s.teams.all fun t => t.former.isNone then [(off, n, none)]
  else (List.range n).foldr (fun j acc =>
    let x := s.formerAt ctx cluster (off + j)
    match acc with
    | (a, k, y) :: rest => if x.map (·.1) = y.map (·.1) then (off + j, k + 1, x) :: rest else (off + j, 1, x) :: (a, k, y) :: rest
    | [] => [(off + j, 1, x)]) []

/-- Writes bytes into a window, holding back what falls into the former share of a switched-out team (19 R338). -/
def State.bteScratch (s : State) (c : Ctx) (cluster off : Nat) (bs : List Byte) : Acc State :=
  let ps := (cuts (BitVec.ofNat 64 off) bs.length).flatMap fun p => s.shareRuns c.no cluster p.1.toNat p.2
  if ps.any fun p => p.2.2.isNone && s.cwProt c.no cluster p.1 p.2.1 then .err 2
  else if ps.any fun p => p.2.2.isNone && s.winWaits cluster p.1 p.2.1 then .moving
  else .ok (ps.foldl (fun s p =>
    let x := (bs.drop (p.1 - off)).take p.2.1
    match p.2.2 with
    | some (task, o) => s.hold c.no task (.bytes o x)
    | none => s.writeScratch cluster p.1 x) s)

/-- One piece of a copy is written: a shared row of a window is resolved, and a new ember line finds room, in the state that the
pieces before left (11 R219, R226). The line's page is walked again, as a line that left may have taken its late frame. -/
def State.bteWrite1 (s : State) (c : Ctx) (cluster : Nat) (va : W64) (bs : List Byte) : Acc State :=
  let put (s : State) (x : List Piece × Option (Remap × Nat × Nat)) : Acc State :=
    match s.roomFor c.no x.1 with
    | .empty owner => .full owner
    | .ok s1 => .ok (s1.iaWrite c (iaOf x.1) bs)
  (s.bteAt c cluster va bs.length true).bind fun x =>
    match x.2 with
    | none => put s x
    | some (d, row, e) =>
      if bitsN e 49 49 = 0 then put s x
      else match s.cow c cluster d row e with
        | .prot => .err 2
        | .miss ms => .miss ms
        | .wait => .moving
        | .ok s1 => (s1.bteAt c cluster va bs.length true).bind (put s1)

/-- The pieces of a row, in order. -/
def State.bteWrites (s : State) (c : Ctx) (cluster : Nat) : List (W64 × List Byte) → Acc State
  | [] => .ok s
  | (va, bs) :: rest => (s.bteWrite1 c cluster va bs).bind fun s1 => State.bteWrites s1 c cluster rest

/-- Writes bytes of a copy to global memory, once every piece can be reached. DEDUCED, log 61. -/
def State.bteWrite (s : State) (c : Ctx) (cluster : Nat) (va : W64) (bs : List Byte) : Acc State :=
  let ps := cuts va bs.length
  (Acc.all (ps.map fun p => s.bteAt c cluster p.1 p.2 true)).bind fun xs =>
    (s.bteWrites c cluster (ps.map fun p => (p.1, (bs.drop (p.1 - va).toNat).take p.2))).bind fun s1 =>
      .ok (s1.requests c cluster (xs.flatMap (·.1)))

/-! Copies. -/

def State.setCopy (s : State) (x : Copy) : State := { s with copies := s.copies.map fun y => if y.id = x.id then x else y }
def State.dropCopy (s : State) (id : Nat) : State := { s with copies := s.copies.filter fun y => y.id ≠ id }

/-- The unit of a TOSTREAM copy. -/
def Start.gunit (s : Start) : Nat := s.cluster * 32 + s.t.unit

/-- The Engine error report of a copy. -/
def State.copyReport (s : State) (x : Start) (e : Nat) : Report :=
  engineReport x.ctx (if x.remote.isSome then 2 else 1) e x.idx x.channel 0 x.task x.t.ms (s.posOf x.cluster)

/-- START_RESEND: the n-th refused start is sent again (13 R257). -/
def execStartResend (n : Nat) (s : State) : Out :=
  match (s.starts.filter fun t => t.st = .refused)[n]? with
  | none => .next s
  | some t =>
    if s.startBehind t || Config.channelQueue ≤ s.queued t.cluster t.channel || s.fenced (unitCode t.cluster 6 0) then .next s
    else .next (State.offer { s with starts := s.starts.filter fun x => x.id ≠ t.id } { t with st := .queued })

/-- The base of row 0 is misaligned (13 R263). -/
def Start.misaligned (x : Start) : Bool :=
  let t := x.t
  (t.mode ≠ 3 && (t.dstAt x.param 0).toNat % 32 ≠ 0)
    || (if t.mode = 4 then (t.indexAt x.param 0).toNat % 4 ≠ 0 else (t.srcAt x.param 0).toNat % 32 ≠ 0)

/-- A start fails at issue. -/
def State.failStart (s : State) (x : Start) (e : Nat) : State :=
  let s1 : State := { s with starts := s.starts.filter fun y => y.id ≠ x.id }
  let s2 := (s1.finishAt x.ctx x.task x.cluster x.t.ms 0 e (fun e => s.copyReport x e)).getD s1
  match x.remote with
  | none => s2
  | some _ => { s2 with awaits := s2.awaits.map fun a => if a.tag = x.id then { a with until_ := some (s.now + s.timeout) } else a }

/-- COPY_BEGIN: a channel begins its first accepted start (13 R257, R262, R263). A TOSTREAM copy for a disabled matrix unit reserves
and fills its stream like any other; the spec gives ILL to the instructions that name the unit alone (01 R26; DESIGN CHOICE, log
108). -/
def execCopyBegin (cluster channel : Nat) (s : State) : Out :=
  match s.starts.find? fun t => t.cluster = cluster && t.channel = channel && t.st = .queued with
  | none => .next s
  | some x =>
    let t := x.t
    if !x.waits.isEmpty then .next s
    else match (if t.ms = 0 then Ref.ok (.win cluster 0) else s.mref x.ctx cluster t.ms) with
      | .miss ms =>
        .next (State.reportMiss { s with starts := s.starts.map fun y => if y.id = x.id then { y with waits := ms.map (·.1) } else y }
          x.ctx ms)
      | r =>
        if (match r with | .ok l => t.ms ≠ 0 && s.locUnreached cluster l | _ => false) then .next s
        else if x.misaligned then .next (s.failStart x 1)
        else if t.mode = 3 && x.vectorOnly then .next (s.failStart x 2)
        else match r with
          | .trap _ => .next (s.failStart x 2)
          | _ =>
            let begun (s : State) : State :=
              { s with
                starts := s.starts.filter fun y => y.id ≠ x.id
                copies := s.copies ++ [{ id := x.id, start := x, row := 0, sent := 0, waits := [], err := 0 }] }
            if t.mode ≠ 3 then .next (begun s)
            else if s.fenced (unitCode cluster 3 t.unit) then .next s
            else
              let m := s.munit x.gunit
              let ps := m.stream t.streamB
              if m.heldByOther x.ctx || 4 ≤ ps.length then .next s
              else
                let p : TilePos := { ctx := x.ctx, copy := x.id, esize := t.esize, bytes := [], whole := false, entered := false }
                .next (begun (s.setUnit x.gunit (m.setStream t.streamB (ps ++ [p]))))

/-- A copy stops at an access: a TOSTREAM copy frees its reservation (13 R262). -/
def State.stopCopy (s : State) (x : Copy) (e : Nat) : State :=
  let s1 := s.setCopy { x with err := e }
  if x.start.t.mode ≠ 3 then s1
  else
    let u := x.start.gunit
    let b := x.start.t.streamB
    let m := s1.munit u
    (s1.setUnit u (m.setStream b ((m.stream b).filter fun p => !(p.copy = x.id && !p.entered)))).unitService u

/-- What an access answers, for a copy. -/
def State.withAcc {α : Type} (s : State) (x : Copy) (a : Acc α) (k : α → State) : State :=
  match a with
  | .err e => s.stopCopy x e
  | .miss ms => (s.reportMiss x.start.ctx ms).setCopy { x with waits := ms.map (·.1) }
  | .full o =>
    ((s.otherPool x.start.ctx o).reportMiss x.start.ctx [(.ember, false)]).setCopy { x with waits := [.ember] }
  | .moving => s
  | .ok y => k y

/-- The address of a GATHER row from its index, which names a row of the window that covers SSTRIDE (11 R224, 13 R260). A
row whose address there is not aligned to the bytes that it copies runs on into the next row of the window, piece by piece, as R224
forbids to an access alone (DESIGN CHOICE, log 144). -/
def State.gatherAt (s : State) (c : Ctx) (cluster : Nat) (t : Tmpl) (idx : Nat) : Acc W64 :=
  match s.rangeOf c t.ss.toNat with
  | none => .err 2
  | some r =>
    if r.kind ≠ 1 then .err 2
    else match s.remap c cluster r with
      | .miss ms => .miss ms
      | .wait => .moving
      | .malformed => .err 2
      | .ok d =>
        if 2 ^ d.k < t.rowb || s.rangeOf c (t.ss.toNat + idx * 2 ^ d.k) ≠ some r then .err 2
        else .ok (t.ss + BitVec.ofNat 64 (idx * 2 ^ d.k))

/-- The source address of a row; GATHER reads its index. -/
def State.rowSrc (s : State) (c : Ctx) (x : Copy) : Acc (W64 × State) :=
  let t := x.start.t
  if t.mode ≠ 4 then .ok (t.srcAt x.start.param x.row, s)
  else (s.bteRead c x.start.cluster false (t.indexAt x.start.param x.row) 4).bind fun (b, s1) =>
    (s1.gatherAt c x.start.cluster t (leNat b)).bind fun a => .ok (a, s1)

/-- n bytes of the current row from an offset on. -/
def State.rowRead (s : State) (c : Ctx) (x : Copy) (off n : Nat) : Acc (List Byte × State) :=
  let t := x.start.t
  if t.outside x.start.param x.row then .ok (List.replicate n 0, s)
  else (s.rowSrc c x).bind fun (a, s1) => s1.bteRead c x.start.cluster t.srcCw (a + BitVec.ofNat 64 off) n

/-- The chunks that the rows landed since the last time complete are set (13 R252); while the milestone cannot be read they are left
to a later row, or to the end of the copy (DEDUCED, log 126). -/
def State.markChunks (s : State) (x : Copy) : State :=
  let t := x.start.t
  if t.ms = 0 || t.mode = 3 || x.marked = x.row then s
  else match s.msOf x.start.ctx x.start.cluster t.ms with
    | none => s
    | some m =>
      let s1 := s.setCopy { x with marked := x.row }
      let rs := (List.range x.row).reverse.map fun r => ((t.dstAt x.start.param r).toNat, t.rowb)
      if m.chunksDue t.dstCw rs x.marked then
        s1.updRef x.start.ctx x.start.task x.start.cluster t.ms (.chunks t.dstCw rs x.marked)
      else s1

/-- A row of a TOSTREAM copy enters its tile. -/
def State.tileRow (s : State) (x : Copy) (bs : List Byte) : State :=
  let t := x.start.t
  let m := s.munit x.start.gunit
  s.setUnit x.start.gunit (m.setStream t.streamB ((m.stream t.streamB).map fun p =>
    if p.copy = x.id && !p.entered then { p with bytes := p.bytes ++ bs, whole := x.row + 1 = t.count } else p))

/-- One row of a copy lands (13 R260, R261). -/
def State.copyRow (s : State) (x : Copy) : State :=
  let t := x.start.t
  match s.ctx? x.start.ctx with
  | none => s
  | some c =>
    s.withAcc x (s.rowRead c x 0 t.rowb) fun (bs, s1) =>
      let y := { x with row := x.row + 1 }
      if t.mode = 3 then (s1.tileRow x bs).setCopy y
      else
        let d := t.dstAt x.start.param x.row
        let w := if t.dstCw then
            (if Config.windowBytes < d.toNat + t.rowb then .err 2 else s1.bteScratch c x.start.cluster d.toNat bs)
          else s1.bteWrite c x.start.cluster d bs
        s.withAcc x w fun s2 => (s2.setCopy y).markChunks y

/-- The copies that run on this device's memory, and those that send. -/
def State.running (s : State) (remote : Bool) : List Copy :=
  s.copies.filter fun x => x.start.remote.isSome = remote && x.err = 0 && x.waits.isEmpty && x.row < x.start.t.count

/-- COPY_ROW_LANDED: a row of the n-th running copy. -/
def execCopyRowLanded (n : Nat) (s : State) : Out :=
  match (s.running false)[n]? with
  | none => .next s
  | some x => .next (s.copyRow x)

/-- TOSTREAM_TILE_ENTER: the first reserved tile of a stream enters it when it is whole (13 R262). -/
def execTostreamTileEnter (unit : Nat) (b : Bool) (s : State) : Out :=
  let m := s.munit unit
  let ps := m.stream b
  match ps.findIdx? fun p => !p.entered with
  | none => .next s
  | some i =>
    match ps[i]? with
    | none => .next s
    | some p =>
      if unit < 128 && p.whole then .next (s.setUnit unit (m.setStream b (ps.set i { p with entered := true }))) else .next s

/-- The tile of a copy has entered its stream. -/
def State.tileIn (s : State) (x : Copy) : Bool :=
  x.start.t.mode ≠ 3 || !((s.munit x.start.gunit).stream x.start.t.streamB).any fun p => p.copy = x.id && !p.entered

/-- A remote copy has been sent whole, or stopped: its acknowledgements are waited for from now on (17 R325, R329).
DEDUCED, log 60. -/
def State.armAcks (s : State) (tag : Nat) : State :=
  { s with awaits := s.awaits.map fun a => if a.tag = tag && a.until_.isNone then { a with until_ := some (s.now + s.timeout) } else a }

/-- COPY_COMPLETE: the n-th copy whose rows have all landed, or which has stopped (13 R260, R263). -/
def execCopyComplete (n : Nat) (s : State) : Out :=
  match (s.copies.filter fun x => x.waits.isEmpty && (x.err ≠ 0 || (x.row = x.start.t.count && s.tileIn x)))[n]? with
  | none => .next s
  | some x =>
    let t := x.start.t
    let s0 := if x.start.remote.isSome then s else s.markChunks x
    let s1 := (s0.dropCopy x.id).armAcks x.id
    match s1.finishAt x.start.ctx x.start.task x.start.cluster t.ms t.bytes x.err (fun e => s.copyReport x.start e) with
    | some s2 => .next s2
    | none =>
      match s.mref x.start.ctx x.start.cluster t.ms with
      | .miss ms => .next ((s.reportMiss x.start.ctx ms).setCopy { x with waits := ms.map (·.1) })
      | _ => .next s

/-- A segment of the current row of a remote copy (17 R323). It goes by the binding that the copy read when it was issued, and by the
allowance that its slot has now, which is 0 once the slot is cleared (DESIGN CHOICE, log 117). -/
def State.segment (s : State) (x : Copy) (k : Nat) (b : Binding) : State :=
  let t := x.start.t
  match s.ctx? x.start.ctx with
  | none => s
  | some c =>
    let p := s.place c.part
    let d := (t.dstAt x.start.param x.row).toNat
    match s.fabricRange c with
    | none => s.stopCopy x 2
    | some r =>
      if !(r.covers d && d + t.rowb - 1 ≤ r.limit.toNat) then s.stopCopy x 2
      else
        let n := min 65536 (t.rowb - x.sent)
        let cost := (n + 255) / 256
        if c.allowance k < cost then s
        else s.withAcc x (s.rowRead c x x.sent n) fun (bs, s1) =>
          let rowEnd := x.sent + n = t.rowb
          let last := rowEnd && x.row + 1 = t.count
          let op : RemOp := .segment (d - r.base.toNat + x.sent) bs (if last then some t.bytes else none)
          let body := mkBody s1 p k b op (if last then ackTo b p.coord x.id else []) x.id
          let s2 := (s1.updCtx c.no fun c => c.deduct k cost).send c.part p b cost body
          s2.setCopy (if rowEnd then { x with row := x.row + 1, sent := 0 } else { x with sent := x.sent + n })

/-- RCOPY_SEGMENT: the next segment of the n-th remote copy that has one. -/
def execRcopySegment (n : Nat) (s : State) : Out :=
  match (s.running true)[n]? with
  | none => .next s
  | some x =>
    match x.start.remote with
    | none => .next s
    | some (k, b) => .next (s.segment x k b)

end Sys2Proof.Machine
end

