-- ==== Sys2Proof/Machine/Fetch.lean ====
section
/-! DEFINITION. Fetching a group's next instruction: arrivals at signposts, the words of a block, and the rules of decode
that depend on where a word stands (05 R84 to R88, R92, R93; 01 R18). -/

namespace Sys2Proof

/-- The instruction ends its block (05 R85). -/
def Instr.endsBlock : Instr → Bool
  | .call .. | .bra .. | .brg .. | .bsa .. | .jmp .. | .ret .. | .exit .. | .exitG .. | .loop .. => true
  | _ => false

def Instr.isYield : Instr → Bool
  | .yield _ => true
  | _ => false

end Sys2Proof

namespace Sys2Proof.Machine

/-- What fetching a group's next instruction comes to, with the group after the arrivals it made. -/
inductive Fetched where
  | miss (g : Group) (ms : List (Miss × Bool))
  /-- a word's page migrates, or a unit that serves it is fenced -/
  | wait (g : Group)
  /-- a trap with the address that %tpc receives, the address of the word after, and E -/
  | trap (g : Group) (tpc next : W64) (t : Trap) (e : Bool)
  | ok (g : Group) (i : Instr)

/-- The arrivals that stand between a group and the first instruction of a block (05 R84, R86, R90). A group's first arrival, at
CODE, is its start, where a word that is not an ENTRY signpost is BRT (03 R34); any other is a fall-through. Each further
arrival pops an entry of the stack, so the fuel never runs out. -/
def State.enterBlock (s : State) (g : Group) : Nat → Fetched ⊕ Group × Block
  | 0 => .inl (.trap g g.pc (g.pc + 8) { cause := .ill } false)
  | n + 1 =>
    match g.block with
    | some b => .inr (g, b)
    | none =>
      let first := !g.started && !g.tmask && (match s.launchOf g.id with | some l => l.lrec.code = g.pc | none => false)
      let bad (c : Cause) : Fetched ⊕ Group × Block := .inl (.trap g g.pc (g.pc + 8) { cause := c } false)
      let ill := bad (if first then .brt else .ill)
      if g.pc.toNat % 8 ≠ 0 then ill
      else match s.codeWord g.id g.pc with
        | .prot _ => ill
        | .miss ms => .inl (.miss g ms)
        | .wait => .inl (.wait g)
        | .bad _ => bad .uncorr
        | .ok bs =>
          if !spOk (wordOf bs) || (first && !spEntry (wordOf bs)) then ill
          else State.enterBlock s (s.arrive { g with started := g.started || first } g.pc (wordOf bs)) n

/-- The form exists at the site (05 R92, R93; 01 R18). -/
def siteOk (site : Site) (sh : Shape) : Bool :=
  if site.isCc then sh.h.g && sh.on ≠ .coreOnly else sh.on ≠ .ccOnly

/-- The decoded word at an address, under the rules that hold wherever it stands (05 R84, R93). `stop` is the end of its
block, none for a word that is issued once more (07 R119). A word that is ILL by its own fields, whatever its literal, traps
whether or not the literal word can be fetched (DEDUCED, log 95); one that only the rules of its block, leg or site make ILL has its
literal fetched first (DESIGN CHOICE, log 110). -/
def State.fetchWord (s : State) (g : Group) (a : W64) (stop : Option W64) : Fetched :=
  match s.codeWord g.id a with
  | .prot _ => .trap g a (a + 8) { cause := .ill } false
  | .miss ms => .miss g ms
  | .wait => .wait g
  | .bad _ => .trap g a (a + 8) { cause := .uncorr } false
  | .ok bs =>
    let w := wordOf bs
    let lit := namesLit w
    let next := a + (if lit then 16 else 8)
    let bad (tpc : W64) (c : Cause) : Fetched := .trap g tpc next { cause := c } (bitsOf w 47 1 = 1)
    let go (after : Option W64) : Fetched :=
      match decode w after with
      | none => bad a .ill
      | some i =>
        match i.shape with
        | none => bad a .ill
        | some sh => if siteOk g.site sh then .ok g i else bad a .ill
    if !lit then go none
    else if stop = some (a + 8) then bad a .ill
    else match s.codeWord g.id (a + 8) with
      | .ok ls => go (some (wordOf ls))
      | r =>
        if (decode w (some 0)).isNone then bad a .ill
        else match r with
          | .prot _ => bad (a + 8) .ill
          | .miss ms => .miss g ms
          | .wait => .wait g
          | _ => bad a .uncorr

/-- The instruction at the program counter, under the rules of blocks and legs (05 R85, R87, R88). An uncorrectable RESUME
signpost traps with its own address, the group standing at an arrival there (05 R84; DEDUCED, log 32). The words are fetched before
these rules are applied (DESIGN CHOICE, log 110). -/
def State.fetchIn (s : State) (g : Group) (b : Block) : Fetched :=
  match s.fetchWord g g.pc (some b.stop) with
  | .ok g i =>
    match i.shape with
    | none => .ok g i
    | some sh =>
      let next := g.pc + BitVec.ofNat 64 (8 * sh.h.len)
      let ill : Fetched := .trap g g.pc next { cause := .ill } sh.h.e
      if Config.legLimit ≤ g.legPos then ill
      else if i.endsBlock && next ≠ b.stop then ill
      else if i.isYield then
        if next ≠ b.stop then ill
        else match s.codeWord g.id next with
          | .prot _ => ill
          | .miss ms => .miss g ms
          | .wait => .wait g
          | .bad _ =>
            .trap ({ g with pc := next, block := none }.endLeg s.now) next (next + 8) { cause := .uncorr } false
          | .ok bs => if spOk (wordOf bs) && spResume (wordOf bs) then .ok g i else ill
      else .ok g i
  | r => r

/-- The group's next instruction. While its spill area cannot be reached, a group that has entries there waits (19 R347; DEDUCED,
log 69). -/
def State.fetch (s : State) (g : Group) : Fetched :=
  if g.spill ≠ 0 && s.areaFenced g then .wait g
  else match g.reissue with
  | a :: _ => s.fetchWord g a none
  | [] =>
    match s.enterBlock g (g.stack.length + g.spill + 2) with
    | .inl f => f
    | .inr (g1, b) => s.fetchIn g1 b

/-- The code words that a fetch has read: the instruction's, its literal's, and the signpost's where the group has just arrived
at it. -/
def fetchedAt (g g1 : Group) (i : Instr) : List W64 :=
  g1.at_ :: (match i.shape with | some sh => if sh.h.len = 2 then [g1.at_ + 8] else [] | none => [])
    ++ match g.block, g1.block with | none, some b => [b.addr] | _, _ => []

/-- Fetches ask for lines as loads of the group do (05 R84; 11 R196, R199). -/
def State.noteFetch (s : State) (id : GroupId) (as : List W64) : State := s.noteLines id true (as.map fun a => (a, 8))

/-- What the fetch leads to: a next state, or an instruction to execute. A trap that a load raised after issue is taken
before the group's next instruction issues, a re-issued one too (07 R119, R146; DEDUCED, log 33). -/
def State.fetchRun (s : State) (g : Group) : State ⊕ Instr × State :=
  match g.pend with
  | (a, t) :: rest =>
    .inl (s.trapAt { g with pend := rest } a (a + 8) (some g.pc) [] t)
  | [] =>
    match s.fetch g with
    | .miss g1 ms => .inl ((s.setGroup g1).missing g1 ms)
    | .wait g1 => .inl (s.setGroup g1)
    | .trap g1 tpc next t e =>
      .inl (match g1.reissue with
        | [] => (s.setGroup g1).trapAt g1 tpc next none [] t e
        | _ :: rest => (s.setGroup g1).trapAt { g1 with reissue := rest } tpc next (some g1.pc) [] t)
    | .ok g1 i => .inr (i, { (s.setGroup g1).noteFetch g.id (fetchedAt g g1 i) with cur := some g1.id })

end Sys2Proof.Machine
end

