-- ==== Sys2Proof/Machine/Sched.lean ====
section
/-! DEFINITION. Issue: eligibility, the choice of a leg, deterministic rotation, data that lands, wait-for probes
(03 R46 to R48, R54 to R59; 05 R77). -/

namespace Sys2Proof.Machine

/-! Eligibility (03 R47). -/

/-- A parked group's instruction would go on, or trap. The other parked groups are completed by what they wait for.
DEDUCED, log 35. -/
def State.parkOver (s : State) (g : Group) : Park → Bool
  | .bar _ => false
  | .waitAny m _ _ => (s.tagErr g.site m).isSome
  | .waitAll m _ => (s.tagErr g.site m).isSome
  | .waitMs r p =>
    match s.msOf g.id.ctx g.site.cluster r with
    | some m => m.err ≠ 0 || reached m.phase p
    | none => false
  | .allowance k cost =>
    (match s.ctx? g.id.ctx with | some c => cost ≤ c.allowance k | none => false)
      && (s.allowq.find? fun q => q.1 = k && q.2.ctx = g.id.ctx).map (·.2) = some g.id
  | .rgrow _ => false
  | .triggers => !s.triggersFull g.id.ctx g.site.cluster
  | .launches _ _ => false
  | .unit u => !(s.munit u).heldByOther g.id.ctx
  | .accslot _ _ _ => false
  | .steps _ _ => false
  | .drop u => (s.munit u).steps.isEmpty
  | .cbld _ _ => false
  | .probe => false

/-- The group's next instruction waits for no main-file register: an empty source with FE = 0, or an empty destination (05 R78,
R79). One that traps, with EMPTY too, is not held. DEDUCED, log 12. -/
def State.nextFull (s : State) (g : Group) : Bool :=
  match s.fetch g with
  | .ok g1 i =>
    match i.shape with
    | none => true
    | some sh => match g1.filled sh with | .hold => false | _ => true
  | _ => true

/-- The group's team has its resources and may issue. -/
def State.mayIssue (s : State) (g : Group) : Bool := match s.teamOf g.id with | some t => t.st = .resident | none => false

/-- A group that a slot may pick (03 R47). A trap raised after issue waits for no source. -/
def State.eligible (s : State) (g : Group) : Bool :=
  s.mayIssue g && match g.st with
    | .ready => !g.pend.isEmpty || s.nextFull g
    | .parked w => s.parkOver g w
    | _ => false

def Group.inSlot (g : Group) : Bool := match g.st with | .issuing _ => true | _ => false

/-- Eligible or issuing. -/
def State.busy (s : State) (g : Group) : Bool := g.inSlot || s.eligible g

/-- The group in an issue slot. -/
def State.inSlot (s : State) (site : Site) (k : Nat) : Option Group :=
  s.groups.find? fun g => g.site = site && g.st = .issuing k && s.mayIssue g

/-- Issue slots of a site (01 R13, R18). -/
def slotsOf (site : Site) : Nat := if site.isCc then 1 else 2

/-! The choice of a leg (03 R48). -/

/-- Launch priority of a group. -/
def State.prioOf (s : State) (g : Group) : Nat := match s.launchOf g.id with | some l => l.lrec.prio | none => 3

/-- Cycles for which a group stays eligible before it is picked first. -/
def starve : Nat := 4096

/-- a is picked before b. -/
def State.picks (s : State) (a b : Group) : Bool :=
  let old (g : Group) : Bool := g.elig && starve ≤ s.now - g.since
  let at_ (g : Group) : Nat := if g.elig then g.since else s.now
  if old a != old b then old a
  else if old a && at_ a ≠ at_ b then at_ a < at_ b
  else if s.prioOf a ≠ s.prioOf b then s.prioOf a < s.prioOf b
  else if at_ a ≠ at_ b then at_ a < at_ b
  else a.first b

/-- The team runs on a logical core. -/
def State.isLogical (s : State) (ctx : Nat) (serial : W32) : Bool :=
  match s.launch? ctx serial with | some l => l.lrec.logical | none => false

def State.logicalGroup (s : State) (g : Group) : Bool := s.isLogical g.id.ctx (taskSerial g.id.task)

/-- The group whose turn it is on a logical core: the one whose leg has begun and not ended, or else the first from the rotation
position on that has not exited and is not parked on BAR (03 R55). -/
def State.turnOf (s : State) (t : Team) : Option Group :=
  let gs := sortBy (fun (a b : Group) => a.id.grp < b.id.grp)
    ((s.groupsOf t.ctx t.task).filter fun g => g.st ≠ .exited && g.atBar.isNone)
  ((t.inLeg.bind fun i => gs.find? fun g => g.id.grp = i).or (gs.find? fun g => t.turn ≤ g.id.grp)).or gs.head?

/-- The team that runs on the logical core that a physical core keeps resident. -/
def State.hosted (s : State) (core : Nat) : Option Team :=
  match s.hostings.find? fun h => h.core = core with
  | none => none
  | some h => s.teams.find? fun t =>
      t.st = .resident && s.isLogical t.ctx t.serial && t.idx % 1024 = h.lcore
        && (s.groupsOf t.ctx t.task).any fun g => g.site = .core core

/-- The rotation of the core lets this group issue. -/
def State.myTurn (s : State) (g : Group) : Bool :=
  match g.site with
  | .cc _ => false
  | .core k =>
    match s.hosted k with
    | none => false
    | some t => !((s.groupsOf t.ctx t.task).any Group.inSlot) && (s.turnOf t).map (·.id) = some g.id

/-- A slot may pick a group: the second slot issues for no logical core, the first follows its rotation (03 R55). -/
def State.candidate (s : State) (site : Site) (slot : Nat) (g : Group) : Bool :=
  g.site = site && s.eligible g && (!s.logicalGroup g || (slot = 0 && s.myTurn g))

/-- The group that a slot picks; of groups of two contexts that agree in all that R48 names, the one that stands first in the
list (DESIGN CHOICE, log 97). -/
def State.pick (s : State) (site : Site) (slot : Nat) : Option Group :=
  (s.groups.filter (s.candidate site slot)).foldl (fun b g =>
    match b with | none => some g | some x => if s.picks g x then some g else some x) none

/-- LEG_ISSUE: an empty slot takes the next leg, or goes on with the leg, of the group that it picks; on a logical core the
rotation stays with the group until its leg ends (03 R55; DEDUCED, log 39). -/
def execLegIssue (site : Site) (slot : Nat) (s : State) : Out :=
  if slotsOf site ≤ slot || (s.inSlot site slot).isSome then .next s
  else match s.pick site slot with
    | none => .next s
    | some g =>
      let s1 := s.setGroup { g with st := .issuing slot }
      .next (if s.logicalGroup g then s1.updTeam g.id.ctx g.id.task fun t =>
        { t with turn := g.id.grp + 1, inLeg := some g.id.grp } else s1)

/-- An issue slot's move: its group's next instruction, or the choice of a leg. -/
def State.slotMove (s : State) (site : Site) (slot : Nat) : State ⊕ Instr × State :=
  match s.inSlot site slot with
  | some g => s.fetchRun g
  | none => .inr (.legIssue site slot, s)

/-! Data that lands (05 R77; 07 R146). -/

/-- The lanes of a destination receive their values. -/
def Group.landed (g : Group) (dst : LDst) (vals : List (Nat × W64)) : Group :=
  let val (L : Nat) : Option Nat := (vals.find? fun v => v.1 = L).map fun v => v.2.toNat
  match dst with
  | .v n regs => (g.write (.v (Fin.ofNat 512 n)) (32 * regs) false val).markFull dst
  | .g n => match lastRes val with | some x => g.putG n (BitVec.ofNat 64 x) | none => g
  | .none => g

/-- A load of local data ends: its registers fill, or keep their contents with a trap to come. -/
def State.landLoad (s : State) (l : Load) : State :=
  match l.kind with
  | .mem vals bad =>
    match bad with
    | some lanes => s.failLoad l { cause := .uncorr, lanes }
    | none => State.updGroup { s with loads := s.loads.filter fun x => x.id ≠ l.id } l.gid fun g => g.landed l.dst vals
  | _ => s

def LKind.isMem : LKind → Bool
  | .mem _ _ => true
  | _ => false

/-- LOAD_DATA_LANDS: the n-th load whose data is on its way. -/
def execLoadDataLands (n : Nat) (s : State) : Out :=
  match (s.loads.filter fun l => l.kind.isMem)[n]? with
  | none => .next s
  | some l => .next (s.landLoad l)

/-! Wait-for probes (03 R58, R59, R63). -/

/-- The resolver that a milestone names, when it names one. -/
def resolverOf (m : Option Ms) : Option W64 :=
  match m with
  | none => none
  | some m => if m.resolver = 0 then none else some m.resolver

/-- The resolver of the milestone bound to a tag of a site. -/
def State.tagResolver (s : State) (site : Site) (tag : Nat) : Option W64 :=
  match s.tagRef site tag with
  | none => none
  | some t => resolverOf (s.msOf t.gid.ctx site.cluster t.ref)

/-- The task that a blocked group waits for; through a barrier, that of the lowest group that has not arrived. None is an
unknown resolver. A saved group waits for what it waited for when it was saved. The fuel bounds the groups of a chain of
barriers. DEDUCED, log 36. -/
def State.edge (s : State) : Nat → Group → Option W64
  | 0, _ => none
  | n + 1, g =>
    match g.blockedOn with
    | some (.waitMs r _) => resolverOf (s.msOf g.id.ctx g.site.cluster r)
    | some (.waitAny m _ _) => s.tagResolver g.site (lowBit (m &&& ~~~(s.tagsAt g.site)))
    | some (.waitAll m _) => s.tagResolver g.site (lowBit (m &&& ~~~(s.tagsAt g.site)))
    | some (.bar k) =>
      match (sortBy (fun (a b : Group) => a.id.grp < b.id.grp)
          ((s.groupsOf g.id.ctx g.id.task).filter fun x => x.st ≠ .exited && x.atBar ≠ some k)).head? with
      | none => none
      | some x => if s.busy x then none else State.edge s n x
    | _ => none

def edgeFuel : Nat := 512

/-- A probe ends without a cycle: one that PROBE sent lets its group go on. -/
def State.probeDies (s : State) (p : Probe) : State :=
  let s1 := { s with probes := s.probes.filter fun x => x.id ≠ p.id }
  if p.byInstr then
    match s1.group? p.origin with
    | none => s1
    | some g => match g.st with | .parked .probe => s1.complete g | _ => s1
  else s1

/-- DEADLOCK at the instruction on which the origin is blocked. -/
def State.deadlock (s : State) (g : Group) (hops : List W64) : State :=
  s.trapIssued g g.ilen g.ie hops { cause := .deadlock }

/-- The handler that a trap of the group would enter cannot be reached yet: its page migrates, or a unit that serves it is
fenced. -/
def State.handlerWaits (s : State) (g : Group) : Bool :=
  !g.tmask && s.handlerOf g.id ≠ 0 && s.target g.id (s.handlerOf g.id) = .wait

/-- Hops that a probe makes at most. -/
def maxHops : Nat := 16

/-- A probe reaches the task that it was sent to. -/
def State.probeReaches (s : State) (p : Probe) : State :=
  if p.target = p.origin.task then
    let s1 := { s with probes := s.probes.filter fun x => x.id ≠ p.id }
    match s1.group? p.origin with
    | none => s1
    | some g =>
      if !(g.isParked && !s1.busy g) then s1 else if s.handlerWaits g then s else s1.deadlock g p.hops
  else if maxHops ≤ p.hops.length + 1 then s.probeDies p
  else
    let gs := (s.groupsOf p.origin.ctx p.target).filter fun g => g.st ≠ .exited
    match s.team? p.origin.ctx p.target with
    | none => s.probeDies p
    | some t =>
      if gs.any s.busy || !t.missing.isEmpty then s.probeDies p
      else
        match (sortBy (fun (a b : Group) => a.id.grp < b.id.grp) gs).head? with
        | none => s.probeDies p
        | some g =>
          match s.edge edgeFuel g with
          | none => s.probeDies p
          | some r =>
            { s with probes := s.probes.map fun x =>
              if x.id = p.id then { p with target := r, hops := p.hops ++ [p.target] } else x }

/-- PROBE_HOP: the n-th probe under way. -/
def execProbeHop (n : Nat) (s : State) : Out :=
  match s.probes[n]? with
  | none => .next s
  | some p => .next (s.probeReaches p)

/-- A group has been blocked for as long as %wft says. -/
def State.probeDue (s : State) (g : Group) : Bool :=
  s.mayIssue g && !s.busy g && (g.isParked || g.st = .ready) && g.wft ≠ 0 && g.probeAt ≤ s.now

/-- PROBE_TIMER: the core of a blocked group sends a probe; an unknown resolver makes it die at once. -/
def execProbeTimer (gid : GroupId) (s : State) : Out :=
  match s.group? gid with
  | none => .next s
  | some g =>
    if !s.probeDue g then .next s
    else
      let s1 := s.setGroup { g with probeAt := g.probeAt + g.wft.toNat }
      match s.edge edgeFuel g with
      | none => .next s1
      | some r =>
        let (id, s2) := s1.fresh
        .next { s2 with probes := s2.probes ++ [{ id, origin := gid, target := r, hops := [], byInstr := false }] }

/-! Time-sharing (03 R56). -/

/-- The partition core number of a physical core (01 R25). -/
def State.coreNo (s : State) (core : Nat) : Option Nat :=
  (s.partCores (s.partOf (core / Config.coresPerCluster))).findIdx? fun k => k = core

/-- Teams that wait for a place, and may be placed (03 R38, R41; 19 R340). Those whose launch still waits on DEPMS are no
part of the queue's order (DESIGN CHOICE, log 98), nor are those of a saved context or under %prq (DEDUCED, log 40). -/
def State.placeable (s : State) (t : Team) : Bool :=
  t.st = .queued
    && (match s.ctx? t.ctx with | some c => c.st = .resident && !c.prq | none => false)
    && (t.requeued || match s.launch? t.ctx t.serial with | some l => l.dep = .met | none => false)

/-- Logical cores of a physical core that have a team to run, ascending. -/
def State.logicalWork (s : State) (core : Nat) : List Nat :=
  match s.coreNo core with
  | none => []
  | some c =>
    let part := s.partOf (core / Config.coresPerCluster)
    let p := (s.partCores part).length
    (List.range 1024).filter fun l => l % p = c && s.teams.any fun t =>
      s.placeable t && s.isLogical t.ctx t.serial && t.idx % 1024 = l
        && (match s.ctx? t.ctx with | some x => x.part = part | none => false)

/-- The next logical core after l, cyclically. -/
def cyclic (ls : List Nat) (l : Nat) : Option Nat :=
  match ls.find? fun x => l < x with
  | some x => some x
  | none => ls.head?

/-- The rotation of a core has waited long enough, or its team has retired; while that team is off the core for another reason, as a
missing page, the core turns at once (DESIGN CHOICE, log 119: 03 R56 names the other two alone). -/
def State.switchDue (s : State) (h : Hosting) : Bool :=
  h.done || match s.hosted h.core with
  | none => true
  | some _ => match h.waits with | some (_, c) => starve ≤ s.now - c | none => false

/-- DMODE_TIMESHARE_SWITCH: a physical core turns to its next logical core that has work, in cyclic order; after a retirement
that may be the same one again (03 R56). -/
def execDmodeTimeshareSwitch (core : Nat) (s : State) : Out :=
  match s.hostings.find? fun h => h.core = core with
  | none => .next s
  | some h =>
    match cyclic (s.logicalWork core) h.lcore with
    | none => .next s
    | some l =>
      if (l = h.lcore && !h.done) || !s.switchDue h then .next s
      else
        let s1 := { s with hostings := s.hostings.map fun x =>
          if x.core = core then { x with lcore := l, waits := none, done := false } else x }
        match s.hosted core with
        | none => .next s1
        | some t => .next (s1.leave t.ctx t.task .timeshare [])

/-! What the device observes at the end of every step. -/

/-- Since when a group has been eligible, or blocked. -/
def State.observeGroup (s : State) (g : Group) : Group :=
  let b := s.busy g
  if b = g.elig then g else { g with elig := b, since := s.now, probeAt := s.now + g.wft.toNat }

/-- On which group a rotation waits, and since when. -/
def State.observeHost (s : State) (h : Hosting) : Hosting :=
  match s.hosted h.core with
  | none => { h with waits := none }
  | some t =>
    match s.turnOf t with
    | none => { h with waits := none }
    | some g =>
      if (s.groupsOf t.ctx t.task).any Group.inSlot || s.eligible g then { h with waits := none }
      else match h.waits with
        | some (i, _) => if i = g.id.grp then h else { h with waits := some (g.id.grp, s.now) }
        | none => { h with waits := some (g.id.grp, s.now) }

/-- The leg of a logical core's group has ended, or the group's turn passes: it has exited, or is parked on BAR (03 R55). -/
def State.legOver (s : State) (t : Team) (i : Nat) : Bool :=
  match s.group? { ctx := t.ctx, task := t.task, grp := i } with
  | none => true
  | some g => g.st = .exited || g.atBar.isSome || (g.legPos = 0 && (g.st = .ready || g.st = .saved none))

/-- The rotation of a resident team leaves a leg that is over. -/
def State.observeTeam (s : State) (t : Team) : Team :=
  match t.inLeg with
  | none => t
  | some i => if t.st = .resident && s.legOver t i then { t with inLeg := none } else t

/-- A probe whose group has gone on meanwhile is forgotten. -/
def State.keepProbe (s : State) (p : Probe) : Bool :=
  match s.group? p.origin with
  | none => false
  | some g => p.byInstr || !s.busy g

/-- Groups resident on a site. -/
def State.residentOn (s : State) (site : Site) : List Group :=
  s.groups.filter fun g => g.site = site && g.st ≠ .exited && s.holds g && s.mayIssue g

/-- The group is parked, and what it is parked on has not come to an end (03 R47). -/
def State.stuck (s : State) (g : Group) : Bool := match g.st with | .parked w => !s.parkOver g w | _ => false

def Group.onRgrow (g : Group) : Bool := match g.st with | .parked (.rgrow _) => true | _ => false

/-- Registers of the core are on their way to be free: a group that holds some has exited, or its team is on its way out. -/
def State.emptying (s : State) (site : Site) : Bool :=
  s.groups.any fun g => g.site = site && s.holds g && (g.st = .exited ||
    (match s.teamOf g.id with | some t => (match t.st with | .resident | .moving => false | _ => true) | none => false))

/-- The register-deadlock break: when every resident group of the core is parked and one on RGROW, its youngest team is
switched out; the rule applies again once that team's registers have come back, and only once those of a group that exited have
(03 R45). DEDUCED, log 77. -/
def State.breakDeadlock (s : State) (site : Site) : State :=
  let gs := s.residentOn site
  if gs.all s.stuck && gs.any Group.onRgrow && !s.emptying site then
    let ts := s.teams.filter fun t => t.st = .resident && gs.any fun g => g.id.ctx = t.ctx && g.id.task = t.task
    match ts.foldl (fun (b : Option Team) t =>
        match b with | none => some t | some x => if x.admitted < t.admitted then some t else some x) none with
    | none => s
    | some t => s.leave t.ctx t.task .rdeadlock []
  else s

/-- The sites on which a group waits for registers. -/
def State.growSites (s : State) : List Site := (s.growq.filterMap fun r => (s.group? r.gid).map (·.site)).dedup

/-- Parked groups under a pre-emption request are saved, and the registers that they leave are granted (19 R340; 03 R45); rotations,
register deadlocks, eligibility and probes are brought up to date. -/
def State.observe (s : State) : State :=
  let s0 := (s.groups.filter Group.isParked).foldl (fun s g => s.trySave g.id) s
  let s1 := s0.growSites.foldl State.settleRegs s0
  let s2 := { s1 with teams := s1.teams.map s1.observeTeam }
  let s3 := s2.growSites.foldl State.breakDeadlock s2
  let s4 := { s3 with groups := s3.groups.map s3.observeGroup }
  { s4 with hostings := s4.hostings.map s4.observeHost, probes := s4.probes.filter s4.keepProbe }

end Sys2Proof.Machine
end

