-- ==== Sys2Proof/Machine/Admit.lean ====
section
/-! DEFINITION. Placement and the ends of groups, teams and launches: admission, re-admission, steals, releases and
retirement (03 R36, R39 to R45, R54, R364; 07 R111, R120; 13 R255; 19 R335 to R339, R345). -/

namespace Sys2Proof.Machine

/-! The queues (03 R41; 19 R345). -/

def State.teamPrio (s : State) (t : Team) : Nat := match s.launch? t.ctx t.serial with | some l => l.lrec.prio | none => 3

/-- A team comes before another in its queue; one that must return to its place stands at the head (19 R345). Teams of two
contexts that agree in all that R41 names keep the order of the list (DESIGN CHOICE, log 99). -/
def State.queueBefore (s : State) (a b : Team) : Bool :=
  let p (t : Team) : Nat := s.teamPrio t
  if a.pinned.isSome != b.pinned.isSome then a.pinned.isSome
  else if p a ≠ p b then p a < p b
  else if a.requeued != b.requeued then a.requeued
  else if a.serial ≠ b.serial then a.serial < b.serial
  else a.idx < b.idx

/-- The head of a distributor's queue. -/
def State.queueHead (s : State) (cluster : Nat) : Option Team :=
  (sortBy s.queueBefore (s.teams.filter fun t =>
    s.placeable t && t.cluster = cluster && !s.isLogical t.ctx t.serial)).head?

/-! Fitting (03 R42, R45). -/

/-- Groups of a team with the registers that each needs: its window, or what a pending RGROW asks for. -/
def State.needs (s : State) (t : Team) (l : Launch) : List (Nat × Nat) :=
  if t.requeued then
    (sortBy (fun (a b : Group) => a.id.grp < b.id.grp) (s.groupsOf t.ctx t.task)).map fun g => (g.id.grp, max g.v.length g.want)
  else (List.range l.lrec.groups).map fun i => (i, l.lrec.regs)

/-- The leading groups that so many slots and registers hold. -/
def takeFit (slots regs : Nat) : List (Nat × Nat) → List (Nat × Nat) × List (Nat × Nat)
  | [] => ([], [])
  | (i, n) :: rest =>
    if slots = 0 || regs < n then ([], (i, n) :: rest)
    else let (a, b) := takeFit (slots - 1) (regs - n) rest; ((i, n) :: a, b)

/-- A core takes teams. -/
def State.coreOpen (s : State) (core : Nat) : Bool :=
  !s.off (core / Config.coresPerCluster) 1 (core % Config.coresPerCluster) && !s.closing.contains core
    && !s.fenced (unitCode (core / Config.coresPerCluster) 1 (core % Config.coresPerCluster))

/-- Deals groups over cores in order: each takes what it holds. -/
def State.deal (s : State) : List Nat → List (Nat × Nat) → Option (List (Nat × Site))
  | _, [] => some []
  | [], _ :: _ => none
  | k :: ks, gs =>
    let (a, b) := takeFit (s.slotsFree (.core k)) (s.regsFree (.core k)) gs
    (State.deal s ks b).map fun r => a.map (fun x => (x.1, .core k)) ++ r

/-- Shares begin at multiples of this many bytes where they can (DESIGN CHOICE, log 21). -/
def shareAlign : Nat := 512

/-- n bytes of scratchpad from an offset are free on a core. -/
def State.shareFree (s : State) (core off n : Nat) : Bool :=
  off + n ≤ Config.scratchBytes && (s.sharesOn core).all fun (o, sz, _) => sz = 0 || o + sz ≤ off || off + n ≤ o

/-- The lowest aligned offset at which a share of n bytes fits, or else the lowest of all. -/
def State.shareAt (s : State) (core n : Nat) : Option Nat :=
  let ends := 0 :: (s.sharesOn core).map fun (o, sz, _) => o + sz
  let up (o : Nat) : Nat := (o + shareAlign - 1) / shareAlign * shareAlign
  (sortBy (· < ·) (ends.map up) ++ sortBy (· < ·) ends).find? fun o => s.shareFree core o n

/-- Where a team goes: a site for each group, and its share. -/
structure Spot where
  sites : List (Nat × Site)
  share : Option (Nat × Nat)

/-- A place on one core, or over the cores from one on. -/
def State.spotOn (s : State) (cores : List Nat) (gs : List (Nat × Nat)) (scratch : Nat) : Option Spot :=
  match cores.head? with
  | none => none
  | some k =>
    match s.shareAt k scratch, s.deal cores gs with
    | some off, some sites => some { sites, share := some (k, off) }
    | _, _ => none

/-- Open cores of a cluster, ascending. -/
def State.openCores (s : State) (cluster : Nat) : List Nat :=
  ((List.range Config.coresPerCluster).map fun k => cluster * Config.coresPerCluster + k).filter s.coreOpen

/-- The first of the open cores that takes the whole team, or else the first from which it can be spread. -/
def State.spotIn (s : State) (cluster : Nat) (gs : List (Nat × Nat)) (scratch : Nat) : Option Spot :=
  let cores := s.openCores cluster
  match cores.findSome? fun k => s.spotOn [k] gs scratch with
  | some x => some x
  | none => (List.range cores.length).findSome? fun j => s.spotOn (cores.drop j) gs scratch

/-- The place of a team that must return to its core and offset (19 R345). -/
def State.spotPinned (s : State) (core off : Nat) (gs : List (Nat × Nat)) (scratch : Nat) : Option Spot :=
  if !(s.coreOpen core && s.shareFree core off scratch) then none
  else
    let rest := (s.openCores (core / Config.coresPerCluster)).filter fun k => core ≤ k
    (s.deal rest gs).map fun sites => { sites, share := some (core, off) }

/-- Another team of the same logical core runs there, or comes before: one that waits, once it has started, comes before one that
has not, and of two of a kind the queue's order decides (03 R41, R54). -/
def State.lcoreBusy (s : State) (t : Team) (core : Nat) : Bool :=
  let same (x : Team) : Bool :=
    (x.ctx ≠ t.ctx || x.task ≠ t.task) && s.isLogical x.ctx x.serial && x.idx % 1024 = t.idx % 1024
      && (match s.ctx? x.ctx with
        | some c => c.st ≠ .saved && c.part = s.partOf (core / Config.coresPerCluster)
        | none => false)
  s.teams.any fun x => same x &&
    (x.st ≠ .queued || (if x.requeued = t.requeued then s.placeable x && s.queueBefore x t else x.requeued))

/-- The place of a team of a deterministic launch, on its logical core's physical core; after a retirement that core turns to its
next logical core first (03 R56). DEDUCED, log 38. One that must return to its share's offset waits for it there (19 R345). -/
def State.spotLogical (s : State) (cluster part : Nat) (t : Team) (gs : List (Nat × Nat)) (scratch : Nat) : Option Spot :=
  let core := s.physCore part (t.idx % 1024)
  let mine := match s.hostings.find? fun h => h.core = core with
    | some h => h.lcore = t.idx % 1024 && !h.done
    | none => (s.logicalWork core).head? = some (t.idx % 1024)
  if core / Config.coresPerCluster = cluster && mine && !s.lcoreBusy t core && s.coreOpen core then
    match t.pinned with
    | none => s.spotOn [core] gs scratch
    | some (_, off) => if s.shareFree core off scratch then
        (s.deal [core] gs).map fun sites => { sites, share := some (core, off) } else none
  else none

/-- Where a team can be placed now. -/
def State.spot (s : State) (cluster : Nat) (t : Team) : Option Spot :=
  match s.launch? t.ctx t.serial, s.ctx? t.ctx with
  | some l, some c =>
    let gs := s.needs t l
    if l.lrec.logical then s.spotLogical cluster c.part t gs l.lrec.scratch
    else if l.lrec.control then
      (if gs.length ≤ s.slotsFree (.cc cluster) && !s.fenced (unitCode cluster 2 0) then
        some { sites := gs.map fun x => (x.1, .cc cluster), share := none }
       else none)
    else match t.pinned with
      | some (core, off) => s.spotPinned core off gs l.lrec.scratch
      | none => s.spotIn cluster gs l.lrec.scratch
  | _, _ => none

/-! Starting and resuming (03 R36; 13 R255; 19 R337 to R339, R346). -/

/-- A group at its start. DESIGN CHOICE, log 6. DEDUCED, log 31. -/
def newGroup (r : LRec) (id : GroupId) (site : Site) (now : Nat) : Group :=
  { id, site, st := .ready, v := List.replicate r.regs zeroRow, full := List.replicate r.regs true, o := emptyO, l := emptyL
    g := r.params :: List.replicate 127 0, p := List.replicate 7 0, q := List.replicate 7 false, exm := fullMask
    stack := [], area := none, spill := 0, pc := r.code, block := none, legPos := 0
    tcause := .none, tpc := 0, tmask := false, tinfo := 0, tlane := 0, tsave := none, pend := [], reissue := [], started := false
    ric := 0, wft := 0x100000, ftv := r.ftv, elig := false, since := now, probeAt := now + 0x100000, seq := 0
    granted := none, ilen := 1, ie := false, want := 0, bad := [] }

/-- A saved group on its new site: one that has arrived at a barrier stands there, another issues its instruction again.
DEDUCED, log 37. -/
def Group.resume (g : Group) (site : Site) (now : Nat) : Group :=
  { g with
    site, elig := false, since := now, probeAt := now + g.wft.toNat
    st := match g.st with | .saved (some (.bar n)) => .parked (.bar n) | _ => .ready }

/-- Where a reference that a group of a team bound at a site stands: in the team's image, or where it names. -/
def State.bindPlace (s : State) (t : Team) (site : Site) (r : W64) : MTgt :=
  let cluster := if t.st = .resident then site.cluster else t.window
  match t.former with
  | some (k, o) =>
    let base := k % 256 * Config.scratchBytes + o
    let off := r.toNat % 2 ^ 26
    if r.msb && k / 256 = cluster && base ≤ off && off < base + s.scratchOf t.ctx t.serial then
      .loc (.img t.ctx t.task (off - base))
    else .ref cluster r
  | none => .ref cluster r

/-- A milestone's bytes with the core of its binding rewritten, where it names an old core and the tag. -/
def rebound (tag : Nat) (moves : List Moved) (b : List Byte) : List Byte :=
  ((Ms.ofBytes b).apply false (.rebind tag moves)).1.bytes

/-- Bindings move in a saved share, and in the changes that are held back for it: the milestone as they will leave it has to be
one that the update can change (13 R246, R255). -/
def State.rebindImage (s : State) (c : Nat) (task : W64) (off tag : Nat) (moves : List Moved) : State :=
  let l : Loc := .img c task off
  match s.ms? l with
  | none => s
  | some m =>
    let u : MsUpd := .rebind tag moves
    let s1 :=
      if !u.concerns m then s
      else if !m.ok then s.reportCtx c (discardReport c 3 task (s.winOf l).report)
      else s.updTeam c task fun t =>
        { t with
          image := patch t.image off (rebound tag moves ((t.image.drop off).take 64))
          held := t.held.map fun x => match x with
            | .put o bs flip init => .put o (if o = off then rebound tag moves bs else bs) flip init
            | x => x }
    s1.run (u.tagMoved m)

/-- Bindings move at a place: in a saved share at once; elsewhere as any update by the device, which waits for a page that is
missing (13 R246, R250, R255). A reference that names no milestone any more has none to rewrite. -/
def State.rebindAt (s : State) (ctx tag : Nat) (moves : List Moved) (p : MTgt) : State :=
  match p with
  | .loc (.img c task off) => s.rebindImage c task off tag moves
  | .loc l => s.updLoc ctx 0 l (.rebind tag moves)
  | .ref cl r =>
    match s.mref ctx cl r with
    | .ok (.img c task off) => s.rebindImage c task off tag moves
    | .trap _ => s
    | _ => s.updRef ctx 0 cl r (.rebind tag moves)

/-- What tells two places apart: where they stand. -/
def State.placeKey (s : State) (ctx : Nat) : MTgt → MTgt
  | .loc l => .loc l
  | .ref cl r =>
    if r.msb then (match s.mref ctx cl r with | .ok l => .loc l | _ => .ref cl r) else .loc (.mem ctx (s.refIa ctx r))

/-- Places, of each milestone one. -/
def State.onePlace (s : State) (ctx : Nat) (ps : List MTgt) : List MTgt :=
  ps.foldl (fun acc p => if acc.any fun q => s.placeKey ctx q = s.placeKey ctx p then acc else acc ++ [p]) []

/-- The new site of what stood on an old one: that of the first of the team's groups that stood there (DESIGN CHOICE, log 149). -/
def newSite (gs : List Group) (sites : List (Nat × Site)) (old : Site) : Option Site :=
  (gs.find? fun g => g.site = old).bind fun g => (sites.find? fun x => x.1 = g.id.grp).map (·.2)

/-- The bindings of a tag that move with a restored team, each from its old site to its new one with the PHASE at the save: every
milestone of the context that names such a site and the tag is rewritten, once (13 R255). DEDUCED, log 41. Where the groups of one old core now stand on several, the tag
goes to the core of the first of them (DESIGN CHOICE, log 149). -/
def State.rebindTag (s : State) (t : Team) (tag : Nat) (bs : List (Site × Site × W64 × Option Nat)) : State :=
  let places : List MTgt :=
    ((s.teams.filter fun x => x.ctx = t.ctx).flatMap fun x =>
      (x.binds.filter fun y => y.2.1 = tag).map fun y => s.bindPlace x y.1 y.2.2.1)
    ++ (match s.ctx? t.ctx with
      | none => []
      | some c => (c.binds.filter fun y => y.1 = tag).map fun y => .ref y.2.1 y.2.2)
  let moves (p : MTgt) : List Moved := bs.map fun (old, new, ref, phase) =>
    { old, new, since :=
        if s.placeKey t.ctx (s.bindPlace t old ref) ≠ s.placeKey t.ctx p then .other
        else match phase with | some n => .phase n | none => .unknown }
  let s1 := (s.onePlace t.ctx places).foldl (fun s1 p => s1.rebindAt t.ctx tag (moves p) p) s
  { s1 with tagrefs := bs.foldl (fun rs (_, new, ref, _) =>
      (rs.filter fun x => !(x.site = new && x.tag = tag))
        ++ [{ site := new, tag, ref, gid := { ctx := t.ctx, task := t.task, grp := 0 } }]) s1.tagrefs }

/-- The bindings of a restored team move with its groups, those of a tag all at once (13 R255). After a context restore the tag of a
milestone whose PHASE has changed is set on a core to which the team returns, too (DESIGN CHOICE, log 150). -/
def State.rebind (s : State) (t : Team) (gs : List Group) (sites : List (Nat × Site)) : State :=
  let moved := t.binds.map fun b => (b, (newSite gs sites b.1).getD b.1)
  let going := moved.filter fun (b, n) => b.1 ≠ n || t.away
  let s1 := ((going.map fun x => x.1.2.1).dedup).foldl (fun s tag =>
    s.rebindTag t tag ((going.filter fun x => x.1.2.1 = tag).map fun (b, n) => (b.1, n, b.2.2.1, b.2.2.2))) s
  s1.updTeam t.ctx t.task fun t => { t with binds := moved.map fun (b, n) => (n, b.2) }

/-- Applies a held-back write, update or change at the new share, with what follows it (19 R338). -/
def State.applyHeld (s : State) (ctx : Nat) (task : W64) (cluster base : Nat) (h : Held) : State :=
  match h with
  | .bytes off bs => s.writeScratch cluster (base + off) bs
  | .upd off u => s.updLoc ctx task (.win cluster (base + off)) u
  | .put off bs flip init =>
    let l : Loc := .win cluster (base + off)
    let m2 := Ms.ofBytes bs
    let more := match s.ms? l with
      | none => []
      | some m => if init then s.due ctx l m2.phase else s.follow ctx task l m m2 flip
    (s.locWrite l bs).run more

/-- A claim on a future of the team's saved share follows it to the new one (13 R273). -/
def Claim.back (c : Claim) (ctx : Nat) (task : W64) (cluster base : Nat) : Claim :=
  match c.loc with
  | .img x k off => if x = ctx && k = task then { c with loc := .win cluster (base + off) } else c
  | _ => c

/-- Bytes of a team image: 16,384, the share, and each saved group's registers (19 R339). -/
def imageBytes (scratch : Nat) (gs : List Group) : Nat :=
  16384 + scratch + (gs.map fun g => 8192 + 128 * g.v.length).foldl (· + ·) 0

/-- The bytes of frames that an image of so many bytes takes, frame by frame (19 R339). -/
def imageSpans (frames : List Nat) (n : Nat) : List (Nat × Nat) :=
  frames.zipIdx.map fun (f, j) => (f, min 65536 (n - 65536 * j))

/-- The image of a team is uncorrectable, as such or in a word of its frames (19 R348). -/
def State.imageBad (s : State) (t : Team) : Bool :=
  s.poison.contains (.image t.ctx t.task)
    || (imageSpans t.frames (imageBytes (s.scratchOf t.ctx t.serial) (s.groupsOf t.ctx t.task))).any fun (f, n) => s.badMem f n

/-- The record of a team whose image is uncorrectable. DEDUCED, log 43. -/
def imageRecord (ctx : Nat) (task : W64) : List Byte := trapRecord 1 { ctx, task, grp := 0 } { cause := .uncorr } 0 []

/-- Groups enter sites: what they read there is no older than what came before their placement, so the old copies of the cores'
L1s go (12 R233, R238; 13 R254). -/
def State.enter (s : State) (sites : List (Nat × Site)) : State :=
  (sites.map (·.2)).dedup.foldl (fun s x => s.acquire x .job) s

/-- Admits an unstarted team. -/
def State.start (s : State) (t : Team) (r : LRec) (x : Spot) : State :=
  let s1 := (s.enter x.sites).updTeam t.ctx t.task fun t => { t with st := .resident, share := x.share, admitted := s.tick }
  { s1 with groups := s1.groups ++ x.sites.map fun (i, site) => newGroup r { ctx := t.ctx, task := t.task, grp := i } site s.now }

/-- The rotation position of a re-admitted team: a leg of which nothing was executed is still to begin (03 R55). -/
def Team.turned (t : Team) (gs : List Group) : Team :=
  match t.inLeg with
  | none => t
  | some i => if gs.any fun g => g.id.grp = i && g.legPos = 0 then { t with turn := i, inLeg := none } else t

/-- Re-admits a saved team: its groups, its share, and the changes held back for it, in order. -/
def State.readmit (s : State) (t : Team) (x : Spot) : State :=
  let free (s : State) : State := t.frames.foldl (fun s f => s.reportCtx t.ctx (frameReport t.ctx 3 f)) s
  if s.imageBad t then
    State.endTeam { free s with poison := s.poison.filter (· ≠ .image t.ctx t.task) } t.ctx t.task (imageRecord t.ctx t.task)
  else
    let gs := s.groupsOf t.ctx t.task
    let s1 := (s.enter x.sites).rebind t gs x.sites
    let image := s1.imageOf t.ctx t.task
    let held := match s1.team? t.ctx t.task with | some t => t.held | none => []
    let back (g : Group) : Group :=
      let site := match x.sites.find? fun y => y.1 = g.id.grp with | some y => y.2 | none => g.site
      if g.id.ctx = t.ctx && g.id.task = t.task then g.resume site s.now else g
    let s2 : State := { s1 with groups := s1.groups.map back }
    let s3 := s2.updTeam t.ctx t.task fun t =>
      { t.turned gs with
        st := .resident, share := x.share, admitted := s.tick, former := none, image := [], held := [], frames := []
        pinned := none, away := false }
    let s4 := match x.share with
      | none => s3
      | some (k, o) =>
        let base := k % 256 * Config.scratchBytes + o
        let s3 := { s3 with claims := s3.claims.map fun (c : Claim) => c.back t.ctx t.task (k / 256) base }
        held.foldl (fun s h => s.applyHeld t.ctx t.task (k / 256) base h) (s3.writeScratch (k / 256) base image)
    free s4

/-- A physical core takes up a logical core. -/
def State.host (s : State) (t : Team) (part : Nat) : State :=
  let core := s.physCore part (t.idx % 1024)
  if s.hostings.any fun h => h.core = core then s
  else { s with hostings := s.hostings ++ [{ core, lcore := t.idx % 1024, waits := none, done := false }] }

/-- A frame of the team's image cannot be reached (19 R347; DEDUCED, log 69). -/
def State.imageFenced (s : State) (cluster : Nat) (t : Team) : Bool := t.frames.any (s.frameFenced cluster)

/-- Admits a team where it fits; one whose image cannot be reached waits. -/
def State.admitTeam (s : State) (cluster : Nat) (t : Team) : Option State :=
  match s.spot cluster t, s.launch? t.ctx t.serial, s.ctx? t.ctx with
  | some x, some l, some c =>
    let s1 := if l.lrec.logical then s.host t c.part else s
    if t.requeued then (if s.imageFenced cluster t then none else some (s1.readmit t x)) else some (s1.start t l.lrec x)
  | _, _, _ => none

/-- Reports that a function holds at most before its distributors take in no team (21 R358). -/
def heldReports : Nat := 65536

/-- The distributors of a cluster's partition may place teams. -/
def State.admitting (s : State) (cluster : Nat) : Bool :=
  match s.fns[s.partOf cluster]? with
  | none => false
  | some f => f.held.length ≤ heldReports

/-- The team that a distributor admits next: the head of its queue, or else a team of a logical core. -/
def State.admitNext (s : State) (cluster : Nat) : Option State :=
  if !s.admitting cluster then none
  else
    match (match s.queueHead cluster with | none => none | some t => s.admitTeam cluster t) with
    | some s1 => some s1
    | none =>
      (sortBy s.queueBefore (s.teams.filter fun t => s.placeable t && s.isLogical t.ctx t.serial)).findSome? fun t =>
        s.admitTeam cluster t

/-! Steals (03 R43). -/

/-- Unstarted teams of a launch on a cluster. -/
def State.unstarted (s : State) (l : Launch) (cluster : Nat) : List Team :=
  s.teams.filter fun t => t.ctx = l.ctx && t.serial = l.serial && t.cluster = cluster && t.st = .queued && !t.requeued

/-- The cluster that a distributor asks, when it may send a steal message for a launch. DEDUCED, log 80. -/
def State.stealFrom (s : State) (cluster : Nat) (l : Launch) : Option Nat :=
  match s.ctx? l.ctx with
  | none => none
  | some c =>
    if l.lrec.dmode || l.dep ≠ .met || c.st ≠ .resident || !(s.clusters c.part).contains cluster
        || !(s.unstarted l cluster).isEmpty
        || s.steals.any (fun x => x.ctx = l.ctx && x.serial = l.serial && x.asker = cluster) then none
    else
      ((s.clusters c.part).filter fun d => d ≠ cluster && !(s.unstarted l d).isEmpty).foldl (fun b d =>
        match b with
        | none => some d
        | some e => if (s.unstarted l e).length < (s.unstarted l d).length then some d else some e) none

/-- A distributor sends its steal messages. -/
def State.sendSteals (s : State) (cluster : Nat) : State :=
  s.launches.foldl (fun s l =>
    match s.stealFrom cluster l with
    | none => s
    | some d =>
      let (id, s1) := s.fresh
      { s1 with steals := s1.steals ++ [{ id, ctx := l.ctx, serial := l.serial, asker := cluster, asked := d, answer := none }] }) s

/-- TEAM_ADMIT: a distributor admits a team, and asks the others for work that it has none of. -/
def execTeamAdmit (cluster : Nat) (s : State) : Out :=
  if 4 ≤ cluster then .next s else .next (((s.admitNext cluster).getD s).sendSteals cluster)

/-- STEAL_MESSAGE: the n-th message under way is answered with the highest half of the teams asked for. -/
def execStealMessage (n : Nat) (s : State) : Out :=
  match (s.steals.filter fun x => x.answer.isNone)[n]? with
  | none => .next s
  | some x =>
    let ts := match s.launch? x.ctx x.serial with
      | none => []
      | some l => sortBy (fun (a b : Team) => b.idx < a.idx) (s.unstarted l x.asked)
    let give := (ts.take (ts.length / 2)).map fun t => t.task
    .next { s with
      teams := s.teams.map fun t => if t.ctx = x.ctx && give.contains t.task then { t with st := .moving } else t
      steals := s.steals.map fun y => if y.id = x.id then { y with answer := some give } else y }

/-- STEAL_HANDOVER: the n-th answer arrives. -/
def execStealHandover (n : Nat) (s : State) : Out :=
  match (s.steals.filter fun x => x.answer.isSome)[n]? with
  | none => .next s
  | some x =>
    let got := x.answer.getD []
    .next { s with
      teams := s.teams.map fun t =>
        if t.ctx = x.ctx && got.contains t.task then { t with st := .queued, cluster := x.asker } else t
      steals := s.steals.filter fun y => y.id ≠ x.id }

/-! Ends. -/

/-- An exited group whose loads have landed, of a team that is not being discarded. -/
def State.releaseDue (s : State) (g : Group) : Bool :=
  g.st = .exited && !(s.loads.any fun l => l.gid = g.id)
    && (match s.teamOf g.id with | some t => (match t.st with | .aborting _ => false | _ => true) | none => true)

/-- GROUP_RELEASE: an exited group whose loads have landed frees its slot and window (07 R111; 19 R335). -/
def execGroupRelease (gid : GroupId) (s : State) : Out :=
  match s.group? gid with
  | none => .next s
  | some g =>
    if !s.releaseDue g then .next s
    else .next (State.settleRegs { s with groups := s.groups.filter fun x => x.id ≠ gid } g.site)

/-- Some contribution or start of the team is not accepted, of a group that has exited too (11 R209; 13 R257). -/
def State.teamOwes (s : State) (t : Team) : Bool :=
  (s.ordered.any fun o => o.gid.ctx = t.ctx && o.gid.task = t.task && o.st ≠ .buffered)
    || s.starts.any fun x => x.ctx = t.ctx && x.gid.isSome && x.task = t.task && x.st ≠ .queued

/-- A team's groups have all exited and been released, and its contributions and starts are accepted (11 R209; 13 R257). One of
a context that is saved out waits for its restore. -/
def State.retireDue (s : State) (t : Team) : Bool :=
  (t.st = .resident || t.st = .retiring) && s.onPart t.ctx && t.missing.isEmpty && (s.groupsOf t.ctx t.task).isEmpty
    && !s.teamOwes t

/-- A team of a logical core has retired: the physical core turns to its next logical core (03 R56). -/
def State.hostDone (s : State) (t : Team) : State :=
  match s.ctx? t.ctx with
  | none => s
  | some c =>
    if s.isLogical t.ctx t.serial then
      { s with hostings := s.hostings.map fun h =>
          if h.core = s.physCore c.part (t.idx % 1024) && h.lcore = t.idx % 1024 then { h with done := true } else h }
    else s

/-- A context keeps the tag bindings of a team that leaves (13 R255). -/
def Ctx.keepBinds (c : Ctx) (t : Team) : Ctx :=
  let new := t.binds.map fun b => (b.2.1, b.1.cluster, b.2.2.1)
  { c with binds := c.binds.filter (!new.contains ·) ++ new.dedup }

/-- The team leaves: its share is free, and its launch counts it. -/
def State.dropTeam (s : State) (t : Team) : State :=
  let s1 : State := { s.hostDone t with teams := s.teams.filter fun x => !(x.ctx = t.ctx && x.task = t.task) }
  (s1.updCtx t.ctx fun c => c.keepBinds t).updLaunch t.ctx t.serial fun l => { l with left := l.left - 1 }

/-- TEAM_RETIRE: the version is published, line by line as its pages are present, then the team is gone (03 R39, R364). -/
def execTeamRetire (ctx : Nat) (task : W64) (s : State) : Out :=
  match s.team? ctx task with
  | none => .next s
  | some t =>
    if !s.retireDue t then .next s
    else
      let (s1, ms) := s.publish ctx task
      if ms.isEmpty then .next (if s1.published ctx task then s1.dropTeam t else s1)
      else .next ((s1.reportMiss ctx ms task |>.updTeam ctx task fun t => { t with st := .retiring, missing := ms.map (·.1) }))

/-- Nothing more comes from a launch: its teams have retired, and the launches they started (03 R39). The arrival at
DONEMS waits for nothing else, also for no landing of a remote store or contribution of the launch's groups (12 R240; DESIGN CHOICE,
log 148). -/
def State.launchDone (s : State) (l : Launch) : Bool :=
  s.onPart l.ctx && l.left = 0 && l.waits.isEmpty && !(s.launches.any fun x => x.ctx = l.ctx && x.parent = some l.serial)

/-- A retirement step at a reference: done, with a report when the reference fails (WHAT 12; 03 R39) or the milestone is
uncorrectable (WHAT 9 by 13 R246 and WHAT 12 by 03 R39: a report of each; DEDUCED, log 42), or waiting for a page that is missing or
cannot be reached yet. -/
def State.retireStep (s : State) (l : Launch) (r : W64) (u : MsUpd) : State ⊕ List (Miss × Bool) :=
  let drop (s : State) (what ia : Nat) : State := s.reportCtx l.ctx (discardReport l.ctx what 0 ia)
  if r = 0 then .inl s
  else match s.mref l.ctx (s.lowCluster l.ctx) r with
    | .trap _ => .inl (drop s 12 (s.refIa l.ctx r))
    | .miss ms => .inr ms
    | .ok loc =>
      if s.locUnreached (s.lowCluster l.ctx) loc then .inr []
      else if s.locBad loc 64 then .inl (drop (drop s 9 loc.report) 12 loc.report)
      else .inl (s.updRef l.ctx 0 (s.lowCluster l.ctx) r u)

/-- The launch is gone: a place in the table is free, for a parked LAUNCH or a waiting JOIN. -/
def State.dropLaunch (s : State) (l : Launch) : State :=
  let s1 : State := { s with launches := s.launches.filter fun x => !(x.ctx = l.ctx && x.serial = l.serial) }
  (s1.grantLaunches l.ctx s.groups.length).retryJoins l.ctx none

/-- The steps of a retirement from the one that stands next; the fuel is their number. -/
def State.retireLaunch (s : State) (l : Launch) : Nat → State
  | 0 => s
  | n + 1 =>
    let err := if l.aborted then 6 else 0
    let wait (ms : List (Miss × Bool)) : State :=
      (s.reportMiss l.ctx ms).updLaunch l.ctx l.serial fun x => { x with waits := ms.map (·.1) }
    let go (s : State) (step : Nat) : State :=
      State.retireLaunch (s.updLaunch l.ctx l.serial fun x => { x with step }) { l with step } n
    match l.step with
    | 0 => match s.retireStep l l.lrec.donems (.arrive 1 err) with | .inl s1 => go s1 2 | .inr ms => wait ms
    | 2 =>
      match s.retireStep l l.lrec.resolves (.resolve (l.serial.setWidth 64) err) with
      | .inl s1 => go s1 3
      | .inr ms => wait ms
    | _ => s.dropLaunch l

/-- LAUNCH_RETIRE (03 R39). -/
def execLaunchRetire (ctx : Nat) (serial : W32) (s : State) : Out :=
  match s.launch? ctx serial with
  | none => .next s
  | some l => if s.launchDone l then .next (s.retireLaunch l 3) else .next s

/-- ABORT_DISCARD_DONE: the discard is complete, the report is sent, and the team retires (03 R53; 07 R120; 19 R333). -/
def execAbortDiscardDone (ctx : Nat) (task : W64) (s : State) : Out :=
  match s.team? ctx task with
  | none => .next s
  | some t =>
    match t.st with
    | .aborting rec_ =>
      let sites := ((s.groupsOf ctx task).map fun g => g.site).dedup
      let s1 : State := { s with groups := s.groups.filter fun g => !(g.id.ctx = ctx && g.id.task = task) }
      let s2 := (s1.dropTeam t).updLaunch ctx t.serial fun l => { l with aborted := true }
      .next (sites.foldl (fun s x => s.settleRegs x)
        (s2.reportCtx ctx { type := 1, body := layout 240 [(0, rec_)] }))
    | _ => .next s

end Sys2Proof.Machine
end

