-- ==== Sys2Proof/Machine/Save.lean ====
section
/-! DEFINITION. Saves: the image of a switched-out team, the deadline of a pre-emption, the save of a context
(19 R337 to R344; 11 R194, R219). -/

namespace Sys2Proof.Machine

/-! The team image (19 R337, R339). -/

/-- A copy that has begun writes into a share (19 R337). -/
def Copy.into (x : Copy) (ctx cluster base n : Nat) : Bool :=
  let t := x.start.t
  x.start.ctx = ctx && x.start.cluster = cluster && x.start.remote.isNone && t.mode ≠ 3 && t.dstCw
    && (List.range t.count).any fun r =>
      let d := (t.dstAt x.start.param r).toNat
      d < base + n && base < d + t.rowb

/-- Some copy that has begun writes into the team's share. -/
def State.shareBusy (s : State) (t : Team) : Bool :=
  match s.shareOf t with
  | none => false
  | some (cl, base, n) => s.copies.any fun x => x.into t.ctx cl base n

/-- The work that step 2 of a switch-out waits for is done. -/
def State.drained (s : State) (t : Team) : Bool :=
  (s.groupsOf t.ctx t.task).all (fun g => s.quiet g.id) && !s.teamOwes t && !s.shareBusy t

def Group.isSaved (g : Group) : Bool := match g.st with | .saved _ => true | _ => false

def Miss.isPool : Miss → Bool | .pool _ => true | _ => false

/-- A team whose image can be written: one that is being switched out, or one of which every group has been saved or has
exited under a request. -/
def State.outDue (s : State) (t : Team) : Bool :=
  let gs := s.groupsOf t.ctx t.task
  (match t.st with
    | .leaving _ => true
    | .resident => gs.any Group.isSaved && gs.all fun g => g.isSaved || g.st = .exited
    | _ => false)
    && s.drained t && !(t.missing.any Miss.isPool)

/-- Frames of 64 KiB that an image takes. -/
def imageFrames (scratch : Nat) (gs : List Group) : Nat := (imageBytes scratch gs + 65535) / 65536

/-- A binding with its milestone's PHASE at the save, unknown while its page is missing (13 R255). -/
def State.bindPhase (s : State) (t : Team) (b : Site × Nat × W64 × Option Nat) : Site × Nat × W64 × Option Nat :=
  (b.1, b.2.1, b.2.2.1, (s.msOf t.ctx b.1.cluster b.2.2.1).map fun m => m.phase)

/-- Some byte that a save of the team would read is uncorrectable (19 R348). -/
def State.saveBad (s : State) (t : Team) (gs : List Group) : Bool :=
  gs.any (fun g => !g.bad.isEmpty || match g.tsave with | some x => !x.bad.isEmpty | none => false) ||
    match s.shareOf t with | none => false | some (cl, base, n) => n ≠ 0 && s.badScratch cl base n

/-- A claim on a future of a share goes with it into the image (13 R273). -/
def Claim.out (c : Claim) (ctx : Nat) (task : W64) (cluster base n : Nat) : Claim :=
  match c.loc with
  | .win cl off => if cl = cluster && base ≤ off && off < base + n then { c with loc := .img ctx task (off - base) } else c
  | _ => c

/-- The home cluster of a team (03 R40, R45). -/
def State.homeOfTeam (s : State) (t : Team) : Nat :=
  match s.launch? t.ctx t.serial, s.ctx? t.ctx with
  | some l, some c => s.homeCluster c.part l.lrec t.idx
  | _, _ => t.cluster

/-- An image is written into frames: words that were uncorrectable there are so no more (19 R348). Its format is the device's own:
what the model keeps of it stands in State, and the frames' bytes read as before (DESIGN CHOICE, log 138). -/
def State.cleanImage (s : State) (spans : List (Nat × Nat)) : State :=
  { s with poison := s.poison.filter fun p => match p with
      | .mem w => !(spans.any fun (f, n) => f ≤ 8 * w && 8 * w < f + n)
      | _ => true }

/-- The image is written and the team's slots, windows and share are free; the team waits for its fills, or queues at its home
distributor. -/
def State.writeImage (s : State) (t : Team) (frames : List Nat) : State :=
  let share := match s.shareOf t with | none => [] | some (cl, base, n) => s.readScratch cl base n
  let claims := match s.shareOf t with
    | none => s.claims
    | some (cl, base, n) => s.claims.map fun (c : Claim) => c.out t.ctx t.task cl base n
  let home := s.homeOfTeam t
  let binds := t.binds.map (s.bindPhase t)
  let sites := ((s.groupsOf t.ctx t.task).map fun g => g.site).dedup
  let n := imageBytes (s.scratchOf t.ctx t.serial) ((s.groupsOf t.ctx t.task).filter Group.isSaved)
  let s1 := State.updTeam { s.cleanImage (imageSpans frames n) with claims } t.ctx t.task fun t =>
    { t with
      cluster := home, window := s.heldOn t
      st := if t.missing.isEmpty then .queued else .out
      requeued := true, former := t.share, image := share, share := none, frames := t.frames ++ frames, binds }
  let mine (g : Group) : Bool := g.id.ctx = t.ctx && g.id.task = t.task
  let s2 : State := { s1 with groups := s1.groups.filter fun g => !(mine g && g.st = .exited) }
  sites.foldl (fun s x => s.settleRegs x) s2

/-- The pool lacks the frames: the team stays stopped, and the empty pool is reported. -/
def State.awaitPool (s : State) (t : Team) (pos : Nat) : State :=
  let s1 := s.reportCtx t.ctx (missingReport t.ctx (.pool pos) false t.task)
  s1.updTeam t.ctx t.task fun t =>
    { t with st := match t.st with | .leaving w => .leaving w | _ => .leaving .preempt, missing := t.missing ++ [.pool pos] }

/-- SWITCH_OUT_COMPLETE: step 3 and step 4 of a switch-out. -/
def execSwitchOutComplete (ctx : Nat) (task : W64) (s : State) : Out :=
  match s.team? ctx task, s.ctx? ctx with
  | some t, some c =>
    if !s.outDue t then .next s
    else
      let gs := (s.groupsOf ctx task).filter Group.isSaved
      if s.saveBad t gs then .next (s.endTeam ctx task (imageRecord ctx task))
      else
        let pos := s.posOf (s.heldOn t)
        match s.takeFrames c (hbmPool pos) (imageFrames (s.scratchOf ctx t.serial) gs) with
        | none => .next (s.awaitPool t pos)
        | some (frames, s1) => .next (s1.writeImage t frames)
  | _, _ => .next s

/-! The deadline (19 R342). -/

/-- Teams of a context that still have groups to save. -/
def State.unsaved (s : State) (ctx : Nat) : List Team :=
  s.teams.filter fun t => t.ctx = ctx && t.st = .resident
    && (s.groupsOf ctx t.task).any fun g => !(g.isSaved || g.st = .exited)

/-- The deadline of a request has passed. -/
def State.deadlinePassed (s : State) (ctx : Nat) : Bool :=
  match s.ctx? ctx with | some c => c.prq && c.st = .resident && c.pdlAt ≤ s.now | none => false

/-- PREEMPT_DEADLINE: every remaining group is saved with what it has in its leg. -/
def execPreemptDeadline (ctx : Nat) (s : State) : Out :=
  if s.deadlinePassed ctx then .next ((s.unsaved ctx).foldl (fun s t => s.leave ctx t.task .preempt []) s) else .next s

/-! The save of a context (19 R343, R344). -/

/-- A team has left its cores. -/
def TSt.off : TSt → Bool
  | .queued | .out => true
  | _ => false

/-- No group of the team is still to be saved: it is out, or every group has exited (19 R343). -/
def State.teamSaved (s : State) (t : Team) : Bool := t.st.off || (s.groupsOf t.ctx t.task).all fun g => g.st = .exited

/-- A unit still runs a step of the context whose tiles are whole. -/
def State.stepDue (s : State) (ctx : Nat) : Bool :=
  s.units.any fun m => match m.steps with | t :: _ => t.ctx = ctx && (t.begun || m.ready t) | [] => false

/-- Every group of the context is saved or exited, and the three things that the save waits for have ended: copies that have
begun, steps whose tiles are whole, and responses (19 R343). -/
def State.saveDue (s : State) (c : Ctx) : Bool :=
  c.prq && c.st = .resident && (s.teams.all fun t => t.ctx ≠ c.no || s.teamSaved t)
    && !(s.copies.any fun x => x.start.ctx = c.no) && !s.stepDue c.no
    && !(s.loads.any fun l => l.gid.ctx = c.no && match l.kind with | .remote .. => true | _ => false)

/-- The version lines go to the spill area one at a time, while it has room; those that do not fit stay. -/
def State.spillVersions (s : State) (c : Ctx) : State :=
  (s.vlines.filter fun v => v.ctx = c.no).foldl (fun s v =>
    match s.spillFree c with
    | none => s
    | some e =>
      let s1 := s.spillLine c v.task v.line e
      { s1 with vlines := s1.vlines.filter (· ≠ v) }) s

/-- Dirty ember lines go to their late frames; false when one needs a frame and the pool is empty. A line whose page is
not present is dropped. -/
def State.flushEmber (s : State) : List Ember → State × Bool
  | [] => (s, true)
  | e :: rest =>
    match s.evictEmber e with
    | some s1 => State.flushEmber s1 rest
    | none =>
      let gone := match s.ctx? e.ctx with
        | none => true
        | some c => match s.walk c e.line with | .missing _ => true | .ok _ => false
      if gone then State.flushEmber (s.dropEmber e.ctx e.line) rest else (s, false)

/-- The matrix state of a context, by cluster position and unit. -/
def State.unitsOf (s : State) (c : Ctx) : List SavedUnit :=
  (s.clusters c.part).zipIdx.flatMap fun (cl, pos) =>
    ((List.range 32).filter fun u => (s.munit (cl * 32 + u)).heldBy c.no).map fun u =>
      { ctx := c.no, pos, unit := u, state := s.munit (cl * 32 + u) }

/-- Engine state of the context moves into its image. -/
def State.saveEngines (s : State) (c : Ctx) : State :=
  let mine (t : Trigger) : Bool := t.ctx = c.no
  let ours (x : Start) : Bool := x.ctx = c.no
  { s with
    savedUnits := s.savedUnits ++ s.unitsOf c
    units := s.units.map fun m => if m.heldBy c.no then idleUnit else m
    savedTrigs := s.savedTrigs.filter (!mine ·) ++ s.triggers.filter mine ++ s.savedTrigs.filter mine
    triggers := s.triggers.filter (!mine ·)
    savedStarts := s.savedStarts.filter (!ours ·) ++ (s.starts.filter ours).map (fun x => { x with waits := [] })
      ++ s.savedStarts.filter ours
    starts := s.starts.filter (!ours ·) }

/-- A team whose groups have all exited holds nothing of its cores any more; it retires once the context is back. DEDUCED,
log 76. -/
def Team.saved (t : Team) : Team :=
  if t.st.off then (if t.requeued then { t with away := true } else t)
  else match t.st with
    | .aborting _ | .moving => t
    | _ => { t with st := .retiring, share := none }

/-- What is left of a save once every dirty ember line is in its frame. -/
def State.finishSave (s : State) (c : Ctx) : State :=
  let s1 := (s.spillVersions c).saveEngines c
  let bound := s1.vlines.any fun v => v.ctx = c.no
  let images := s1.teams.filter fun t => t.ctx = c.no && t.requeued && t.st.off
  let s2 : State := { s1 with
    l1 := s1.l1.filter fun l => l.ctx ≠ c.no
    loads := s1.loads.filter fun l => !(l.gid.ctx = c.no && match l.kind with | .acc .. => true | _ => false)
    qunits := s1.qunits.filter fun q => q.2 ≠ c.no
    qloads := s1.qloads.filter fun q => q.2 ≠ c.no
    teams := s1.teams.map fun (t : Team) => if t.ctx = c.no then t.saved else t }
  let s3 := s2.updCtx c.no fun c => { c with st := .saved, prq := false, pdlAt := 0, bound, credits := List.replicate 32 [] }
  let s4 := s3.reportCtx c.no (saveReport c.no bound images.length)
  (List.range 128).foldl (fun s u => if (s.munit u).held then s else s.unitService u) s4

/-- CONTEXT_SAVE: an empty ember backing pool makes the save wait for a fill. -/
def execContextSave (ctx : Nat) (s : State) : Out :=
  match s.ctx? ctx with
  | none => .next s
  | some c =>
    if !s.saveDue c then .next s
    else
      let (s1, all) := s.flushEmber (s.ember.filter fun e => e.ctx = ctx)
      if all then .next (s1.finishSave c)
      else .next ((s1.reportCtx ctx (missingReport ctx .ember false 0)).updCtx ctx fun c => { c with st := .saving })

end Sys2Proof.Machine
end

