-- ==== Sys2Proof/Machine/Host.lean ====
section
/-! DEFINITION. The host link: the message ring, the messages and their effects, the register writes
(21 R352 to R355, R358; 19 R336, R338, R340, R343, R345, R346). -/

namespace Sys2Proof.Machine

/-! Messages (21 R353, R354). -/

def Msg.type (m : Msg) : Nat := nat8 m.bytes 4 1
def Msg.ctx (m : Msg) : Nat := nat8 m.bytes 6 2
/-- The first u64 of the payload. -/
def Msg.addr (m : Msg) : W64 := word64 m.bytes 8
/-- KIND of a FILL. -/
def Msg.kind (m : Msg) : Nat := nat8 m.bytes 0x10 1
/-- POS of a FILL. -/
def Msg.pos (m : Msg) : Nat := nat8 m.bytes 0x11 1

/-- Payload bytes that a TYPE uses. -/
def Msg.used (m : Msg) : Nat :=
  match m.type with
  | 3 => 4
  | 4 => 0
  | 6 => if m.kind = 3 then 10 else 9
  | 7 => 16
  | 8 => 0
  | _ => 8

/-- A byte that must be zero is not, or the KIND of a FILL is none of its four. -/
def Msg.reserved (m : Msg) : Bool :=
  nat8 m.bytes 5 1 ≠ 0 || (m.bytes.drop (8 + m.used)).any (· ≠ 0) || (m.type = 6 && 3 < m.kind)

def State.setFn (s : State) (i : Nat) (f : Fn) : State := { s with fns := s.fns.set i f }

/-- What becomes of a message that is fetched: accepted, a duplicate, or a gap that stops the fetch. DEDUCED, log 71. -/
def State.acceptMsg (s : State) (i : Nat) (f : Fn) (m : Msg) : State :=
  let d := (m.seq - f.lastrx).toNat
  let fault (s : State) (reason : Nat) : State := s.report i (messageReport m.seq m.type reason m.ctx (f.lastrx + 1))
  let next := (f.fetch.toNat + 1) % f.mrsize.toNat
  let f1 := { f with fetch := BitVec.ofNat 32 next }
  if d = 0 || 2 ^ 31 ≤ d then s.setFn i { f1 with dups := f.dups + 1 }
  else if 2 ≤ d then fault (s.setFn i { f with gap := true }) 1
  else
    let f2 := { f1 with lastrx := m.seq }
    if m.type = 0 || 8 < m.type then fault (s.setFn i f2) 2
    else if m.reserved then fault (s.setFn i f2) 3
    else s.setFn i { f2 with pending := f2.pending ++ [m] }

/-- The message at the fetch position. -/
def State.ringMsg (s : State) (f : Fn) : Msg :=
  let b := cellRead s.hostMem (f.mrbase.toNat + 64 * (f.fetch.toNat % f.mrsize.toNat)) 64
  { seq := BitVec.ofNat 32 (nat8 b 0 4), bytes := b }

/-- Fetches up to MRTAIL in ring order. -/
def State.fetchMsgs (s : State) (i : Nat) : Nat → State
  | 0 => s
  | n + 1 =>
    match s.fns[i]? with
    | none => s
    | some f =>
      if f.gap || f.fetch.toNat % f.mrsize.toNat = f.mrtail.toNat % f.mrsize.toNat then s
      else State.fetchMsgs (s.acceptMsg i f (s.ringMsg f)) i n

/-- MRTAIL (21 R352, R354). DEDUCED, log 74. -/
def execMrtail (i : Nat) (v : W32) (s : State) : Out :=
  match s.fns[i]? with
  | none => .next s
  | some f => .next ((s.setFn i { f with mrtail := v, gap := false }).fetchMsgs i f.mrsize.toNat)

/-- MRBASE (21 R352); one that is not aligned to 4 KiB is taken as written (DESIGN CHOICE, log 152). -/
def execMrbase (i : Nat) (v : W64) (s : State) : Out :=
  match s.fns[i]? with
  | none => .next s
  | some f => .next (s.setFn i { f with mrbase := v, fetch := 0 })

/-- Writes what has been held, while there is room. -/
def State.flush (s : State) (i : Nat) : State :=
  match s.fns[i]? with | none => s | some f => s.flushReports i f.held.length

/-- RQBASE: its writes start again, at entry 0 of the new queue as 21 R352 says, or at the entry that SEQ gives as 21 R358 says
(DESIGN CHOICE, log 74). One that is not aligned to 4 KiB is taken as written (DESIGN CHOICE, log 152). -/
def execRqbase (i : Nat) (v : W64) (s : State) : Out :=
  match s.fns[i]? with
  | none => .next s
  | some f => .next ((s.setFn i { f with rqbase := v, rqstart := f.lasttx + 1 }).flush i)

/-- RQHEAD (21 R358). -/
def execRqhead (i : Nat) (v : W32) (s : State) : Out :=
  match s.fns[i]? with
  | none => .next s
  | some f => .next ((s.setFn i { f with rqhead := v }).flush i)

/-- REGISTER_WRITE: MRSIZE and RQSIZE; the registers that the device alone writes, and STATUS, keep their values
(21 R352). A size that is no power of two from 64 to 65,536 is taken as written (DESIGN CHOICE, log 152). -/
def execRegisterWrite (i : Nat) (off : Nat) (v : W64) (s : State) : Out :=
  match s.fns[i]? with
  | none => .next s
  | some f =>
    if off = 0x08 then .next (s.setFn i { f with mrsize := v.setWidth 32 })
    else if off = 0x18 then .next ((s.setFn i { f with rqsize := v.setWidth 32 }).flush i)
    else .next s

/-- STATUS (21 R352). -/
def State.status (s : State) : W32 :=
  BitVec.ofNat 32 ((!s.fatal && !s.recovery).toNat + 2 * s.fatal.toNat + 4 * s.recovery.toNat
    + 8 * (s.throttled || s.avgThrottled).toNat)

/-! Taking effect (21 R354, R355). -/

/-- The message at the head of a function's accepted ones, when it has this TYPE. -/
def State.headMsg (s : State) (i type : Nat) : Option Msg :=
  match s.fns[i]? with
  | none => none
  | some f => match f.pending with | m :: _ => if m.type = type then some m else none | [] => none

/-- The message has taken effect. -/
def State.popMsg (s : State) (i : Nat) (m : Msg) : State :=
  match s.fns[i]? with
  | none => s
  | some f => s.setFn i { f with pending := f.pending.erase m, waits := if m.type = 6 then f.waits else none }

/-- A message that fails its check: no effect, and a report to the function that carried it. -/
def State.msgFault (s : State) (i : Nat) (m : Msg) (reason : Nat) : State :=
  (s.popMsg i m).report i (messageReport m.seq m.type reason m.ctx m.seq)

/-- The live context that a message names, when the function owns it. -/
def State.owned (s : State) (i : Nat) (m : Msg) : Option Ctx :=
  match s.ctx? m.ctx with | some c => if c.fn = i then some c else none | none => none

/-- A message for a context that the function owns, or the fault. -/
def State.withOwned (s : State) (i type : Nat) (k : Msg → Ctx → State) : Out :=
  match s.headMsg i type with
  | none => .next s
  | some m =>
    match s.owned i m with
    | none => .next (s.msgFault i m 4)
    | some c => .next (k m c)

/-- LAUNCH_MESSAGE: the record is accepted or refused, or the message waits for a page or a table entry (03 R35, R37).
DEDUCED, log 73. -/
def execLaunchMessage (i : Nat) (s : State) : Out :=
  s.withOwned i 1 fun m c =>
    match s.fns[i]? with
    | none => s
    | some f =>
      if f.waits.isSome || s.tableFull c.no then s
      else match s.tryLaunch c m.addr with
        | .done s1 => s1.popMsg i m
        | .wait s1 none => s1
        | .wait s1 (some x) => s1.setFn i { (s1.fns.getD i f) with waits := some x }

/-! The context record (19 R336). -/

def ctxRecBytes : Nat := 768

/-- The bytes of a context record, read where the message says that it lies: also in memory of another partition, or at an address
that no memory has (DESIGN CHOICE, log 146). -/
def State.ctxRec (s : State) (addr : Nat) : List Byte := cellRead s.mem addr ctxRecBytes

/-- The first condition that a context record fails, for a partition of n clusters (21 R357). A TARGET of an APERTURE range that is
not 0, where 11 R188 shows Zero, is no reserved field that fails (DESIGN CHOICE, log 140). RSENT above 4,096, a PTROOT or a VSBASE that
is not aligned, VSBYTES that is no multiple of 64 KiB and a pool's SIZE that is no power of two fail nothing, and are used as they
read (DESIGN CHOICE, log 142). -/
def ctxRecFault (b : List Byte) (n : Nat) : Option Nat :=
  let zero (off len : Nat) : Bool := nat8 b off len = 0
  let pool (j : Nat) : Bool := zero (0x40 + 32 * j + 0x14) 12
  let unused := (List.range 4).all fun j => j < n || zero (0x40 + 32 * j) 32
  if !(zero 3 1 && zero 0x28 24 && (List.range 6).all pool && unused) then some 16
  else if nat8 b 0 2 = 0 || 4095 < nat8 b 0 2 then some 17
  else none

def rangesOf (b : List Byte) : List Range :=
  (List.range 16).map fun j =>
    let o := 0x100 + 32 * j
    { base := word64 b o, limit := word64 b (o + 8), target := word64 b (o + 16), attr := word64 b (o + 24) }

/-- What the record gives a context. -/
def Ctx.load (c : Ctx) (addr : Nat) (b : List Byte) : Ctx :=
  { c with
    recAddr := addr, migt := nat8 b 2 1, rsent := nat8 b 4 2, rsareas := nat8 b 6 2, ptroot := nat8 b 8 8
    rsbase := nat8 b 0x10 8, vsbase := nat8 b 0x18 8, vsbytes := nat8 b 0x20 8
    pools := (List.range 6).map fun j => (nat8 b (0x40 + 32 * j) 8, nat8 b (0x48 + 32 * j) 4), ranges := rangesOf b }

def zeroDim : QDim := { dir := List.replicate 32 0, row := List.replicate 32 0, shift := 0 }

/-- A new context (03 R31; 09 R178; 15 R295; 17 R306; DESIGN CHOICE, log 24). -/
def newCtx (no fn : Nat) : Ctx :=
  { no, fn, part := fn, st := .resident, recAddr := 0, migt := 0, rsent := 0, rsareas := 0, ptroot := 0, rsbase := 0
    vsbase := 0, vsbytes := 0, pools := List.replicate 6 (0, 0), ranges := [], serial := 1, templates := [], codebook := List.replicate 256 0
    qdims := List.replicate 256 zeroDim, qn := 0, scramble := false, slots := [], credits := List.replicate 32 []
    prq := false, pdlAt := 0, ember := List.replicate 4 0, bound := false, binds := [] }

/-- CTXSTART (19 R336; 21 R354). One that names a live context fails its check, and where the record names it too that is
refused with the first condition that it fails, REASON 18 after the others (21 R357; DEDUCED, log 72). -/
def execCtxstart (i : Nat) (s : State) : Out :=
  match s.headMsg i 2 with
  | none => .next s
  | some m =>
    let b := s.ctxRec m.addr.toNat
    let no := nat8 b 0 2
    if no ≠ m.ctx then .next (s.msgFault i m 4)
    else if (s.ctx? no).isSome then
      .next ((s.msgFault i m 4).report i (refusedReport no 2 ((ctxRecFault b (s.clusters i).length).getD 18) m.addr.toNat))
    else
      let s1 := s.popMsg i m
      match ctxRecFault b (s.clusters i).length with
      | some k => .next (s1.report i (refusedReport no 2 k m.addr.toNat))
      | none => .next { s1 with ctxs := s1.ctxs ++ [(newCtx no i).load m.addr.toNat b] }

/-! Pre-emption (19 R340, R343). -/

/-- PREEMPT: parked groups are saved at once. -/
def execPreempt (i : Nat) (s : State) : Out :=
  s.withOwned i 3 fun m c =>
    let s1 := s.popMsg i m
    if c.st = .saved then s1
    else
      let d := nat8 m.bytes 8 4
      let s2 := s1.updCtx c.no fun c => { c with prq := true, pdlAt := s.now + max 1 d }
      (s2.groups.filter fun g => g.id.ctx = c.no && g.isParked).foldl (fun s g => s.trySave g.id) s2

/-- UNPREEMPT: teams of which some groups are saved are switched out whole; the saved ones may be placed again. -/
def execUnpreempt (i : Nat) (s : State) : Out :=
  s.withOwned i 4 fun m c =>
    let s1 := s.popMsg i m
    if c.st = .saved then s1
    else
      let s2 := s1.updCtx c.no fun c => { c with prq := false, pdlAt := 0, st := .resident }
      let mixed := s2.teams.filter fun t => t.ctx = c.no && t.st = .resident && (s2.groupsOf c.no t.task).any Group.isSaved
      mixed.foldl (fun s t => s.leave c.no t.task .preempt []) s2

/-! Restore (19 R345, R346). -/

/-- The cluster of a new partition onto which a cluster of the old one maps. DEDUCED, log 75. -/
def State.mapCluster (s : State) (old new cl : Nat) : Nat :=
  let pos := ((s.clusters old).findIdx? fun c => c = cl).getD 0
  let cs := s.clusters new
  cs.getD (pos % cs.length) 0

def mapLoc (f : Nat → Nat) : Loc → Loc
  | .win c off => .win (f c) off
  | l => l

/-- Matrix state of two cluster positions would meet on one unit. -/
def State.unitsMeet (s : State) (c : Ctx) (n : Nat) : Bool :=
  let us := s.savedUnits.filter fun x => x.ctx = c.no
  us.any fun x => us.any fun y => x.pos ≠ y.pos && x.unit = y.unit && x.pos % n = y.pos % n

/-- A window byte range meets the former share of a team. -/
def State.inFormer (s : State) (t : Team) (cluster lo n : Nat) : Bool :=
  match t.former with
  | none => false
  | some (k, o) =>
    let base := k % 256 * Config.scratchBytes + o
    k / 256 = cluster && lo < base + s.scratchOf t.ctx t.serial && base < lo + n

/-- A milestone reference of a cluster in window form lies in the team's former share. -/
def State.refInFormer (s : State) (t : Team) (cluster : Nat) (r : W64) : Bool :=
  r.msb && s.inFormer t cluster (r.toNat % 2 ^ 26) 64

/-- An accepted start or trigger with a template writes into the team's former share, or arrives there. -/
def State.tmplInFormer (s : State) (t : Team) (cluster : Nat) (param : W32) (tmpl : List Byte) : Bool :=
  let x := Tmpl.ofBytes tmpl
  s.refInFormer t cluster x.ms
    || (x.dstCw && x.mode ≠ 3 && (List.range x.count).any fun r => s.inFormer t cluster (x.dstAt param r).toNat x.rowb)

/-- The team must return to its core index and offset. -/
def State.mustReturn (s : State) (c : Ctx) (t : Team) : Bool :=
  !t.held.isEmpty
    || s.savedStarts.any (fun x => x.ctx = c.no && s.tmplInFormer t x.cluster x.param x.tmpl)
    || s.savedTrigs.any (fun x => x.ctx = c.no &&
        ((match x.loc with | .win cl off => s.inFormer t cl off 64 | _ => false)
          || (match c.template? x.idx with | some e => s.tmplInFormer t x.cluster x.param e | none => false)))

/-- Ember reservations on the mapped clusters: what the positions that map to one had, as far as it is free there. -/
def State.mapEmber (s : State) (c : Ctx) (new : Nat) : List Nat :=
  let cs := s.clusters new
  (List.range 4).map fun q =>
    match cs[q]? with
    | none => 0
    | some cl =>
      let sum := ((List.range 4).map fun p => if p % cs.length = q then c.ember.getD p 0 else 0).foldl (· + ·) 0
      min sum (Config.emberLines - s.reservedBy c.no cl)

/-- A saved team on the clusters of the new partition. One of a logical core keeps that, and returns to its share's offset alone
(19 R345; DEDUCED, log 75). -/
def State.mapTeam (s : State) (c : Ctx) (f : Nat → Nat) (t : Team) : Team :=
  let former := t.former.map fun (k, o) => (f (k / 256) * 256 + k % 256, o)
  let pinned := if s.mustReturn c t then former else none
  { t with
    cluster := match pinned with | some (k, _) => if s.isLogical t.ctx t.serial then f t.cluster else k / 256 | none => f t.cluster
    former, window := f t.window, pinned }

/-- The milestone of a trigger entry of an image cannot be read yet: the entry stays out (11 R197; 19 R347; DEDUCED, log 69). -/
def State.triggerWaits (s : State) (t : Trigger) : Bool :=
  match s.mref t.ctx t.cluster t.ref with | .ok l => s.locUnreached t.cluster l | _ => false

/-- A trigger entry of an image enters its table: at once it fires, or is cancelled, when its milestone says so. -/
def State.enterTrigger (s : State) (t : Trigger) : State :=
  let s1 : State := { s with savedTrigs := s.savedTrigs.filter fun x => x.id ≠ t.id, triggers := s.triggers ++ [t] }
  match (match s1.mref t.ctx t.cluster t.ref with | .ok l => s1.ms? l | _ => none) with
  | none => s1
  | some m => if m.err ≠ 0 then s1.run [.cancel t] else if reached m.phase t.phase then s1.run [.fire t] else s1

/-- Trigger entries and starts of contexts that are back enter as there is room, in order (19 R345); a fenced trigger table or BTE takes
none (19 R347). -/
def State.enterSaved (s : State) : State :=
  let back (ctx : Nat) : Bool := match s.ctx? ctx with | some c => c.st = .resident | none => false
  let s1 := s.savedTrigs.foldl (fun s t =>
    let first := (s.savedTrigs.find? fun x => x.ctx = t.ctx && x.cluster = t.cluster).map (·.id) = some t.id
    if back t.ctx && first && !s.fenced (unitCode t.cluster 13 0) && !s.triggerWaits t
        && (s.triggers.filter fun x => x.cluster = t.cluster).length < Config.triggerEntries then s.enterTrigger t
    else s) s
  s1.savedStarts.foldl (fun s x =>
    if back x.ctx && !s.fenced (unitCode x.cluster 6 0) && (x.st = .refused || s.queued x.cluster x.channel < Config.channelQueue) then
      { s with savedStarts := s.savedStarts.filter fun y => y.id ≠ x.id, starts := s.starts ++ [x] }
    else s) s1

/-- The context comes back onto a partition. -/
def State.restoreCtx (s : State) (c : Ctx) (i addr : Nat) (b : List Byte) : State :=
  let f := s.mapCluster c.part i
  let n := (s.clusters i).length
  let c1 : Ctx :=
    { c.load addr b with
      fn := i, part := i, st := .resident, bound := false, ember := s.mapEmber c i
      slots := c.slots.map fun (k, x) => (k, { x with cluster := f x.cluster })
      binds := c.binds.map fun (tag, cl, r) => (tag, f cl, r) }
  let c2 : Ctx := { c1 with credits := s.creditsOf c1 }
  let s1 : State := { s with
    teams := s.teams.map fun t => if t.ctx = c.no then s.mapTeam c f t else t
    savedTrigs := s.savedTrigs.map fun t =>
      if t.ctx = c.no then { t with cluster := f t.cluster, loc := mapLoc f t.loc } else t
    savedStarts := s.savedStarts.map fun x =>
      if x.ctx = c.no then
        { x with cluster := f x.cluster, remote := x.remote.map fun (k, y) => (k, { y with cluster := f y.cluster }) }
      else x
    savedUnits := s.savedUnits.map fun x => if x.ctx = c.no then { x with pos := x.pos % n } else x
    awaits := s.awaits.map fun a => if a.ctx = c.no then { a with cluster := f a.cluster } else a
    tiers := s.tiers.map fun x => if x.ctx = c.no then { x with cluster := f x.cluster } else x
    migrations := s.migrations.map fun x => if x.ctx = c.no then { x with cluster := f x.cluster } else x
    steals := s.steals.map fun x => if x.ctx = c.no then { x with asker := f x.asker, asked := f x.asked } else x
    late := s.late.map fun x => if x.ctx = c.no then { x with cluster := f x.cluster } else x
    counters := s.counters.filter fun x => x.1.1 ≠ c.no }
  let s2 := (s1.setCtx c2).enterSaved
  ((List.range 128).foldl (fun s u => s.unitService u) s2).testDeps

/-- RESTORE (19 R345; 21 R354). -/
def execRestore (i : Nat) (s : State) : Out :=
  match s.headMsg i 5 with
  | none => .next s
  | some m =>
    let b := s.ctxRec m.addr.toNat
    match s.ctx? m.ctx with
    | none => .next (s.msgFault i m 4)
    | some c =>
      if c.st ≠ .saved || nat8 b 0 2 ≠ m.ctx then .next (s.msgFault i m 4)
      else
        let s1 := s.popMsg i m
        let refuse (k : Nat) : State := s1.reportCtx c.no (refusedReport c.no 2 k m.addr.toNat)
        match ctxRecFault b (s.clusters i).length with
        | some k => .next (refuse k)
        | none =>
          if c.bound && i ≠ c.part then .next (refuse 19)
          else if s.unitsMeet c (s.clusters i).length then .next (refuse 20)
          else .next (s1.restoreCtx c i m.addr.toNat b)

/-! FILL (19 R338; 21 R355). -/

/-- What a FILL names. -/
def Msg.miss (m : Msg) : Miss :=
  match m.kind with
  | 0 => .page (pageOf m.addr.toNat)
  | 1 => .ember
  | 2 => .freeList m.addr.toNat
  | _ => .pool m.pos

/-- A LAUNCH at the head that waits holds the messages behind it, FILLs apart; one that names no context of its function waits for
nothing (21 R354, R355). -/
def State.headHeld (s : State) (i : Nat) (f : Fn) : Bool :=
  match f.pending with
  | m :: _ => m.type = 1 && (s.owned i m).isSome && (f.waits.isSome || s.tableFull m.ctx)
  | [] => false

/-- The FILL that takes effect next. -/
def State.fillMsg (s : State) (i : Nat) : Option Msg :=
  match s.headMsg i 6 with
  | some m => some m
  | none =>
    match s.fns[i]? with
    | none => none
    | some f => if s.headHeld i f then f.pending.find? fun m => m.type = 6 else none

/-- Everything of a context that waits for this stops waiting; what waits for nothing more goes on. -/
def State.fill (s : State) (ctx : Nat) (x : Miss) : State :=
  let part := match s.ctx? ctx with | some c => c.part | none => 0
  let filled : Option Hold := match x with | .page p => some { page := p, fill := true } | _ => none
  let heldHere (f : Fn) : Bool := match f.pending with | m :: _ => m.ctx = ctx && filled.isSome && f.waits = filled | [] => false
  let s1 : State := { s with
    teams := s.teams.map fun t =>
      if t.ctx ≠ ctx || !t.missing.contains x then t
      else
        let missing := t.missing.erase x
        { t with missing, st := if t.st = .out && missing.isEmpty then .queued else t.st }
    landings := s.landings.map fun a =>
      if a.part = part && s.jobCtx part = some ctx then { a with waits := a.waits.erase x } else a
    copies := s.copies.map fun y => if y.start.ctx = ctx then { y with waits := y.waits.erase x } else y
    starts := s.starts.map fun y => if y.ctx = ctx then { y with waits := y.waits.erase x } else y
    tiers := s.tiers.map fun y => if y.ctx = ctx then { y with waits := y.waits.erase x } else y
    launches := s.launches.map fun l => if l.ctx = ctx then { l with waits := l.waits.erase x } else l
    fns := s.fns.map fun f => if heldHere f then { f with waits := none } else f }
  let s2 := if x = .ember then
      s1.updCtx ctx fun c => if c.st = .saving then { c with st := .resident } else c
    else s1
  let s3 := match filled with | some h => (s2.retryLate ctx h).retryJoins ctx (some h) | none => s2
  s3.testDeps

/-- FILL. -/
def execFill (i : Nat) (s : State) : Out :=
  match s.fillMsg i with
  | none => .next s
  | some m =>
    match s.owned i m with
    | none => .next (s.msgFault i m 4)
    | some c =>
      .next ((s.popMsg i m).fill c.no m.miss)

/-! SETDUMP and CTXEND (21 R354, R360). -/

/-- SETDUMP. -/
def execSetdump (i : Nat) (s : State) : Out :=
  match s.headMsg i 7 with
  | none => .next s
  | some m =>
    if m.ctx ≠ 0 then .next (s.msgFault i m 4)
    else
      let s1 := s.popMsg i m
      .next { s1 with dump := some (m.addr.toNat, nat8 m.bytes 0x10 8) }

/-- The context still has launches, teams, trigger entries or starts. -/
def State.ctxBusy (s : State) (ctx : Nat) : Bool :=
  s.launches.any (fun l => l.ctx = ctx) || s.teams.any (fun t => t.ctx = ctx)
    || s.triggers.any (fun t => t.ctx = ctx) || s.savedTrigs.any (fun t => t.ctx = ctx)
    || s.starts.any (fun x => x.ctx = ctx) || s.savedStarts.any (fun x => x.ctx = ctx)
    || s.copies.any (fun x => x.start.ctx = ctx)

/-- Nothing of the context stays in the device. -/
def State.endCtx (s : State) (ctx : Nat) : State :=
  let s1 : State := { s with
    ctxs := s.ctxs.filter fun c => c.no ≠ ctx
    l1 := s.l1.filter fun l => l.ctx ≠ ctx
    ember := s.ember.filter fun e => e.ctx ≠ ctx
    vlines := s.vlines.filter fun v => v.ctx ≠ ctx
    counters := s.counters.filter fun x => x.1.1 ≠ ctx
    migrations := s.migrations.filter fun m => m.ctx ≠ ctx
    tiers := s.tiers.filter fun t => t.ctx ≠ ctx
    ordered := s.ordered.filter fun o => o.gid.ctx ≠ ctx
    claims := s.claims.filter fun c => c.gid.ctx ≠ ctx
    joins := s.joins.filter fun j => j.ctx ≠ ctx
    late := s.late.filter fun x => x.ctx ≠ ctx
    tagrefs := s.tagrefs.filter fun t => t.gid.ctx ≠ ctx
    qunits := s.qunits.filter fun q => q.2 ≠ ctx
    qloads := s.qloads.filter fun q => q.2 ≠ ctx
    awaits := s.awaits.filter fun a => a.ctx ≠ ctx
    sent := s.sent.filter fun x => x.gid.ctx ≠ ctx
    savedUnits := s.savedUnits.filter fun x => x.ctx ≠ ctx
    units := s.units.map fun m => if m.heldBy ctx then idleUnit else m }
  (List.range 128).foldl (fun s u => s.unitService u) s1

/-- CTXEND. -/
def execCtxend (i : Nat) (s : State) : Out :=
  s.withOwned i 8 fun m c => if s.ctxBusy c.no then s.msgFault i m 5 else (s.popMsg i m).endCtx c.no

/-! Host writes (21 R355). -/

/-- Device memory lies at an address (11 R191; 01 R28). -/
def State.isMem (s : State) (pa : Nat) : Bool :=
  (stackOf pa).isSome || (List.range s.fns.length).any fun p => s.inLp p pa

/-- An L1 copy of a C line holds some of n bytes of device memory. -/
def State.copyOf (s : State) (addr n : Nat) (l : L1Line) : Bool :=
  l.coherent && match s.ctx? l.ctx with
    | none => false
    | some c => match s.walk c l.line with
      | .ok lf => addr < lf.frame + l.line % 65536 + 64 && lf.frame + l.line % 65536 < addr + n
      | .missing _ => false

/-- HOST_WRITE_TO_DEVICE_MEMORY: a change to published memory, which recalls the copies of C lines (11 R200). -/
def execHostWriteToDeviceMemory (addr : Nat) (bytes : List Byte) (s : State) : Out :=
  if (List.range bytes.length).all fun j => s.isMem (addr + j) then
    .next ((s.dropL1 (s.copyOf addr bytes.length)).writeMem addr bytes)
  else .next s

end Sys2Proof.Machine
end

