-- ==== Sys2Proof/Machine/Mgmt.lean ====
section
/-! DEFINITION. The management controller: bring-up, soft errors, fatal errors, power and telemetry
(01 R26 to R28; 19 R347 to R350; 21 R359 to R363). Values before the first refresh and the first sample: DESIGN CHOICE, log 23. -/

namespace Sys2Proof.Machine

/-! The configuration record (01 R27, R28). -/

/-- Bytes that the disabled-unit entries take, padded to a multiple of 16. -/
def padDis (ndis : Nat) : Nat := (4 * ndis + 15) / 16 * 16

/-- The conditions that a record meets apart from its signature. -/
def recordFormed (b : List Byte) : Bool :=
  let nspare := nat8 b 0x24 2
  let ndis := nat8 b 0x26 2
  let bytes := 0x40 + 16 * nspare + padDis ndis + 96
  let env := nat8 b 0x1C 2
  let ft := nat8 b 0x20 4
  let arr := nat8 b 0x10 1
  let share (q : Nat) : Nat := nat8 b (0x14 + 2 * q) 2
  nat8 b 0 4 = 0x43444B42 && nat8 b 4 2 = 1 && nat8 b 6 2 = 0 && nat8 b 8 4 = bytes && b.length = bytes && arr ≤ 4
    && nat8 b 0x11 3 = 0 && share 0 + share 1 + share 2 + share 3 ≤ 1024
    && (List.range 4).all (fun q => q < (arrangement arr).length || share q = 0)
    && (env = 0 || (1200 ≤ env && env ≤ 2800)) && nat8 b 0x1E 2 = 0 && (ft = 0 || (100 ≤ ft && ft ≤ 1000000))
    && nat8 b 0x28 24 = 0 && (List.range nspare).all (fun j => nat8 b (0x40 + 16 * j + 12) 4 = 0)
    && nat8 b (0x40 + 16 * nspare + 4 * ndis) (padDis ndis - 4 * ndis) = 0

/-- The signature in the last 96 bytes of a record, r then s, is one of the bytes before it under the key in ROM. -/
def signatureOk (b : List Byte) : Bool :=
  let n := b.length - 96
  P384.verifies Config.romKey (sha384 (b.take n)).toNat (bigEndian ((b.drop n).take 48)) (bigEndian (b.drop (n + 48)))

/-- What a record sets. Its list of disabled units is taken whole: an entry of another kind than 01 R26's four, or with an index that
no unit has, is accepted and reported, and turns nothing off (DESIGN CHOICE, log 145). -/
def State.applyRecord (s : State) (b : List Byte) : State :=
  let w (off : Nat) : W32 := BitVec.ofNat 32 (nat8 b off 4)
  let nspare := nat8 b 0x24 2
  { s with
    recBytes := b, arrange := nat8 b 0x10 1, lpshare := (List.range 4).map fun q => nat8 b (0x14 + 2 * q) 2
    envelope := if nat8 b 0x1C 2 = 0 then 2800 else nat8 b 0x1C 2
    ftimeout := if nat8 b 0x20 4 = 0 then 2000 else nat8 b 0x20 4
    recSerial := w 0xC
    spares := (List.range nspare).map fun j => (w (0x40 + 16 * j), w (0x44 + 16 * j), w (0x48 + 16 * j))
    disabled := (List.range (nat8 b 0x26 2)).map fun j => w (0x40 + 16 * nspare + 4 * j) }

/-! Units (19 R350). -/

/-- The unit belongs to a cluster; the others stand on the port die. -/
def onCluster (u : W32) : Bool := unitKind u ≤ 8 || unitKind u = 13

/-- A partition is concerned by a unit. -/
def State.hasUnit (s : State) (part : Nat) (u : W32) : Bool := !onCluster u || (s.clusters part).contains (unitCluster u)

/-- The Capability reports of a partition: its disabled units (01 R26). -/
def State.capability (s : State) (part : Nat) : State :=
  (capabilityReports (s.disabled.filter (s.hasUnit part))).foldl (fun s r => s.report part r) s

/-! Bring-up (21 R359). -/

/-- What a reset leaves: memory, the images of the sideband store, and the model's counter and agenda. DEDUCED, log 66. -/
def State.afterReset (s : State) : State :=
  { State.reset with
    agenda := s.agenda, tick := s.tick, mem := s.mem, scratch := s.scratch, hostMem := s.hostMem, image := s.image, recBytes := s.recBytes
    telemetry := s.telemetry, fns := [resetFn]
    poison := s.poison.filter fun p => match p with | .mem _ | .scratch _ _ => true | _ => false }

/-- DEVICE_RESET: the image and the record are verified, the record is applied, and each function is Ready; else the
recovery state. -/
def execDeviceReset (s : State) : Out :=
  let s0 := s.afterReset
  if !(Config.imageOk s.image && Config.romMinimum ≤ Config.firmwareOf s.image && recordFormed s.recBytes && signatureOk s.recBytes) then .next { s0 with recovery := true }
  else
    let s1 : State := { s0.applyRecord s.recBytes with firmware := Config.firmwareOf s.image }
    let n := (arrangement s1.arrange).length
    let s2 : State := { s1 with fns := List.replicate n resetFn, places := List.replicate n noPlace }
    let hash := sha256 s.recBytes
    let s3 := (List.range n).foldl (fun s p => s.report p (readyReport s.firmware s.recSerial (s.clusters p) hash)) s2
    .next ((List.range n).foldl (fun s p => if s.disabled.any (s.hasUnit p) then s.capability p else s) s3)

/-- NEW_IMAGE_OR_RECORD: what the recovery state accepts; the next reset reads it. An empty string stands for none. -/
def execNewImageOrRecord (image record : List Byte) (s : State) : Out :=
  if !s.recovery then .next s
  else .next { s with
    image := if image.isEmpty then s.image else image
    recBytes := if record.isEmpty then s.recBytes else record }

/-! Fatal errors (19 R349, R350; 21 R360). -/

/-- The sections of a dump, in table order; the host-link section holds each function's sequence numbers. -/
def State.dumpSections (s : State) : List (Nat × List Byte) :=
  (List.range 8).map fun j =>
    if j + 1 = 7 then (7, s.fns.flatMap fun f => leBytes 4 f.lastrx.toNat ++ leBytes 4 f.lasttx.toNat)
    else (j + 1, Config.dumpSection (j + 1) s.tick)

def sectBytes (xs : List (Nat × List Byte)) : Nat := (xs.map fun x => x.2.length).foldl (· + ·) 0

/-- The sections that an area of n bytes receives. -/
def fitting (n : Nat) : List (Nat × List Byte) → List (Nat × List Byte) → List (Nat × List Byte)
  | acc, [] => acc
  | acc, x :: rest =>
    let more := acc ++ [x]
    fitting n (if 64 + 16 * more.length + sectBytes more ≤ n then more else acc) rest

/-- Where each section begins. -/
def sectOffsets (start : Nat) : List (Nat × List Byte) → List Nat
  | [] => []
  | x :: rest => start :: sectOffsets (start + x.2.length) rest

/-- The bytes of a dump. -/
def State.dumpBytes (s : State) (n : Nat) (cause unit : W32) : List Byte :=
  let all := s.dumpSections
  let xs := fitting n [] all
  let header := leBytes 4 0x50444B42 ++ leBytes 2 1 ++ leBytes 2 xs.length ++ leBytes 8 (64 + 16 * all.length + sectBytes all)
    ++ leBytes 4 cause.toNat ++ leBytes 4 unit.toNat ++ leBytes 8 s.now ++ (leBytes 32 (sha256 s.recBytes).toNat).reverse
  let table := (xs.zip (sectOffsets (64 + 16 * xs.length) xs)).flatMap fun (x, off) =>
    leBytes 2 x.1 ++ leBytes 2 0 ++ leBytes 4 x.2.length ++ leBytes 8 off
  (header ++ table ++ xs.flatMap (·.2)).take n

/-- A fatal error: the dump is written and the device stops. -/
def State.die (s : State) (cause unit : W32) : State :=
  let s1 := match s.dump with
    | none => s
    | some (a, n) => s.writeMem a (s.dumpBytes n cause unit)
  { s1 with fatal := true }

/-- FATAL_ERROR. -/
def execFatalError (cause unit : W32) (s : State) : Out := .next (s.die cause unit)

/-! Soft errors (19 R347, R348). -/

/-- Data becomes uncorrectable; where none stands in the place nothing does. -/
def State.spoil (s : State) (p : Place) : State :=
  let reg (id : GroupId) (x : Opd) (here : Group → Bool) : State :=
    s.updGroup id fun g => if here g then { g with bad := g.bad ++ [x] } else g
  match p with
  | .vreg id n => reg id (.v (Fin.ofNat 512 n)) fun g => n < g.v.length
  | .oent id n => reg id (.o (Fin.ofNat 32 n)) fun g => (g.o.getD n none).isSome
  | .greg id n => reg id (.g (Fin.ofNat 128 n)) fun _ => n < 128
  | .slot u k row =>
    let m := s.munit u
    let x := m.slot k
    if x.ctx.isSome && u < 128 then s.setUnit u (m.setSlot k { x with bad := x.bad ++ [row] }) else s
  | .l1 core ctx w =>
    { s with l1 := s.l1.map fun x =>
        if x.core = core && x.ctx = ctx && x.line ≤ 8 * w && 8 * w < x.line + 64 then { x with bad := x.bad ++ [w] } else x }
  | .vers ctx task w =>
    s.updTeam ctx task fun t =>
      if t.version.any fun c => c.1 / 8 = w then { t with verBad := t.verBad ++ [w] } else t
  | .ember ctx w =>
    { s with ember := s.ember.map fun x =>
        if x.ctx = ctx && x.line ≤ 8 * w && 8 * w < x.line + 64 then { x with bad := x.bad ++ [w] } else x }
  | .image ctx task =>
    if s.teams.any fun t => t.ctx = ctx && t.task = task && !t.frames.isEmpty then { s with poison := s.poison ++ [p] } else s
  | p => { s with poison := s.poison ++ [p] }

/-- SOFT_ERROR: the unit that erred is fenced, and a corrected error is counted; an uncorrectable one stays in its place until a
party consumes or overwrites it. No report is sent for it, and it is not counted, until one consumes it (DESIGN CHOICE, log 124). -/
def execSoftError (place : Place) (correctable : Bool) (unit : W32) (s : State) : Out :=
  let (id, s1) := s.fresh
  let s2 : State := { s1 with fences := s1.fences ++ [{ id, unit }] }
  .next (if correctable then { s2 with corrected := s2.corrected + 1 } else s2.spoil place)

/-- The last enabled slice of its cluster. -/
def State.lastSlice (s : State) (u : W32) : Bool :=
  unitKind u = 4 && (List.range 64).all fun k => k = unitIndex u || s.off (unitCluster u) 4 k

/-- Groups parked on a matrix unit issue their instruction again. -/
def State.unparkUnit (s : State) (u : Nat) : State :=
  let on (w : Park) : Bool := match w with
    | .unit v | .accslot v _ _ | .steps v _ | .drop v => v = u
    | _ => false
  { s with groups := s.groups.map fun g => match g.st with | .parked w => if on w then { g with st := .ready } else g | _ => g }

/-- Every partition that has the unit reports its capability. -/
def State.lessCapable (s : State) (u : W32) : State :=
  (List.range s.fns.length).foldl (fun s p => if s.hasUnit p u then s.capability p else s) s

/-- Nothing stands on the core: no group's window, and no share. -/
def State.coreEmpty (s : State) (core : Nat) : Bool :=
  !(s.groups.any fun g => g.site = .core core && s.holds g)
    && !(s.teams.any fun t => t.st.hasShare && match t.share with | some (k, _) => k = core | none => false)

/-- Cores whose last team has left are disabled (01 R26; 19 R337). -/
def State.closeCores (s : State) : State :=
  (s.closing.filter s.coreEmpty).foldl (fun s k =>
    let u := unitCode (k / Config.coresPerCluster) 1 (k % Config.coresPerCluster)
    State.lessCapable { s with
      closing := s.closing.filter (· ≠ k), disabled := s.disabled ++ [u], hostings := s.hostings.filter fun h => h.core ≠ k } u) s

/-- UNIT_DISABLE (01 R26): a core takes no team any more, and its teams are switched out before it is disabled; a matrix unit
stands empty; the capability is reported. A disabled pseudo-channel's frames are read and written as before: what an access to one
meets is not given (DESIGN CHOICE, log 109). -/
def State.disableUnit (s : State) (u : W32) : State :=
  if unitKind u = 1 then
    let core := unitCluster u * Config.coresPerCluster + unitIndex u
    let ts := s.teams.filter fun t => t.st = .resident
      && ((s.groupsOf t.ctx t.task).any (fun g => g.site = .core core) || match t.share with | some (k, _) => k = core | none => false)
    let s1 : State := { s with closing := s.closing ++ [core] }
    (ts.foldl (fun s t => s.leave t.ctx t.task .disabled []) s1).closeCores
  else
    let s1 : State := { s with disabled := s.disabled ++ [u] }
    let m := unitCluster u * 32 + unitIndex u
    (if unitKind u = 3 then (s1.setUnit m idleUnit).unparkUnit m else s1).lessCapable u

/-- Host messages and JOIN launches that waited for a fenced unit go on; those that wait for a FILL do not (03 R35). -/
def State.retryRecords (s : State) : State :=
  let reach (h : Option Hold) : Bool := h.any fun x => !x.fill
  let s1 : State := { s with fns := s.fns.map fun f => if reach f.waits then { f with waits := none } else f }
  (s.joins.filter fun j => reach j.hold).foldl (fun s j => s.retryJoins j.ctx j.hold) s1

/-- Every function's held reports go out as far as they can. -/
def State.flushAll (s : State) : State := (List.range s.fns.length).foldl (fun s i => s.flush i) s

/-- A fence is lifted: what waited for the unit goes on (19 R347; DEDUCED, log 69). -/
def State.lift (s : State) (f : Fence) : State :=
  let s1 := State.retryRecords (State.retryAll { s with fences := s.fences.filter fun x => x.id ≠ f.id })
  match unitKind f.unit with
  | 3 => s1.unitService (unitCluster f.unit * 32 + unitIndex f.unit)
  | 8 => s1.flushAll
  | 10 => s1.flushAll
  | 13 => s1.settleTriggers (unitCluster f.unit)
  | _ => s1

/-- SELF_TEST_DONE: the n-th fenced unit resumes when its test passes or a spare takes the row; else it is disabled. A unit
of another kind than those of 01 R26 stays fenced too. DEDUCED, log 67. -/
def execSelfTestDone (n : Nat) (passed spare : Bool) (s : State) : Out :=
  match s.fences[n]? with
  | none => .next s
  | some f =>
    if passed then .next (s.lift f)
    else if spare then .next (State.lift { s with spared := s.spared + 1 } f)
    else if s.lastSlice f.unit then .next (State.die { s with fences := s.fences.filter fun x => x.id ≠ f.id } 1 f.unit)
    else if [1, 3, 4, 5].contains (unitKind f.unit) then .next ((s.disableUnit f.unit).lift f)
    else .next (s.disableUnit f.unit)

/-! Power, telemetry (21 R361 to R363). -/

/-- The lowest clock, and the highest, in MHz. -/
def mhzFloor : Nat := 1600
def mhzTop : Nat := 4000

/-- The clock stands at its floor while power exceeds the envelope. -/
def State.overFloor (s : State) (watts : Nat) : Bool := s.mhz ≤ mhzFloor && s.envelope < watts

/-- POWER_SAMPLE: idle issue cycles are inserted while vector and matrix issue both near their peaks. DEDUCED, log 68. -/
def execPowerSample (watts : Nat) (nearPeak : Bool) (s : State) : Out :=
  let s1 : State := { s with
    power := watts, throttled := nearPeak, throttles := s.throttles + (nearPeak && !s.throttled).toNat }
  .next (if s.overFloor watts then s1.die 4 0 else s1)

/-- POWER_AVERAGE: the clock falls or rises by 100 MHz; the device trips at 105 °C, or at the clock's floor. -/
def execPowerAverage (watts celsius : Nat) (s : State) : Out :=
  let s1 : State := { s with average := watts, celsius }
  if 105 ≤ celsius || s.overFloor watts then .next (s1.die 4 0)
  else if s.envelope < watts || 95 < celsius then .next { s1 with
    mhz := max mhzFloor (s.mhz - 100), avgThrottled := true, throttles := s.throttles + (!s.avgThrottled).toNat }
  else
    let mhz := min mhzTop (s.mhz + 100)
    .next { s1 with mhz, avgThrottled := mhz < mhzTop }

/-- TELEMETRY_REFRESH: what the sensors show, with the events counted since the reset. -/
def execTelemetryRefresh (sensors : Sensors) (s : State) : Out :=
  .next { s with telemetry :=
    { toSensors := sensors, throttles := s.throttles, corrected := s.corrected, spared := s.spared } }

end Sys2Proof.Machine
end

