-- ==== Sys2Proof/Machine/Plan.lean ====
section
/-! DEFINITION. Which move comes next: the head of `agenda`, or with an empty agenda the first step of the device that has
something to do, or else an issue slot (DESIGN CHOICE, log 2). Any interleaving of the agents is an agenda. -/

namespace Sys2Proof.Machine

/-! What the device has to do. -/

/-- Steps due to teams, launches and groups. -/
def State.teamMoves (s : State) : List Instr :=
  (s.teams.filterMap fun t =>
    match t.st with
    | .aborting _ => some (.abortDiscardDone t.ctx t.task)
    | _ =>
      if s.outDue t then some (.switchOutComplete t.ctx t.task)
      else if s.retireDue t then some (.teamRetire t.ctx t.task)
      else none)
    ++ (s.groups.filter s.releaseDue).map (fun g => .groupRelease g.id)
    ++ (s.launches.filter s.launchDone).map (fun l => .launchRetire l.ctx l.serial)

/-- Steps due to pre-emption. -/
def State.ctxMoves (s : State) : List Instr :=
  s.ctxs.filterMap fun c =>
    if s.deadlinePassed c.no && !(s.unsaved c.no).isEmpty then some (.preemptDeadline c.no)
    else if s.saveDue c then some (.contextSave c.no)
    else none

/-- The message of a function that takes effect next. -/
def State.hostMove (s : State) (i : Nat) (f : Fn) : Option Instr :=
  if (s.fillMsg i).isSome then some (.fill i)
  else if s.headHeld i f then none
  else match f.pending with
    | [] => none
    | m :: _ =>
      match m.type with
      | 1 => some (.launchMessage i)
      | 2 => some (.ctxstart i)
      | 3 => some (.preempt i)
      | 4 => some (.unpreempt i)
      | 5 => some (.restore i)
      | 7 => some (.setdump i)
      | 8 => some (.ctxend i)
      | _ => none

def State.hostMoves (s : State) : List Instr := s.fns.zipIdx.filterMap fun (f, i) => s.hostMove i f

/-- The position of the first element for which something is due. -/
def firstAt {α : Type} (xs : List α) (p : α → Bool) (k : Nat → Instr) : List Instr :=
  match xs.findIdx? p with | some n => [k n] | none => []

def LKind.isAcc : LKind → Bool | .acc .. => true | _ => false
def LKind.isRemote : LKind → Bool | .remote .. => true | _ => false
def LKind.late (now : Nat) : LKind → Bool | .remote _ _ _ _ _ u => u ≤ now | _ => false

/-- Data that lands. -/
def State.loadMoves (s : State) : List Instr :=
  firstAt (s.loads.filter fun l => l.kind.isMem) (fun _ => true) .loadDataLands
    ++ firstAt (s.loads.filter fun l => l.kind.isAcc) (fun _ => true) .accdrRead
    ++ firstAt s.resps (fun _ => true) (.remoteResponse · none)
    ++ firstAt (s.loads.filter fun l => l.kind.isRemote) (fun l => l.kind.late s.now) .remoteTimeout

/-- A steal message would bring teams. -/
def State.canSteal (s : State) (cluster : Nat) (l : Launch) : Bool :=
  match s.stealFrom cluster l with | some d => 2 ≤ (s.unstarted l d).length | none => false

/-- Steps of cores and distributors. -/
def State.coreMoves (s : State) : List Instr :=
  s.qloads.map (fun q => .qrsStateLoad q.1)
    ++ (s.groups.filter s.probeDue).map (fun g => .probeTimer g.id)
    ++ firstAt s.probes (fun _ => true) .probeHop
    ++ firstAt (s.steals.filter fun x => x.answer.isNone) (fun _ => true) .stealMessage
    ++ firstAt (s.steals.filter fun x => x.answer.isSome) (fun _ => true) .stealHandover
    ++ ((List.range 4).filter fun cl => (s.admitNext cl).isSome || s.launches.any (s.canSteal cl)).map .teamAdmit
    ++ (s.hostings.filter fun h => s.switchDue h && (match cyclic (s.logicalWork h.core) h.lcore with
        | some l => l ≠ h.lcore || h.done
        | none => false)).map fun h => .dmodeTimeshareSwitch h.core

/-- A refused contribution that its slice would take now (11 R208). -/
def State.takesOrdered (s : State) (o : Ordered) : Bool :=
  match s.cellHome o with
  | none => false
  | some (home, slice, ps) =>
    let cell := s.readPieces o.gid.ctx ps
    o.rank.toNat = nat8 cell 8 4 || (nat8 cell 12 4 ≠ 0 && nat8 cell 12 4 ≤ o.rank.toNat) || s.piecesBad o.gid.ctx ps
      || (s.ordered.filter fun x => x.st = .buffered && x.cluster = home && x.slice = slice).length < Config.orderedEntries

/-- Steps of the memory side. -/
def State.memMoves (s : State) : List Instr :=
  firstAt (s.tiers.filter fun t => !t.pages.isEmpty) (fun _ => true) .tierPageMove
    ++ firstAt (s.tiers.filter fun t => t.pages.isEmpty && t.waits.isEmpty) (fun _ => true) .tierComplete
    ++ firstAt (s.ordered.filter fun o => o.st = .sent) (fun o => (s.cellHome o).isSome && !s.orderedBehind o) .atomoArrival
    ++ firstAt (s.ordered.filter fun o => o.st = .refused) s.takesOrdered .atomoResend

/-- The channel's first accepted start can begin, or fail. -/
def State.mayBegin (s : State) (x : Start) : Bool :=
  let t := x.t
  x.waits.isEmpty && s.starts.find? (fun y => y.cluster = x.cluster && y.channel = x.channel && y.st = .queued) = some x
    && (t.mode ≠ 3 || x.misaligned || x.vectorOnly
      || (t.ms ≠ 0 && (match s.mref x.ctx x.cluster t.ms with | .ok _ => false | _ => true))
      || !((s.munit x.gunit).heldByOther x.ctx || 4 ≤ ((s.munit x.gunit).stream t.streamB).length))

/-- A remote copy has allowance for its next segment, or fails there. -/
def State.mayReach (s : State) (x : Copy) : Bool :=
  match x.start.remote, s.ctx? x.start.ctx with
  | some (k, _), some c =>
    let d := (x.start.t.dstAt x.start.param x.row).toNat
    match s.fabricRange c with
    | none => true
    | some r =>
      !(r.covers d && d + x.start.t.rowb - 1 ≤ r.limit.toNat)
        || (min 65536 (x.start.t.rowb - x.sent) + 255) / 256 ≤ c.allowance k
  | _, _ => false

/-- The next tile of a stream is whole. -/
def MUnit.tileDue (m : MUnit) (b : Bool) : Bool :=
  match (m.stream b).find? fun p => !p.entered with | some p => p.whole | none => false

/-- Steps of the engines. -/
def State.engineMoves (s : State) : List Instr :=
  firstAt (s.starts.filter fun x => x.st = .refused)
      (fun x => !s.startBehind x && s.queued x.cluster x.channel < Config.channelQueue
        && !s.fenced (unitCode x.cluster 6 0)) .startResend
    ++ (s.starts.filter s.mayBegin).map (fun x => .copyBegin x.cluster x.channel)
    ++ firstAt (s.running false) (fun _ => true) .copyRowLanded
    ++ firstAt (s.running true) s.mayReach .rcopySegment
    ++ firstAt (s.copies.filter fun x => x.waits.isEmpty && (x.err ≠ 0 || (x.row = x.start.t.count && s.tileIn x)))
        (fun _ => true) .copyComplete
    ++ firstAt s.units (fun m => m.tileDue false) (.tostreamTileEnter · false)
    ++ firstAt s.units (fun m => m.tileDue true) (.tostreamTileEnter · true)
    ++ firstAt s.units (fun m => match m.steps with | t :: _ => !t.begun && m.ready t | [] => false) .matrixStepBegin
    ++ firstAt s.units (fun m => match m.steps with | t :: _ => t.begun && m.ready t | [] => false) .matrixStepComplete

/-- Costs that come back: those of data that a hop has passed on, and where nothing of the slot is under way any more, room for
what the group at the head of its queue, or a remote copy's next segment, still lacks (17 R307, R308; when and how much is
DESIGN CHOICE, log 9). -/
def State.creditMoves (s : State) : List Instr :=
  let back := s.ctxs.flatMap fun c => c.credits.zipIdx.filterMap fun (hs, k) =>
    if (c.binding? k).isSome && s.jobCtx c.part = some c.no && c.st ≠ .saved && hs.any fun h => 0 < h.passed then
      some (Instr.allowanceReturn c.no k (((hs.find? fun h => 0 < h.passed).map (·.grant)).getD 0))
    else none
  let lack (ctx slot cost : Nat) : Option Instr :=
    match s.ctx? ctx with
    | some c =>
      if c.allowance slot < cost && (c.binding? slot).isSome && s.jobCtx c.part = some ctx && c.st ≠ .saved
          && ((c.credits.getD slot []).all fun h => h.owed = 0) then
        some (.allowanceReturn ctx slot cost)
      else none
    | none => none
  back
    ++ (s.groups.filterMap fun g => match g.st with
      | .parked (.allowance k cost) =>
        if (s.allowq.find? fun q => q.1 = k && q.2.ctx = g.id.ctx).map (·.2) = some g.id then lack g.id.ctx k cost else none
      | _ => none)
    ++ (s.running true).filterMap fun x => match x.start.remote with
      | some (k, _) => if s.mayReach x then none else lack x.start.ctx k ((min 65536 (x.start.t.rowb - x.sent) + 255) / 256)
      | none => none

/-- Steps of the fabric. -/
def State.fabricMoves (s : State) : List Instr :=
  firstAt s.fcopies s.mayMove (.switchCopy · none)
    ++ firstAt s.rounds (fun r => r.until_ ≤ s.now && !s.whole r) .roundTimeout
    ++ firstAt s.landings.zipIdx (fun (a, i) => a.waits.isEmpty && s.mayLand i a) (.remoteLanding · none)
    ++ firstAt s.acks (fun _ => true) (.ackArrival · none)
    ++ firstAt s.awaits s.overdue .acknowledgementTimeout

/-- All of them, in the model's order. -/
def State.dueMoves (s : State) : List Instr :=
  firstAt s.migrations (fun _ => true) .pageMigration ++ s.hostMoves ++ s.teamMoves ++ s.ctxMoves ++ s.loadMoves ++ s.coreMoves ++ s.memMoves ++ s.engineMoves ++ s.fabricMoves ++ s.creditMoves

/-! Fences (19 R347). -/

/-- The unit of a site. -/
def Site.unit : Site → W32
  | .core k => unitCode (k / Config.coresPerCluster) 1 (k % Config.coresPerCluster)
  | .cc c => unitCode c 2 0

/-- A unit of a kind is fenced, wherever it stands. -/
def State.kindFenced (s : State) (kind : Nat) : Bool := s.fences.any fun f => unitKind f.unit = kind

/-- The units at which a step of the device is aimed, apart from those that its own meaning waits for. DEDUCED, log 69. -/
def State.unitsOfMove (s : State) (i : Instr) : List W32 :=
  let site (id : GroupId) : List W32 := match s.group? id with | some g => [Site.unit g.site] | none => []
  let bte (x : Option Copy) : List W32 := match x with | some x => [unitCode x.start.cluster 6 0] | none => []
  let port (cl : Option Nat) : List W32 := cl.toList.map fun c => unitCode c 8 4
  let matrix (u : Nat) : List W32 := [unitCode (u / 32) 3 (u % 32)]
  let steal (x : Option Steal) : List W32 := match x with
    | some x => [unitCode x.asker 7 0, unitCode x.asked 7 0, unitCode x.asker 8 x.asked, unitCode x.asked 8 x.asker]
    | none => []
  let cell (o : Option Ordered) : List W32 := match o, o.bind s.cellHome with
    | some o, some (home, slice, _) =>
      unitCode home 4 slice :: (if home = o.cluster then [] else [unitCode o.cluster 8 home, unitCode home 8 o.cluster])
    | _, _ => []
  let ports (cs : List Nat) : List W32 := cs.map fun c => unitCode c 8 4
  match i with
  | .qrsStateLoad core => [Site.unit (.core core)]
  | .legIssue x _ => [Site.unit x]
  | .dmodeTimeshareSwitch core => [Site.unit (.core core)]
  | .teamAdmit cl => [unitCode cl 7 0]
  | .stealMessage n => steal ((s.steals.filter fun x => x.answer.isNone)[n]?)
  | .stealHandover n => steal ((s.steals.filter fun x => x.answer.isSome)[n]?)
  | .loadDataLands n => match (s.loads.filter fun l => l.kind.isMem)[n]? with | some l => site l.gid | none => []
  | .accdrRead n =>
    match (s.loads.filter fun l => l.kind.isAcc)[n]? with
    | some l => site l.gid ++ (match l.kind with | .acc u _ _ _ _ => matrix u | _ => [])
    | none => []
  | .groupRelease id => site id
  | .switchOutComplete ctx task => (s.groupsOf ctx task).map fun g => Site.unit g.site
  | .atomoArrival n => cell ((s.ordered.filter fun o => o.st = .sent)[n]?)
  | .atomoResend n => cell ((s.ordered.filter fun o => o.st = .refused)[n]?)
  | .emberLineEvict n => match s.ember[n]? with | some e => [unitCode e.cluster 4 (s.emberSlice e)] | none => []
  | .copyBegin cl _ => [unitCode cl 6 0]
  | .copyRowLanded n => bte ((s.running false)[n]?)
  | .rcopySegment n => bte ((s.running true)[n]?) ++ port (((s.running true)[n]?).map fun x => x.start.cluster)
  | .remoteResponse n r =>
    port ((r.or ((s.resps[n]?).map (·.2))).bind fun r => (s.loads.find? fun l => l.id = r.tag).map fun l => (s.siteOf l.gid).cluster)
  | .ackArrival n a =>
    port ((a.or ((s.acks[n]?).map (·.2))).bind fun a => (s.awaits.find? fun w => w.tag = a.tag).map (·.cluster))
  | .copyComplete n =>
    bte ((s.copies.filter fun x => x.waits.isEmpty && (x.err ≠ 0 || (x.row = x.start.t.count && s.tileIn x)))[n]?)
  | .tostreamTileEnter u _ => matrix u
  | .matrixStepBegin u => matrix u
  | .matrixStepComplete u => matrix u
  | .mrtail .. | .mrbase .. | .rqbase .. | .rqhead .. | .registerWrite .. => [unitCode 0 10 0]
  | .hostWriteToDeviceMemory addr bytes =>
    unitCode 0 10 0 :: ports ((List.range bytes.length).filterMap fun j => (stackOf (addr + j)).map (· / 2)).dedup
  | .launchMessage fn => ports (s.clusters fn)
  | .ctxstart fn => ports (s.clusters fn)
  | .preempt fn => ports (s.clusters fn)
  | .unpreempt fn => ports (s.clusters fn)
  | .restore fn => ports (s.clusters fn)
  | .fill fn => ports (s.clusters fn)
  | .ctxend fn => ports (s.clusters fn)
  | _ => []

/-- The context record that the message at the head of a function names cannot be read (19 R336, R347). -/
def State.recordFenced (s : State) (fn type : Nat) : Bool :=
  match s.headMsg fn type with | some m => s.bytesFenced m.addr.toNat ctxRecBytes | none => false

/-- A frame that a move of memory reads or writes is fenced, or the die link on its way, or the table or pool words that it goes by; or
the memory that the host writes or that a
message's record lies in. DEDUCED, log 69. -/
def State.moveFenced (s : State) (i : Instr) : Bool :=
  let leaf (ctx page : Nat) (k : Ctx → Leaf → Bool) : Bool := match s.ctx? ctx with
    | none => false
    | some c => s.walkWaits c page || match s.walk c page with | .ok l => k c l | .missing _ => false
  match i with
  | .pageMigration n =>
    (s.migrations[n]?).any fun m => leaf m.ctx m.page fun c l =>
      s.dieFenced l.home m.cluster
        || (!isLp l.frame && (s.frameFenced l.home l.frame || s.poolFenced c m.cluster (hbmPool (s.posOf m.cluster))))
  | .tierPageMove n =>
    ((s.tiers.filter fun t => !t.pages.isEmpty)[n]?).any fun t => t.pages.head?.any fun p => leaf t.ctx p fun c l =>
      l.kind ≠ 3 && isLp l.frame ≠ t.lp
        && (s.frameFenced l.home l.frame || s.poolFenced c l.home (if t.lp then lpPool else hbmPool (s.posOf l.home)))
  | .hostWriteToDeviceMemory addr bytes => (List.range (bytes.length / 65536 + 1)).any fun j =>
      s.bytesFenced (addr + 65536 * j) (min 65536 (bytes.length - 65536 * j))
  | .ctxstart fn => s.recordFenced fn 2
  | .restore fn => s.recordFenced fn 5
  | .emberLineEvict n => (s.ember[n]?).any s.evictWaits
  | .contextSave ctx => (s.ember.any fun e => e.ctx = ctx && s.evictWaits e)
    || (s.ctx? ctx).any fun c => s.vlines.any fun v =>
      v.ctx = ctx && (s.spillFree c).any fun e => s.frameFenced (s.homeOf ctx v.line).1 (c.verEntry e)
  | .switchOutComplete ctx task =>
    match s.team? ctx task, s.ctx? ctx with
    | some t, some c =>
      let n := imageFrames (s.scratchOf ctx t.serial) ((s.groupsOf ctx task).filter Group.isSaved)
      let pool := hbmPool (s.posOf (s.heldOn t))
      s.poolWordsFenced c pool n || (s.takeFrames c pool n).any fun x => x.1.any (s.frameFenced (s.heldOn t))
    | _, _ => false
  | _ => false

/-- The step uses the fabric links. -/
def usesLinks : Instr → Bool
  | .switchCopy .. | .remoteLanding .. | .ackArrival .. | .remoteResponse .. | .rcopySegment .. => true
  | _ => false

/-- A step of the device that is held by a fence. -/
def State.heldBack (s : State) (i : Instr) : Bool :=
  !s.fences.isEmpty && ((s.unitsOfMove i).any s.fenced || s.moveFenced i || (usesLinks i && s.kindFenced 9))

/-! The next move. -/

/-- What acts after a fatal error, and in the recovery state. -/
def State.acts (s : State) (i : Instr) : Bool :=
  if s.fatal then i = .deviceReset
  else if s.recovery then (match i with | .deviceReset | .newImageOrRecord _ _ => true | _ => false)
  else true

/-- A move is made: a slot issues, or the device makes a step; a move that cannot be made now leaves the state as it is.
An instruction word is executed only as a slot's move. -/
def State.act (s : State) : Move → State ⊕ Instr × State
  | .issue site slot =>
    if s.fatal || s.recovery || s.fenced (Site.unit site) then .inl s else s.slotMove site slot
  | .dev i => if i.shape.isSome || !s.acts i || s.heldBack i then .inl s else .inr (i, s)

/-- A slot that has a group, or can pick one. -/
def State.slotDue (s : State) (site : Site) (slot : Nat) : Bool :=
  !s.fenced (Site.unit site) && ((s.inSlot site slot).isSome || (slot < slotsOf site && (s.pick site slot).isSome))

/-- The slot that issues by default: the slots that have something to issue take turns, starting after the one that issued
last (DESIGN CHOICE, log 2). -/
def State.issuer (s : State) : Site × Nat :=
  let ks := ((s.groups.map fun g => g.site).dedup).flatMap fun x => [(x, 0), (x, 1)]
  let turns := (ks.dropWhile fun k => k ≠ s.focus).tail ++ ks.takeWhile (fun k => k ≠ s.focus) ++ [s.focus]
  (turns.find? fun k => s.slotDue k.1 k.2).getD s.focus

/-- The device's next step: the first that is due. While a unit is fenced some of those due may have to wait, and they take
turns with the issue slots (DESIGN CHOICE, log 2). -/
def State.turnMove (s : State) : Option Instr :=
  let due := s.dueMoves.filter fun i => !s.heldBack i
  if s.fences.isEmpty then due.head? else due[s.tick % (due.length + 1)]?

/-- The next move with what it leads to. -/
def State.nextMove (s : State) : State ⊕ Instr × State :=
  match s.agenda with
  | m :: rest => State.act { s with agenda := rest } m
  | [] =>
    if s.fatal || s.recovery then .inl s
    else match s.turnMove with
      | some i => s.act (.dev i)
      | none => let k := s.issuer; State.act { s with focus := k } (.issue k.1 k.2)

/-- Time passes, and no group's instruction is under way. -/
def State.tock (s : State) : State :=
  { s with now := s.now + 1 + Config.stepCycles s.tick, tick := s.tick + 1, cur := none }

/-- What ends a step: time passes; on a device that runs, what has been saved enters as there is room, cores that have emptied
are disabled, and the device's observations are brought up to date; waiting dependencies are tested on what the step has published
(03 R38; 13 R246), and L1 lines leave. -/
def State.finish (s : State) : State :=
  if s.fatal || s.recovery then s.tock else s.tock.enterSaved.closeCores.observe.testDeps.evictL1

/-! Placing an instruction (DESIGN CHOICE, log 5). -/

/-- Where the placed code stands: its virtual and intermediate address, its frame, and the tables that map it. -/
def codeVa : Nat := 0x10000
def codeFrame : Nat := 0x200000
def codeTables : Nat := 0x100000

/-- A signpost word (05 R83). -/
def signpost (len live : Nat) (flags : Nat) : W64 := BitVec.ofNat 64 (31 * 2 ^ 59 + len * 2 ^ 52 + live * 2 ^ 28 + flags * 2 ^ 16)

/-- The context of a placed instruction. -/
def placedCtx : Ctx :=
  { newCtx 1 0 with
    ptroot := codeTables
    ranges := [{ base := BitVec.ofNat 64 codeVa, limit := BitVec.ofNat 64 (codeVa + 65535), target := 0, attr := 0 }] }

/-- Its launch: one group of the largest window, with 4 KiB of scratchpad. -/
def placedLaunch (cc : Bool) : Launch :=
  { ctx := 1, serial := 1, depth := 1, parent := none, dep := .met, aborted := false, left := 1, step := 0, waits := []
    lrec :=
      { code := BitVec.ofNat 64 codeVa, params := 0, x := 1, y := 1, z := 1, groups := 1, regs := if cc then 0 else 512
        regmax := if cc then 0 else 512, prio := 0, dmode := false, control := cc, vectorOnly := false
        scratch := if cc then 0 else 4096, depms := 0, depphase := 0, ftv := 1, donems := 0, resolves := 0, handler := 0 } }

def placedTask : W64 := 0x100000000

/-- Its group, in issue slot 0 at the first word of the block. -/
def placedGroup (cc : Bool) (words now : Nat) : Group :=
  { newGroup (placedLaunch cc).lrec { ctx := 1, task := placedTask, grp := 0 } (if cc then .cc 0 else .core 0) now with
    st := .issuing 0, pc := BitVec.ofNat 64 (codeVa + 8), elig := true, started := true
    block := some { addr := BitVec.ofNat 64 codeVa, word := signpost words 0 4 } }

/-- The form of the bytes' instruction exists on control cores alone. -/
def ccForm (bytes : List Byte) : Bool :=
  match decodeBytes bytes with
  | some (i, _) => (match i.shape with | some sh => sh.on == .ccOnly | none => false)
  | none => false

/-- The words of the instruction that the bytes begin with. -/
def wordsOf (bytes : List Byte) : Nat := if namesLit (BitVec.ofNat 64 (leNat (bytes.take 8))) then 2 else 1

/-- Memory with the block, the RESUME signpost that follows it, and the tables that map it. -/
def State.placeCode (s : State) (bytes : List Byte) : State :=
  let words := wordsOf bytes
  let code := leBytes 8 (signpost words 0 4).toNat ++ bytes.take (8 * words) ++ leBytes 8 (signpost 1 128 8).toNat
  (((s.writeMem codeFrame code).writeMem codeTables (leBytes 8 (codeTables + 0x8000 + 1))).writeMem
    (codeTables + 0x8000) (leBytes 8 (codeTables + 0x10000 + 1))).writeMem
    (codeTables + 0x10000 + 8) (leBytes 8 (2 * 2 ^ 62 + codeFrame + 1))

/-- Its team. -/
def placedTeam (cc : Bool) : Team :=
  { newTeam 1 1 0 0 with st := .resident, share := if cc then none else some (0, 0) }

/-- The state with a block of one instruction that group 0 of team 0 of launch 1 of context 1 is about to issue: on the
control core of cluster 0 when the form exists there alone, else on core 0. -/
def State.placeWord (s : State) (nbits w : Nat) : State :=
  let bytes := leBytes 16 (w % 2 ^ nbits)
  let cc := ccForm bytes
  { s.placeCode bytes with
    agenda := [.issue (if cc then .cc 0 else .core 0) 0], fatal := false, recovery := false, fences := []
    ctxs := [placedCtx], launches := [placedLaunch cc], teams := [placedTeam cc]
    groups := [placedGroup cc (wordsOf bytes) s.now] }

end Sys2Proof.Machine
end

