-- ==== Sys2Proof/Machine/Dispatch.lean ====
section
/-! DEFINITION. The meaning of every instruction: one arm per constructor, each a call of one definition. -/

namespace Sys2Proof.Machine

/-- What an instruction, or a step of the device, does. -/
def exec (i : Instr) (s : State) : Host.Outcome State Fault Refusal :=
  match i with
  | .nop h => Sys2Proof.Machine.execNop h s
  | .bra h t => Sys2Proof.Machine.execBra h t s
  | .brg h t => Sys2Proof.Machine.execBrg h t s
  | .jmp h t => Sys2Proof.Machine.execJmp h t s
  | .call h d t => Sys2Proof.Machine.execCall h d t s
  | .ret h a => Sys2Proof.Machine.execRet h a s
  | .loop h d t => Sys2Proof.Machine.execLoop h d t s
  | .exit h => Sys2Proof.Machine.execExit h s
  | .exitG h => Sys2Proof.Machine.execExitG h s
  | .halt h => Sys2Proof.Machine.execHalt h s
  | .bar h n => Sys2Proof.Machine.execBar h n s
  | .yield h => Sys2Proof.Machine.execYield h s
  | .waitAny h c d m => Sys2Proof.Machine.execWaitAny h c d m s
  | .waitAll h c m => Sys2Proof.Machine.execWaitAll h c m s
  | .waitMs h a ph => Sys2Proof.Machine.execWaitMs h a ph s
  | .ffr h c d m => Sys2Proof.Machine.execFfr h c d m s
  | .trapSys h code => Sys2Proof.Machine.execTrapSys h code s
  | .trapBrk h code => Sys2Proof.Machine.execTrapBrk h code s
  | .trapretSame h => Sys2Proof.Machine.execTrapretSame h s
  | .trapretNext h => Sys2Proof.Machine.execTrapretNext h s
  | .abort h => Sys2Proof.Machine.execAbort h s
  | .bsa h lt slot thr t => Sys2Proof.Machine.execBsa h lt slot thr t s
  | .iadd h sat ty d a b => Sys2Proof.Machine.execIadd h sat ty d a b s
  | .isub h sat ty d a b => Sys2Proof.Machine.execIsub h sat ty d a b s
  | .imul h fn ty d a b => Sys2Proof.Machine.execImul h fn ty d a b s
  | .imad h ty d a b c => Sys2Proof.Machine.execImad h ty d a b c s
  | .idiv h rem ty d a b => Sys2Proof.Machine.execIdiv h rem ty d a b s
  | .imin h ty d a b => Sys2Proof.Machine.execImin h ty d a b s
  | .imax h ty d a b => Sys2Proof.Machine.execImax h ty d a b s
  | .iabs h ty d a => Sys2Proof.Machine.execIabs h ty d a s
  | .ineg h ty d a => Sys2Proof.Machine.execIneg h ty d a s
  | .and h ty d a b => Sys2Proof.Machine.execAnd h ty d a b s
  | .or h ty d a b => Sys2Proof.Machine.execOr h ty d a b s
  | .xor h ty d a b => Sys2Proof.Machine.execXor h ty d a b s
  | .andn h ty d a b => Sys2Proof.Machine.execAndn h ty d a b s
  | .orn h ty d a b => Sys2Proof.Machine.execOrn h ty d a b s
  | .not h ty d a => Sys2Proof.Machine.execNot h ty d a s
  | .shl h ty d a b => Sys2Proof.Machine.execShl h ty d a b s
  | .shr h ty d a b => Sys2Proof.Machine.execShr h ty d a b s
  | .sar h ty d a b => Sys2Proof.Machine.execSar h ty d a b s
  | .rol h ty d a b => Sys2Proof.Machine.execRol h ty d a b s
  | .popc h ty d a => Sys2Proof.Machine.execPopc h ty d a s
  | .clz h ty d a => Sys2Proof.Machine.execClz h ty d a s
  | .ctz h ty d a => Sys2Proof.Machine.execCtz h ty d a s
  | .brev h ty d a => Sys2Proof.Machine.execBrev h ty d a s
  | .bfx h ty d a b c => Sys2Proof.Machine.execBfx h ty d a b c s
  | .bfi h ty d a b c => Sys2Proof.Machine.execBfi h ty d a b c s
  | .sel h ty d a b c => Sys2Proof.Machine.execSel h ty d a b c s
  | .icmp h fn ty d a b => Sys2Proof.Machine.execIcmp h fn ty d a b s
  | .lea h ty d a b c => Sys2Proof.Machine.execLea h ty d a b c s
  | .mov h ty d a => Sys2Proof.Machine.execMov h ty d a s
  | .movl h ty d a b => Sys2Proof.Machine.execMovl h ty d a b s
  | .cvt h sat ty sty d a => Sys2Proof.Machine.execCvt h sat ty sty d a s
  | .pack h ty d a b c => Sys2Proof.Machine.execPack h ty d a b c s
  | .unpk h ty d a b => Sys2Proof.Machine.execUnpk h ty d a b s
  | .idot4 h sat ty d a b c => Sys2Proof.Machine.execIdot4 h sat ty d a b c s
  | .movsRead h r d => Sys2Proof.Machine.execMovsRead h r d s
  | .movsWrite h r a => Sys2Proof.Machine.execMovsWrite h r a s
  | .tagclrWrite h a => Sys2Proof.Machine.execTagclrWrite h a s
  | .pand h d a b => Sys2Proof.Machine.execPand h d a b s
  | .por h d a b => Sys2Proof.Machine.execPor h d a b s
  | .pxor h d a b => Sys2Proof.Machine.execPxor h d a b s
  | .pnot h d a => Sys2Proof.Machine.execPnot h d a s
  | .pmov h d a => Sys2Proof.Machine.execPmov h d a s
  | .vote h fn d a => Sys2Proof.Machine.execVote h fn d a s
  | .shfl h fn ty d a b c => Sys2Proof.Machine.execShfl h fn ty d a b c s
  | .permb h tbl d a b c => Sys2Proof.Machine.execPermb h tbl d a b c s
  | .lscan h fn excl ty d a => Sys2Proof.Machine.execLscan h fn excl ty d a s
  | .lred h fn ty d a => Sys2Proof.Machine.execLred h fn ty d a s
  | .lanexGet h ty d a b => Sys2Proof.Machine.execLanexGet h ty d a b s
  | .lanexPut h ty d a b => Sys2Proof.Machine.execLanexPut h ty d a b s
  | .fadd h rm sat ty d a b => Sys2Proof.Machine.execFadd h rm sat ty d a b s
  | .fsub h rm sat ty d a b => Sys2Proof.Machine.execFsub h rm sat ty d a b s
  | .fmul h rm sat ty d a b => Sys2Proof.Machine.execFmul h rm sat ty d a b s
  | .ffma h rm sat ty d a b c => Sys2Proof.Machine.execFfma h rm sat ty d a b c s
  | .fmin h ty d a b => Sys2Proof.Machine.execFmin h ty d a b s
  | .fmax h ty d a b => Sys2Proof.Machine.execFmax h ty d a b s
  | .fcmp h fn ty d a b => Sys2Proof.Machine.execFcmp h fn ty d a b s
  | .fclass h ty d a => Sys2Proof.Machine.execFclass h ty d a s
  | .frnd h rm ty d a => Sys2Proof.Machine.execFrnd h rm ty d a s
  | .fcvt h rm sat ty sty d a b => Sys2Proof.Machine.execFcvt h rm sat ty sty d a b s
  | .func h fn ty d a => Sys2Proof.Machine.execFunc h fn ty d a s
  | .hfma2 h rm sat ty d a b c => Sys2Proof.Machine.execHfma2 h rm sat ty d a b c s
  | .fdot4 h rm sat ty d a b c => Sys2Proof.Machine.execFdot4 h rm sat ty d a b c s
  | .fabs h ty d a => Sys2Proof.Machine.execFabs h ty d a s
  | .fneg h ty d a => Sys2Proof.Machine.execFneg h ty d a s
  | .fcopysign h ty d a b => Sys2Proof.Machine.execFcopysign h ty d a b s
  | .ld h ord sp ty d a b scope => Sys2Proof.Machine.execLd h ord sp ty d a b scope s
  | .st h ord sp ty d a b scope => Sys2Proof.Machine.execSt h ord sp ty d a b scope s
  | .atom h fn ord scope sp ty d a b => Sys2Proof.Machine.execAtom h fn ord scope sp ty d a b s
  | .atomo h fn ty a b c => Sys2Proof.Machine.execAtomo h fn ty a b c s
  | .fence h ord scope => Sys2Proof.Machine.execFence h ord scope s
  | .pref h llc a b => Sys2Proof.Machine.execPref h llc a b s
  | .cmaintInv h a b => Sys2Proof.Machine.execCmaintInv h a b s
  | .cmaintInvall h => Sys2Proof.Machine.execCmaintInvall h s
  | .tier h lp a b c => Sys2Proof.Machine.execTier h lp a b c s
  | .ersv h d a b => Sys2Proof.Machine.execErsv h d a b s
  | .erel h a => Sys2Proof.Machine.execErel h a s
  | .edisc h a b => Sys2Proof.Machine.execEdisc h a b s
  | .emig h a b c => Sys2Proof.Machine.execEmig h a b c s
  | .rmset h d a b c => Sys2Proof.Machine.execRmset h d a b c s
  | .rmsetGet h d a b => Sys2Proof.Machine.execRmsetGet h d a b s
  | .rmrefInc h d a b => Sys2Proof.Machine.execRmrefInc h d a b s
  | .rmrefDec h d a b => Sys2Proof.Machine.execRmrefDec h d a b s
  | .rmrefGet h d a b => Sys2Proof.Machine.execRmrefGet h d a b s
  | .rmrefSet h d a b c => Sys2Proof.Machine.execRmrefSet h d a b c s
  | .msinit h kind rearm chunk d a b c => Sys2Proof.Machine.execMsinit h kind rearm chunk d a b c s
  | .msarrArr h rel d a b scope => Sys2Proof.Machine.execMsarrArr h rel d a b scope s
  | .msarrExp h d a b => Sys2Proof.Machine.execMsarrExp h d a b s
  | .msbind h a b => Sys2Proof.Machine.execMsbind h a b s
  | .msbindUnbind h a => Sys2Proof.Machine.execMsbindUnbind h a s
  | .msqry h field acq d a => Sys2Proof.Machine.execMsqry h field acq d a s
  | .trig h a b c => Sys2Proof.Machine.execTrig h a b c s
  | .tdef h a b => Sys2Proof.Machine.execTdef h a b s
  | .tdefClr h b => Sys2Proof.Machine.execTdefClr h b s
  | .fres h a b => Sys2Proof.Machine.execFres h a b s
  | .freg h d a b => Sys2Proof.Machine.execFreg h d a b s
  | .rst h ty d a b => Sys2Proof.Machine.execRst h ty d a b s
  | .rred h fn ty d a b c => Sys2Proof.Machine.execRred h fn ty d a b c s
  | .ratom h fn ty d a b c => Sys2Proof.Machine.execRatom h fn ty d a b c s
  | .rld h ty d a b => Sys2Proof.Machine.execRld h ty d a b s
  | .rcopy h a b => Sys2Proof.Machine.execRcopy h a b s
  | .sabind h a b c => Sys2Proof.Machine.execSabind h a b c s
  | .sabindDst h a b => Sys2Proof.Machine.execSabindDst h a b s
  | .sabindClr h a => Sys2Proof.Machine.execSabindClr h a s
  | .pcnt h d a => Sys2Proof.Machine.execPcnt h d a s
  | .qld h a b c => Sys2Proof.Machine.execQld h a b c s
  | .qset h a => Sys2Proof.Machine.execQset h a s
  | .qrs h ty d a b => Sys2Proof.Machine.execQrs h ty d a b s
  | .mma h a b => Sys2Proof.Machine.execMma h a b s
  | .mmaNew h d a b => Sys2Proof.Machine.execMmaNew h d a b s
  | .mmas h a b c => Sys2Proof.Machine.execMmas h a b c s
  | .mmasNew h d a b c => Sys2Proof.Machine.execMmasNew h d a b c s
  | .accrel h a => Sys2Proof.Machine.execAccrel h a s
  | .accdr h ty d a b => Sys2Proof.Machine.execAccdr h ty d a b s
  | .cmpsVal h ty d a => Sys2Proof.Machine.execCmpsVal h ty d a s
  | .cmpsMeta h ty d a => Sys2Proof.Machine.execCmpsMeta h ty d a s
  | .cbdec h ty d a b => Sys2Proof.Machine.execCbdec h ty d a b s
  | .strmCnt h d a => Sys2Proof.Machine.execStrmCnt h d a s
  | .strmDrop h d a b => Sys2Proof.Machine.execStrmDrop h d a b s
  | .cbld h a => Sys2Proof.Machine.execCbld h a s
  | .launch h d a => Sys2Proof.Machine.execLaunch h d a s
  | .rgrow h a => Sys2Proof.Machine.execRgrow h a s
  | .rshrk h a => Sys2Proof.Machine.execRshrk h a s
  | .probe h a => Sys2Proof.Machine.execProbe h a s
  | .qrsStateLoad core => Sys2Proof.Machine.execQrsStateLoad core s
  | .accdrRead n => Sys2Proof.Machine.execAccdrRead n s
  | .legIssue site slot => Sys2Proof.Machine.execLegIssue site slot s
  | .dmodeTimeshareSwitch core => Sys2Proof.Machine.execDmodeTimeshareSwitch core s
  | .loadDataLands n => Sys2Proof.Machine.execLoadDataLands n s
  | .probeTimer gid => Sys2Proof.Machine.execProbeTimer gid s
  | .probeHop n => Sys2Proof.Machine.execProbeHop n s
  | .teamAdmit cluster => Sys2Proof.Machine.execTeamAdmit cluster s
  | .stealMessage n => Sys2Proof.Machine.execStealMessage n s
  | .stealHandover n => Sys2Proof.Machine.execStealHandover n s
  | .groupRelease gid => Sys2Proof.Machine.execGroupRelease gid s
  | .teamRetire ctx task => Sys2Proof.Machine.execTeamRetire ctx task s
  | .launchRetire ctx serial => Sys2Proof.Machine.execLaunchRetire ctx serial s
  | .abortDiscardDone ctx task => Sys2Proof.Machine.execAbortDiscardDone ctx task s
  | .switchOutComplete ctx task => Sys2Proof.Machine.execSwitchOutComplete ctx task s
  | .pageMigration n => Sys2Proof.Machine.execPageMigration n s
  | .tierPageMove n => Sys2Proof.Machine.execTierPageMove n s
  | .tierComplete n => Sys2Proof.Machine.execTierComplete n s
  | .emberLineEvict n => Sys2Proof.Machine.execEmberLineEvict n s
  | .atomoArrival n => Sys2Proof.Machine.execAtomoArrival n s
  | .atomoResend n => Sys2Proof.Machine.execAtomoResend n s
  | .startResend n => Sys2Proof.Machine.execStartResend n s
  | .copyBegin cluster channel => Sys2Proof.Machine.execCopyBegin cluster channel s
  | .copyComplete n => Sys2Proof.Machine.execCopyComplete n s
  | .tostreamTileEnter unit b => Sys2Proof.Machine.execTostreamTileEnter unit b s
  | .matrixStepBegin unit => Sys2Proof.Machine.execMatrixStepBegin unit s
  | .matrixStepComplete unit => Sys2Proof.Machine.execMatrixStepComplete unit s
  | .allowanceReturn ctx slot grant => Sys2Proof.Machine.execAllowanceReturn ctx slot grant s
  | .rcopySegment n => Sys2Proof.Machine.execRcopySegment n s
  | .switchCopy n fromPeer => Sys2Proof.Machine.execSwitchCopy n fromPeer s
  | .roundTimeout n => Sys2Proof.Machine.execRoundTimeout n s
  | .remoteLanding n fromPeer => Sys2Proof.Machine.execRemoteLanding n fromPeer s
  | .ackArrival n fromPeer => Sys2Proof.Machine.execAckArrival n fromPeer s
  | .remoteResponse n fromPeer => Sys2Proof.Machine.execRemoteResponse n fromPeer s
  | .remoteTimeout n => Sys2Proof.Machine.execRemoteTimeout n s
  | .laneSparing link lane => Sys2Proof.Machine.execLaneSparing link lane s
  | .peerRejoin link peer key => Sys2Proof.Machine.execPeerRejoin link peer key s
  | .preemptDeadline ctx => Sys2Proof.Machine.execPreemptDeadline ctx s
  | .contextSave ctx => Sys2Proof.Machine.execContextSave ctx s
  | .launchMessage fn => Sys2Proof.Machine.execLaunchMessage fn s
  | .ctxstart fn => Sys2Proof.Machine.execCtxstart fn s
  | .preempt fn => Sys2Proof.Machine.execPreempt fn s
  | .unpreempt fn => Sys2Proof.Machine.execUnpreempt fn s
  | .restore fn => Sys2Proof.Machine.execRestore fn s
  | .fill fn => Sys2Proof.Machine.execFill fn s
  | .setdump fn => Sys2Proof.Machine.execSetdump fn s
  | .ctxend fn => Sys2Proof.Machine.execCtxend fn s
  | .mrtail fn v => Sys2Proof.Machine.execMrtail fn v s
  | .mrbase fn v => Sys2Proof.Machine.execMrbase fn v s
  | .rqbase fn v => Sys2Proof.Machine.execRqbase fn v s
  | .rqhead fn v => Sys2Proof.Machine.execRqhead fn v s
  | .registerWrite fn off v => Sys2Proof.Machine.execRegisterWrite fn off v s
  | .deviceReset => Sys2Proof.Machine.execDeviceReset s
  | .softError place correctable unit => Sys2Proof.Machine.execSoftError place correctable unit s
  | .selfTestDone n passed spare => Sys2Proof.Machine.execSelfTestDone n passed spare s
  | .fatalError cause unit => Sys2Proof.Machine.execFatalError cause unit s
  | .powerSample watts nearPeak => Sys2Proof.Machine.execPowerSample watts nearPeak s
  | .powerAverage watts celsius => Sys2Proof.Machine.execPowerAverage watts celsius s
  | .telemetryRefresh sensors => Sys2Proof.Machine.execTelemetryRefresh sensors s
  | .acknowledgementTimeout n => Sys2Proof.Machine.execAcknowledgementTimeout n s
  | .copyRowLanded n => Sys2Proof.Machine.execCopyRowLanded n s
  | .hostWriteToDeviceMemory addr bytes => Sys2Proof.Machine.execHostWriteToDeviceMemory addr bytes s
  | .fabricManagerAssignment a => Sys2Proof.Machine.execFabricManagerAssignment a s
  | .newImageOrRecord image record => Sys2Proof.Machine.execNewImageOrRecord image record s
  | .marginSampling link corrected margin => Sys2Proof.Machine.execMarginSampling link corrected margin s

end Sys2Proof.Machine
end

