-- ==== Sys2Proof/Machine/Step.lean ====
section
/-! DEFINITION. One step of the machine. -/

namespace Sys2Proof.Machine

/-- One step: the next move is made, and the instruction that it leads to is executed. -/
def step (s : State) : Host.Outcome State Fault Refusal :=
  match s.nextMove with
  | .inl s1 => .next s1.finish
  | .inr (i, s1) =>
    match exec i s1 with
    | .next s2 => .next s2.finish
    | .fault f => .fault f
    | .refused r => .refused r

/-- The state in which the next step fetches and runs the instruction whose words are given (DESIGN CHOICE, log 5). -/
def State.withFetchWord (s : State) (nbits w : Nat) : State := s.placeWord nbits w

end Sys2Proof.Machine
end

