-- ==== Sys2Proof/Safety.lean ====
section
/-! DEFINITION. What counts as a safe run, and when an instruction goes on, in the terms in which the statements
speak. -/

namespace Sys2Proof

open Machine

/-- The destination, with the bits of its result, of an instruction that only computes: it neither traps nor waits beyond
the checks at issue, and its one result is its destination's (07 R106, R121 to R139; 09 R161 to R170; 15 R294, R298). -/
def Instr.computes : Instr → Option (Opd × Nat)
  | .iadd _ _ ty d _ _ | .isub _ _ ty d _ _ | .imad _ ty d _ _ _ | .idiv _ _ ty d _ _ | .imin _ ty d _ _ | .imax _ ty d _ _
  | .iabs _ ty d _ | .ineg _ ty d _ | .and _ ty d _ _ | .or _ ty d _ _ | .xor _ ty d _ _ | .andn _ ty d _ _
  | .orn _ ty d _ _ | .not _ ty d _ | .shl _ ty d _ _ | .shr _ ty d _ _ | .sar _ ty d _ _ | .rol _ ty d _ _
  | .popc _ ty d _ | .clz _ ty d _ | .ctz _ ty d _ | .brev _ ty d _ | .bfx _ ty d _ _ _ | .bfi _ ty d _ _ _
  | .sel _ ty d _ _ _ | .mov _ ty d _ | .movl _ ty d _ _ | .cvt _ _ ty _ d _ | .unpk _ ty d _ _ | .shfl _ _ ty d _ _ _
  | .lscan _ _ _ ty d _ | .lred _ _ ty d _ | .lanexGet _ ty d _ _ | .lanexPut _ ty d _ _ | .fadd _ _ _ ty d _ _
  | .fsub _ _ _ ty d _ _ | .fmul _ _ _ ty d _ _ | .ffma _ _ _ ty d _ _ _ | .fmin _ ty d _ _ | .fmax _ ty d _ _
  | .frnd _ _ ty d _ | .icmp _ _ ty d _ _ | .fcvt _ _ _ ty _ d _ _ | .fabs _ ty d _ | .fneg _ ty d _ | .fcopysign _ ty d _ _ => some (d, ty.bits)
  | .imul _ .wide ty d _ _ => some (d, 2 * ty.bits)
  | .imul _ _ ty d _ _ => some (d, ty.bits)
  | .pack _ _ d _ _ _ | .idot4 _ _ _ d _ _ _ | .vote _ _ d _ | .permb _ _ d _ _ _ | .fcmp _ _ _ d _ _
  | .fclass _ _ d _ | .hfma2 _ _ _ _ d _ _ _ | .fdot4 _ _ _ _ d _ _ _ | .cmpsVal _ _ d _ | .cmpsMeta _ _ d _
  | .cbdec _ _ d _ _ => some (d, 32)
  | .lea _ _ d _ _ _ => some (d, 64)
  | .movsRead _ r d => some (d, sregBits r)
  | .pand _ d _ _ | .por _ d _ _ | .pxor _ d _ _ | .pnot _ d _ | .pmov _ d _ => some (d, 1)
  | _ => none

end Sys2Proof

namespace Sys2Proof.Machine

/-- Every byte store of the state stands in its canonical form. -/
def State.memOk (s : State) : Bool := Memory.wf s.mem && Memory.wf s.scratch && Memory.wf s.hostMem

/-- The device has stopped after a fatal error, and no reset is to come (19 R349). -/
def State.dead (s : State) : Bool := s.fatal && !s.agenda.contains (.dev .deviceReset)

/-- The device is in the recovery state, and neither a reset nor a new image or record is to come (21 R359). -/
def State.recovering (s : State) : Bool :=
  s.recovery && !s.fatal && s.agenda.all fun m => match m with
    | .dev .deviceReset | .dev (.newImageOrRecord _ _) => false
    | _ => true

/-- The group's current instruction passes its guard and every check at issue (05 R82, R94), so that its own effect
follows. -/
def State.issues (s : State) (i : Instr) (g : Group) : Bool :=
  s.cur = some g.id && s.group? g.id = some g &&
    match i.shape with
    | none => false
    | some sh => (!sh.h.g || guardQ g sh.h) && s.ready g sh = .go

/-- The per-lane frame of 07 R106: each lane that executes has f of it as its result, of w bits, and the instruction
retires. -/
def State.gives (s : State) (g : Group) (h : Hdr) (d : Opd) (w : Nat) (signed : Bool) (f : Nat → Nat) : Out :=
  .next (s.retire (g.result h d w signed (forLanes (lanesOf g h) f)) h)

/-- The instruction retires with the group as given. -/
def State.goes (s : State) (g : Group) (h : Hdr) : Out := .next (s.retire g h)

/-- The instruction traps. -/
def State.traps (s : State) (g : Group) (h : Hdr) (t : Trap) : Out := .next (s.trap g h t)

/-- The milestone that a reference names can be reached at once (13 R244): its place. -/
def State.msAt (s : State) (g : Group) (r : W64) : Option Loc :=
  match s.mref g.id.ctx g.site.cluster r with
  | .trap _ => none
  | .miss _ => none
  | .ok l => if s.msWaits g l then none else some l

/-- The milestone at a place, when none of its bytes is uncorrectable. -/
def State.msThere (s : State) (l : Loc) : Option Ms := if s.locBad l 64 then none else s.ms? l

/-- A release at a scope has nothing to wait for (12 R239; 03 R51): the state after it. One that publishes nothing only
waits. -/
def State.released (s : State) (g : Group) (scope : Scope) (pub : Bool := true) : Option State :=
  let wide := pub && 2 ≤ scope.code
  let (s1, ms) := if wide then s.publish g.id.ctx g.id.task else (s, [])
  if ms.isEmpty && s1.relReady g.id scope && (!wide || s1.published g.id.ctx g.id.task) then some s1 else none

/-- The slot that an operand names is bound (17 R309): its context, its place in the job, its number and its binding. -/
def State.slotAt (s : State) (g : Group) (h : Hdr) (o : Opd) : Option (Ctx × Place5 × Nat × Binding) :=
  if 32 ≤ rd32 g h o then none
  else match s.ctx? g.id.ctx with
    | none => none
    | some c =>
      match c.binding? (rd32 g h o) with
      | none => none
      | some b => some (c, s.place c.part, rd32 g h o, b)

/-- The state after a cost is deducted from a slot's allowance (17 R308). -/
def State.charge (s : State) (g : Group) (c : Ctx) (k cost : Nat) : State :=
  (s.unq g.id).updCtx c.no fun c => c.deduct k cost

/-- The remap window that an operand names can be worked on (11 R227, R228): the state after the release that comes first,
the context and the window. -/
def State.windowAt (s : State) (g : Group) (h : Hdr) (w : Opd) : Option (State × Ctx × Remap) :=
  match s.ctx? g.id.ctx with
  | none => none
  | some c =>
    match s.rangeOf c (rd64 g h w).toNat with
    | none => none
    | some r =>
      if r.kind ≠ 1 then none
      else match s.released g .dev with
        | none => none
        | some s1 => match s1.remap c g.site.cluster r with | .ok d => some (s1, c, d) | _ => none

end Sys2Proof.Machine
end

