-- ==== Sys2Proof/Certificates/Slice0/Obligations.lean ====
section
/-! DEFINITION. The statements about the model. `s.issues i g` says that group g is the one whose instruction i is executed
and that its guard and every check at issue let it go on; `s.gives`, `s.goes` and `s.traps` name the ways in which it then
ends. -/

open Sys2Proof Sys2Proof.Machine

/-! Results of the instructions that only compute (07 R106, R121 to R139; 09 R161 to R173). -/

/-- 07 R121, R124, R125, R127: an integer instruction that issues retires with the value of its rule in every lane that
executes. -/
def Obligations.IntegerArithmeticResults : Prop :=
  ∀ (s : State) (g : Group) (h : Hdr) (sat : Bool) (ty sty : Ty) (d a b c : Opd),
    (s.issues (.iadd h sat ty d a b) g = true →
      exec (.iadd h sat ty d a b) s =
        s.gives g h d ty.bits ty.isSigned fun L => fit ty sat (rdI g h ty a L + rdI g h ty b L)) ∧
    (s.issues (.isub h sat ty d a b) g = true →
      exec (.isub h sat ty d a b) s =
        s.gives g h d ty.bits ty.isSigned fun L => fit ty sat (rdI g h ty a L - rdI g h ty b L)) ∧
    (s.issues (.imul h .lo ty d a b) g = true →
      exec (.imul h .lo ty d a b) s =
        s.gives g h d ty.bits ty.isSigned fun L => wrapN ty.bits (rdI g h ty a L * rdI g h ty b L)) ∧
    (s.issues (.imul h .hi ty d a b) g = true →
      exec (.imul h .hi ty d a b) s =
        s.gives g h d ty.bits ty.isSigned fun L =>
          wrapN ty.bits (rdI g h ty a L * rdI g h ty b L / (2 ^ ty.bits : Nat))) ∧
    (s.issues (.imul h .wide ty d a b) g = true →
      exec (.imul h .wide ty d a b) s =
        s.gives g h d (2 * ty.bits) ty.isSigned fun L => wrapN (2 * ty.bits) (rdI g h ty a L * rdI g h ty b L)) ∧
    (s.issues (.imad h ty d a b c) g = true →
      exec (.imad h ty d a b c) s =
        s.gives g h d ty.bits ty.isSigned fun L =>
          wrapN ty.bits (rdI g h ty a L * rdI g h ty b L + rdI g h ty c L)) ∧
    (s.issues (.idiv h false ty d a b) g = true →
      exec (.idiv h false ty d a b) s =
        s.gives g h d ty.bits ty.isSigned fun L =>
          wrapN ty.bits (if rdI g h ty b L = 0 then -1 else (rdI g h ty a L).tdiv (rdI g h ty b L))) ∧
    (s.issues (.idiv h true ty d a b) g = true →
      exec (.idiv h true ty d a b) s =
        s.gives g h d ty.bits ty.isSigned fun L =>
          wrapN ty.bits (if rdI g h ty b L = 0 then rdI g h ty a L else (rdI g h ty a L).tmod (rdI g h ty b L))) ∧
    (s.issues (.imin h ty d a b) g = true →
      exec (.imin h ty d a b) s =
        s.gives g h d ty.bits ty.isSigned fun L => wrapN ty.bits (min (rdI g h ty a L) (rdI g h ty b L))) ∧
    (s.issues (.imax h ty d a b) g = true →
      exec (.imax h ty d a b) s =
        s.gives g h d ty.bits ty.isSigned fun L => wrapN ty.bits (max (rdI g h ty a L) (rdI g h ty b L))) ∧
    (s.issues (.iabs h ty d a) g = true →
      exec (.iabs h ty d a) s =
        s.gives g h d ty.bits ty.isSigned fun L => wrapN ty.bits ((rdI g h ty a L).natAbs : Int)) ∧
    (s.issues (.ineg h ty d a) g = true →
      exec (.ineg h ty d a) s = s.gives g h d ty.bits ty.isSigned fun L => wrapN ty.bits (-(rdI g h ty a L))) ∧
    (s.issues (.movl h ty d a b) g = true →
      exec (.movl h ty d a b) s =
        s.gives g h d ty.bits ty.isSigned fun L => wrapN ty.bits (rdI g h ty a L + L * rdI g h ty b L)) ∧
    (s.issues (.cvt h sat ty sty d a) g = true →
      exec (.cvt h sat ty sty d a) s =
        s.gives g h d ty.bits ty.isSigned fun L => fit ty sat (rdI g h sty a L)) ∧
    (s.issues (.idot4 h sat ty d a b c) g = true →
      exec (.idot4 h sat ty d a b c) s =
        s.gives g h d 32 ty.isSigned fun L =>
          let x := rdN g h 32 a L
          let y := rdN g h 32 b L
          let t := toInt ty.isSigned 32 (rdN g h 32 c L) + byteI ty.isSigned x 0 * byteI ty.isSigned y 0
            + byteI ty.isSigned x 1 * byteI ty.isSigned y 1 + byteI ty.isSigned x 2 * byteI ty.isSigned y 2
            + byteI ty.isSigned x 3 * byteI ty.isSigned y 3
          wrapN 32 (if sat then clampI ty.isSigned 32 t else t))

/-- 07 R121, R122, R124, R126: logic, shifts, bit counts, fields, selection and packing. -/
def Obligations.BitResults : Prop :=
  ∀ (s : State) (g : Group) (h : Hdr) (fn : Cmp) (ty : Ty) (d a b c : Opd),
    (s.issues (.and h ty d a b) g = true →
      exec (.and h ty d a b) s =
        s.gives g h d ty.bits ty.isSigned fun L => Nat.land (rd g h ty a L) (rd g h ty b L)) ∧
    (s.issues (.or h ty d a b) g = true →
      exec (.or h ty d a b) s =
        s.gives g h d ty.bits ty.isSigned fun L => Nat.lor (rd g h ty a L) (rd g h ty b L)) ∧
    (s.issues (.xor h ty d a b) g = true →
      exec (.xor h ty d a b) s =
        s.gives g h d ty.bits ty.isSigned fun L => Nat.xor (rd g h ty a L) (rd g h ty b L)) ∧
    (s.issues (.andn h ty d a b) g = true →
      exec (.andn h ty d a b) s =
        s.gives g h d ty.bits ty.isSigned fun L => Nat.land (rd g h ty a L) (notN ty.bits (rd g h ty b L))) ∧
    (s.issues (.orn h ty d a b) g = true →
      exec (.orn h ty d a b) s =
        s.gives g h d ty.bits ty.isSigned fun L => Nat.lor (rd g h ty a L) (notN ty.bits (rd g h ty b L))) ∧
    (s.issues (.not h ty d a) g = true →
      exec (.not h ty d a) s = s.gives g h d ty.bits ty.isSigned fun L => notN ty.bits (rd g h ty a L)) ∧
    (s.issues (.shl h ty d a b) g = true →
      exec (.shl h ty d a b) s =
        s.gives g h d ty.bits ty.isSigned fun L =>
          if ty.bits ≤ rdN g h 32 b L then 0 else rd g h ty a L * 2 ^ rdN g h 32 b L % 2 ^ ty.bits) ∧
    (s.issues (.shr h ty d a b) g = true →
      exec (.shr h ty d a b) s =
        s.gives g h d ty.bits ty.isSigned fun L =>
          if ty.bits ≤ rdN g h 32 b L then 0 else rd g h ty a L / 2 ^ rdN g h 32 b L) ∧
    (s.issues (.sar h ty d a b) g = true →
      exec (.sar h ty d a b) s =
        s.gives g h d ty.bits ty.isSigned fun L => sarN ty.bits (rd g h ty a L) (rdN g h 32 b L)) ∧
    (s.issues (.rol h ty d a b) g = true →
      exec (.rol h ty d a b) s =
        s.gives g h d ty.bits ty.isSigned fun L => rolN ty.bits (rd g h ty a L) (rdN g h 32 b L)) ∧
    (s.issues (.popc h ty d a) g = true →
      exec (.popc h ty d a) s = s.gives g h d ty.bits false fun L => popN ty.bits (rd g h ty a L)) ∧
    (s.issues (.clz h ty d a) g = true →
      exec (.clz h ty d a) s = s.gives g h d ty.bits false fun L => clzN ty.bits (rd g h ty a L)) ∧
    (s.issues (.ctz h ty d a) g = true →
      exec (.ctz h ty d a) s = s.gives g h d ty.bits false fun L => ctzN ty.bits (rd g h ty a L)) ∧
    (s.issues (.brev h ty d a) g = true →
      exec (.brev h ty d a) s = s.gives g h d ty.bits ty.isSigned fun L => brevN ty.bits (rd g h ty a L)) ∧
    (s.issues (.bfx h ty d a b c) g = true →
      exec (.bfx h ty d a b c) s =
        s.gives g h d ty.bits ty.isSigned fun L =>
          bfxN ty.isSigned ty.bits (rd g h ty a L) (rdN g h 32 b L) (rdN g h 32 c L)) ∧
    (s.issues (.bfi h ty d a b c) g = true →
      exec (.bfi h ty d a b c) s =
        s.gives g h d ty.bits ty.isSigned fun L =>
          bfiN ty.bits (rd g h ty a L) (rd g h ty b L) (rdN g h 32 c L)) ∧
    (s.issues (.sel h ty d a b c) g = true →
      exec (.sel h ty d a b c) s =
        s.gives g h d ty.bits ty.isSigned fun L =>
          if rd g h ty c L = 0 then rd g h ty b L else rd g h ty a L) ∧
    (s.issues (.icmp h fn ty d a b) g = true →
      exec (.icmp h fn ty d a b) s =
        s.gives g h d ty.bits false fun L => (cmpHolds fn (rdI g h ty a L) (rdI g h ty b L)).toNat) ∧
    (s.issues (.lea h ty d a b c) g = true →
      exec (.lea h ty d a b c) s =
        s.gives g h d 64 false fun L =>
          wrapN 64 ((rdN g h 64 a L : Int) + toInt ty.isSigned 32 (rdN g h 32 b L) * (2 ^ leaK c : Nat))) ∧
    (s.issues (.mov h ty d a) g = true →
      exec (.mov h ty d a) s = s.gives g h d ty.bits ty.isSigned fun L => rd g h ty a L) ∧
    (s.issues (.pack h ty d a b c) g = true →
      exec (.pack h ty d a b c) s =
        s.gives g h d 32 false fun L =>
          packN ty (toInt ty.isSigned 32 (rdN g h 32 a L)) (toInt ty.isSigned 32 (rdN g h 32 b L)) (rdN g h 32 c L)) ∧
    (s.issues (.unpk h ty d a b) g = true →
      exec (.unpk h ty d a b) s =
        s.gives g h d ty.bits ty.isSigned fun L =>
          rdN g h 32 a L / 2 ^ (ty.bits * (rdN g h 32 b L % (32 / ty.bits))) % 2 ^ ty.bits)

/-- 07 R128 to R130: MOVS reads any special register into the lanes that execute, and writes %exm, %wft and %tagclr. -/
def Obligations.SpecialRegisterMoves : Prop :=
  ∀ (s : State) (g : Group) (h : Hdr) (r : SReg) (d a : Opd),
    (s.issues (.movsRead h r d) g = true →
      exec (.movsRead h r d) s = s.gives g h d (sregBits r) false fun L => s.sreg g r L) ∧
    (s.issues (.movsWrite h .exm a) g = true →
      exec (.movsWrite h .exm a) s =
        s.goes (match movsVal g h 32 a with | none => g | some x => { g with exm := BitVec.ofNat 32 x }) h) ∧
    (s.issues (.movsWrite h .wft a) g = true →
      exec (.movsWrite h .wft a) s =
        s.goes (match movsVal g h 32 a with | none => g | some x => { g with wft := BitVec.ofNat 32 x }) h) ∧
    (s.issues (.tagclrWrite h a) g = true →
      exec (.tagclrWrite h a) s =
        .next (match movsVal g h 64 a with
          | none => s.retire g h
          | some x => (s.retire g h).setTags g.site ((s.retire g h).tagsAt g.site &&& ~~~(BitVec.ofNat 64 x))))

/-- 07 R133, R134: predicate logic on bits, moves between predicates and g registers, and votes of the lanes that
execute. That a VOTE into g or q writes its result even when no lane executes is the model's choice (log 46). -/
def Obligations.PredicateResults : Prop :=
  ∀ (s : State) (g : Group) (h : Hdr) (fn : VoteFn) (d a b : Opd) (n : Fin 128) (m : Fin 7),
    (s.issues (.pand h d a b) g = true →
      exec (.pand h d a b) s = s.gives g h d 1 false fun L => rdN g h 1 a L * rdN g h 1 b L) ∧
    (s.issues (.por h d a b) g = true →
      exec (.por h d a b) s = s.gives g h d 1 false fun L => max (rdN g h 1 a L) (rdN g h 1 b L)) ∧
    (s.issues (.pxor h d a b) g = true →
      exec (.pxor h d a b) s = s.gives g h d 1 false fun L => (rdN g h 1 a L + rdN g h 1 b L) % 2) ∧
    (s.issues (.pnot h d a) g = true →
      exec (.pnot h d a) s = s.gives g h d 1 false fun L => 1 - rdN g h 1 a L) ∧
    (s.issues (.pmov h (.g n) (.p m)) g = true →
      exec (.pmov h (.g n) (.p m)) s =
        s.goes (if (lanesOf g h).isEmpty then g else g.putG n.val ((g.p.getD m.val 0).setWidth 64)) h) ∧
    (s.issues (.pmov h (.p m) (.g n)) g = true →
      exec (.pmov h (.p m) (.g n)) s =
        s.goes (g.write (.p m) 1 false (forLanes (lanesOf g h) fun L => ((g.gAt n.val).getLsbD L).toNat)) h) ∧
    (d.isG = false → a.isG = false → s.issues (.pmov h d a) g = true →
      exec (.pmov h d a) s = s.goes (g.write d 1 false (forLanes (lanesOf g h) fun L => rdN g h 1 a L)) h) ∧
    (s.issues (.vote h fn d a) g = true →
      exec (.vote h fn d a) s =
        let yes := (lanesOf g h).filter fun L => rdN g h 32 a L ≠ 0
        let r : Nat := match fn with
          | .any => if yes.isEmpty then 0 else 1
          | .all => if yes.length = (lanesOf g h).length then 1 else 0
          | .ballot => (maskOf yes).toNat
        match d with
        | .g k => s.goes (g.putG k.val (BitVec.ofNat 64 r)) h
        | .q k => s.goes (g.putQ k.val (r % 2 = 1)) h
        | d => s.gives g h d 32 false fun _ => r)

/-- 07 R135 to R139: cross-lane movement reads sources of every lane, active or not. -/
def Obligations.CrossLaneResults : Prop :=
  ∀ (s : State) (g : Group) (h : Hdr) (fn : FoldFn) (mode : ShflFn) (excl tbl : Bool) (ty : Ty) (d a b c : Opd),
    (s.issues (.shfl h mode ty d a b c) g = true →
      exec (.shfl h mode ty d a b c) s =
        s.gives g h d ty.bits false fun L =>
          let k := rdN g h 32 b L
          match mode with
          | .idx => rd g h ty a (k % 32)
          | .up => if k ≤ L then rd g h ty a (L - k) else rd g h ty c L
          | .down => if L + k ≤ 31 then rd g h ty a (L + k) else rd g h ty c L
          | .xor => rd g h ty a (Nat.xor L k % 32)) ∧
    (s.issues (.permb h tbl d a b c) g = true →
      exec (.permb h tbl d a b c) s =
        s.gives g h d 32 false fun L =>
          if tbl then permTbl (rdN g h 32 a L) (rdN g h 64 b L + 2 ^ 64 * rdN g h 64 c L)
          else permSel (rdN g h 32 a L + 2 ^ 32 * rdN g h 32 b L) (rdN g h 32 c L)) ∧
    (s.issues (.lscan h fn excl ty d a) g = true →
      exec (.lscan h fn excl ty d a) s =
        s.gives g h d ty.bits ty.isSigned fun L =>
          ((foldVals g h fn ty a).take (if excl then L else L + 1)).foldl (foldOp fn ty) (foldId fn ty)) ∧
    (s.issues (.lred h fn ty d a) g = true →
      exec (.lred h fn ty d a) s =
        s.gives g h d ty.bits ty.isSigned fun _ => foldTree (foldOp fn ty) (foldVals g h fn ty a)) ∧
    (s.issues (.lanexGet h ty d a b) g = true →
      exec (.lanexGet h ty d a b) s = s.gives g h d ty.bits false fun _ => rd g h ty a (rd32 g h b % 32)) ∧
    (s.issues (.lanexPut h ty d a b) g = true →
      exec (.lanexPut h ty d a b) s =
        s.goes (g.result h d ty.bits false
          (forLanes ((lanesOf g h).filter (· = rd32 g h b % 32)) fun _ => rd g h ty a 0)) h)

/-- 09 R158, R161 to R173: no float instruction traps or raises a flag; each lane that executes receives the value that its rule
gives, rounded once. FUNC gives its function's rounded value with version 1 of the table, and traps with FTVBAD under any other,
whatever lanes are active. -/
def Obligations.FloatResults : Prop :=
  (∀ (s : State) (g : Group) (h : Hdr) (rm : Rm) (sat : Bool) (fn : FCmp) (ty sty : Ty) (d a b c : Opd),
     (s.issues (.fadd h rm sat ty d a b) g = true →
       exec (.fadd h rm sat ty d a b) s =
         s.gives g h d ty.bits false fun L => (fmtOf ty).add rm sat (rd g h ty a L) (rd g h ty b L)) ∧
     (s.issues (.fsub h rm sat ty d a b) g = true →
       exec (.fsub h rm sat ty d a b) s =
         s.gives g h d ty.bits false fun L => (fmtOf ty).sub rm sat (rd g h ty a L) (rd g h ty b L)) ∧
     (s.issues (.fmul h rm sat ty d a b) g = true →
       exec (.fmul h rm sat ty d a b) s =
         s.gives g h d ty.bits false fun L => (fmtOf ty).mul rm sat (rd g h ty a L) (rd g h ty b L)) ∧
     (s.issues (.ffma h rm sat ty d a b c) g = true →
       exec (.ffma h rm sat ty d a b c) s =
         s.gives g h d ty.bits false fun L =>
           (fmtOf ty).fma rm sat (rd g h ty a L) (rd g h ty b L) (rd g h ty c L)) ∧
     (s.issues (.fmin h ty d a b) g = true →
       exec (.fmin h ty d a b) s =
         s.gives g h d ty.bits false fun L => (fmtOf ty).minmax false (rd g h ty a L) (rd g h ty b L)) ∧
     (s.issues (.fmax h ty d a b) g = true →
       exec (.fmax h ty d a b) s =
         s.gives g h d ty.bits false fun L => (fmtOf ty).minmax true (rd g h ty a L) (rd g h ty b L)) ∧
     (s.issues (.fcmp h fn ty d a b) g = true →
       exec (.fcmp h fn ty d a b) s =
         s.gives g h d 32 false fun L =>
           (fcmpHolds fn ((fmtOf ty).val (rd g h ty a L)) ((fmtOf ty).val (rd g h ty b L))).toNat) ∧
     (s.issues (.fclass h ty d a) g = true →
       exec (.fclass h ty d a) s = s.gives g h d 32 false fun L => classOf (fmtOf ty) (rd g h ty a L)) ∧
     (s.issues (.frnd h rm ty d a) g = true →
       exec (.frnd h rm ty d a) s = s.gives g h d ty.bits false fun L => frndN (fmtOf ty) rm (rd g h ty a L)) ∧
     (s.issues (.fcvt h rm sat ty sty d a b) g = true →
       exec (.fcvt h rm sat ty sty d a b) s =
         s.gives g h d ty.bits ty.isSigned fun L => cvtF rm sat ty sty (rdN g h 32 b L % 65536) (rd g h sty a L)) ∧
     (s.issues (.hfma2 h rm sat ty d a b c) g = true →
       exec (.hfma2 h rm sat ty d a b c) s =
         s.gives g h d 32 false fun L =>
           let x := rdPack g h ty a L
           let y := rdPack g h ty b L
           let z := rdPack g h ty c L
           (fmtOf ty).fma rm sat (elemN 16 x 0) (elemN 16 y 0) (elemN 16 z 0)
             + 2 ^ 16 * (fmtOf ty).fma rm sat (elemN 16 x 1) (elemN 16 y 1) (elemN 16 z 1)) ∧
     (s.issues (.fdot4 h rm sat ty d a b c) g = true →
       exec (.fdot4 h rm sat ty d a b c) s =
         s.gives g h d 32 false fun L =>
           let p (i : Nat) : FVal := ((fmtOf ty).val (elemN 8 (rdPack g h ty a L) i)).mul
             ((fmtOf ty).val (elemN 8 (rdPack g h ty b L) i))
           (fmtOf .f32).ofVal rm sat 0 (sumVals rm [p 0, p 1, p 2, p 3, (fmtOf .f32).val (rd g h .f32 c L)])) ∧
     (s.issues (.fabs h ty d a) g = true →
       exec (.fabs h ty d a) s = s.gives g h d ty.bits false fun L => rd g h ty a L % (fmtOf ty).sign) ∧
     (s.issues (.fneg h ty d a) g = true →
       exec (.fneg h ty d a) s = s.gives g h d ty.bits false fun L => Nat.xor (rd g h ty a L) (fmtOf ty).sign) ∧
     (s.issues (.fcopysign h ty d a b) g = true →
       exec (.fcopysign h ty d a b) s =
         s.gives g h d ty.bits false fun L =>
           rd g h ty a L % (fmtOf ty).sign + rd g h ty b L / (fmtOf ty).sign % 2 * (fmtOf ty).sign)) ∧
  ∀ (s : State) (g : Group) (h : Hdr) (fn : FuncFn) (ty : Ty) (d a : Opd), s.issues (.func h fn ty d a) g = true →
    (g.ftv = 1 →
      exec (.func h fn ty d a) s = s.gives g h d ty.bits false fun L => funcN fn (fmtOf ty) (rd g h ty a L)) ∧
    (g.ftv ≠ 1 → exec (.func h fn ty d a) s = s.traps g h { cause := .ftvbad })

/-! Control (07 R107 to R120; 05 R84 to R91). -/

/-- 07 R107 to R110; 17 R312: NOP retires; a transfer whose target holds the signpost that it asks for is taken; one that is
not taken falls through. -/
def Obligations.TransfersAreTaken : Prop :=
  ∀ (s : State) (g : Group) (h : Hdr) (n : Fin 128) (lt : Bool) (t slot thr : Opd) (w : W64),
    let taken (a : W64) (g1 : Group) : Out :=
      .next (s.setGroup ((s.arrive { g1 with ric := g1.ric + 1 } a w).endLeg s.now))
    (s.issues (.nop h) g = true → exec (.nop h) s = s.goes g h) ∧
    (s.issues (.bra h t) g = true → maskOf (lanesOf g h) = 0 → exec (.bra h t) s = s.goes g h) ∧
    (s.issues (.bra h t) g = true → maskOf (lanesOf g h) = g.exm → g.exm ≠ 0 →
      s.target g.id (targetOf g h t) = .ok w → exec (.bra h t) s = taken (targetOf g h t) g) ∧
    (s.issues (.brg h t) g = true → s.target g.id (targetOf g h t) = .ok w →
      exec (.brg h t) s = taken (targetOf g h t) g) ∧
    (s.issues (.jmp h t) g = true → s.target g.id (targetOf g h t) = .ok w →
      exec (.jmp h t) s = taken (targetOf g h t) g) ∧
    (s.issues (.ret h t) g = true → s.target g.id (targetOf g h t) = .ok w →
      exec (.ret h t) s = taken (targetOf g h t) g) ∧
    (s.issues (.call h (.g n) t) g = true → s.target g.id (targetOf g h t) = .ok w → spEntry w = true →
      exec (.call h (.g n) t) s = taken (targetOf g h t) (g.putG n.val (nextOf g h))) ∧
    (s.issues (.loop h (.g n) t) g = true → rd64 g h (.g n) = 1 →
      exec (.loop h (.g n) t) s = s.goes (g.putG n.val 0) h) ∧
    (s.issues (.loop h (.g n) t) g = true → rd64 g h (.g n) ≠ 1 → s.target g.id (targetOf g h t) = .ok w →
      spLoop w = true →
      exec (.loop h (.g n) t) s = taken (targetOf g h t) (g.putG n.val (rd64 g h (.g n) - 1))) ∧
    (∀ c, s.issues (.bsa h lt slot thr t) g = true → s.ctx? g.id.ctx = some c → rd32 g h slot < 32 →
      (decide (c.allowance (rd32 g h slot) < rd32 g h thr)) = !lt →
      exec (.bsa h lt slot thr t) s = s.goes g h) ∧
    (∀ c, s.issues (.bsa h lt slot thr t) g = true → s.ctx? g.id.ctx = some c → rd32 g h slot < 32 →
      (decide (c.allowance (rd32 g h slot) < rd32 g h thr)) = lt →
      s.target g.id (g.at_ + 8 * rd64 g h t) = .ok w →
      exec (.bsa h lt slot thr t) s = taken (g.at_ + 8 * rd64 g h t) g)

/-- 05 R84, R86, R89; 07 R107; 17 R312: a taken transfer, a divergent BRA's and a BSA's among them, to a word that is not a
well-formed signpost at an address divisible by 8, a CALL to a signpost without ENTRY and a LOOP to one without LOOPHEAD trap with BRT,
the group as it was. -/
def Obligations.BadTargetsTrap : Prop :=
  ∀ (s : State) (g : Group) (h : Hdr) (n : Fin 128) (t : Opd) (w : W64),
    (∀ b x, s.issues (.bra h t) g = true → g.block = some b → maskOf (lanesOf g h) ≠ 0 → maskOf (lanesOf g h) ≠ g.exm →
      spReconv b.word ≠ 0 → s.target g.id (b.addr + spReconv b.word) = .ok x → spRcv x = true →
      s.target g.id (targetOf g h t) = .bad → exec (.bra h t) s = s.traps g h { cause := .brt }) ∧
    (∀ c lt slot thr, s.issues (.bsa h lt slot thr t) g = true → s.ctx? g.id.ctx = some c → rd32 g h slot < 32 →
      (decide (c.allowance (rd32 g h slot) < rd32 g h thr)) = lt → s.target g.id (g.at_ + 8 * rd64 g h t) = .bad →
      exec (.bsa h lt slot thr t) s = s.traps g h { cause := .brt }) ∧
    (s.target g.id (targetOf g h t) = .bad →
      (s.issues (.bra h t) g = true → maskOf (lanesOf g h) = g.exm → g.exm ≠ 0 →
        exec (.bra h t) s = s.traps g h { cause := .brt }) ∧
      (s.issues (.brg h t) g = true → exec (.brg h t) s = s.traps g h { cause := .brt }) ∧
      (s.issues (.jmp h t) g = true → exec (.jmp h t) s = s.traps g h { cause := .brt }) ∧
      (s.issues (.ret h t) g = true → exec (.ret h t) s = s.traps g h { cause := .brt }) ∧
      (s.issues (.call h (.g n) t) g = true → exec (.call h (.g n) t) s = s.traps g h { cause := .brt }) ∧
      (s.issues (.loop h (.g n) t) g = true → rd64 g h (.g n) ≠ 1 →
        exec (.loop h (.g n) t) s = s.traps g h { cause := .brt })) ∧
    (s.target g.id (targetOf g h t) = .ok w →
      (s.issues (.call h (.g n) t) g = true → spEntry w = false →
        exec (.call h (.g n) t) s = s.traps g h { cause := .brt }) ∧
      (s.issues (.loop h (.g n) t) g = true → rd64 g h (.g n) ≠ 1 → spLoop w = false →
        exec (.loop h (.g n) t) s = s.traps g h { cause := .brt })) ∧
    (∀ a : W64, a.toNat % 8 ≠ 0 → s.target g.id a = .bad) ∧
    (∀ (a : W64) (bs : List Byte), s.codeWord g.id a = .ok bs → spOk (wordOf bs) = false → s.target g.id a = .bad) ∧
    (∀ (a : W64) (bs : List Byte), a.toNat % 8 = 0 → s.codeWord g.id a = .ok bs → spOk (wordOf bs) = true →
      s.target g.id a = .ok (wordOf bs))

/-- 05 R89: a divergent BRA traps with BRT without a reconvergence signpost; else, with room in the hardware stack, it pushes the
reconvergence entry and then the path entry, %exm becomes the taken lanes, and it goes to its target. -/
def Obligations.DivergentBranchPushes : Prop :=
  ∀ (s : State) (g : Group) (h : Hdr) (t : Opd) (b : Block), s.issues (.bra h t) g = true → g.block = some b →
    maskOf (lanesOf g h) ≠ 0 → maskOf (lanesOf g h) ≠ g.exm →
    (spReconv b.word = 0 → exec (.bra h t) s = s.traps g h { cause := .brt }) ∧
    (spReconv b.word ≠ 0 → s.target g.id (b.addr + spReconv b.word) = .bad →
      exec (.bra h t) s = s.traps g h { cause := .brt }) ∧
    (∀ x, spReconv b.word ≠ 0 → s.target g.id (b.addr + spReconv b.word) = .ok x → spRcv x = false →
      exec (.bra h t) s = s.traps g h { cause := .brt }) ∧
    (∀ x w, spReconv b.word ≠ 0 → s.target g.id (b.addr + spReconv b.word) = .ok x → spRcv x = true →
      s.target g.id (targetOf g h t) = .ok w → g.stack.length ≤ 30 →
      exec (.bra h t) s =
        .next (s.setGroup ((s.arrive
          { g with
            stack :=
              { addr := nextOf g h, mask := g.exm &&& ~~~(maskOf (lanesOf g h)), path := true }
                :: { addr := b.addr + spReconv b.word, mask := g.exm, path := false } :: g.stack
            exm := maskOf (lanesOf g h), ric := g.ric + 1 } (targetOf g h t) w).endLeg s.now)))

/-- 05 R90: what an arrival at a signpost does to the stack and to %exm, in each of the three cases, with entries that have not been
spilled. -/
def Obligations.ArrivalsReconverge : Prop :=
  ∀ (s : State) (g : Group) (a w : W64) (e e2 : RcEntry) (rest : List RcEntry),
    (spRcv w = false → s.arrive g a w = { g with pc := a + 8, block := some { addr := a, word := w } }) ∧
    (spRcv w = true → g.stack = e :: e2 :: rest → e.path = true → e2.addr = a → g.spill ≤ g.spillBase →
      s.arrive g a w = { g with stack := e2 :: rest, exm := e.mask, pc := e.addr, block := none }) ∧
    (spRcv w = true → g.stack = e :: rest → e.path = false → e.addr = a → g.spill ≤ g.spillBase →
      s.arrive g a w = { g with stack := rest, exm := e.mask, pc := a + 8, block := some { addr := a, word := w } }) ∧
    (spRcv w = true → g.stack = [] → s.arrive g a w = { g with pc := a + 8, block := some { addr := a, word := w } }) ∧
    (spRcv w = true → g.stack = e :: rest → e.path = false → e.addr ≠ a →
      s.arrive g a w = { g with pc := a + 8, block := some { addr := a, word := w } }) ∧
    (spRcv w = true → g.stack = e :: e2 :: rest → e.path = true → e2.addr ≠ a →
      s.arrive g a w = { g with pc := a + 8, block := some { addr := a, word := w } })

/-- 07 R111, R112: EXIT takes the active lanes out of %exm and of every stack entry, and goes on when lanes remain; where none do, it
pops entries that have not been spilled until one has lanes left, and the group goes on at that entry's address with its mask; a group
without lanes and such entries has exited, as EXIT.g ends it at once; HALT ends it once its matrix steps have finished, and waits
before. -/
def Obligations.ExitsEndGroups : Prop :=
  ∀ (s : State) (g : Group) (h : Hdr),
    let keep := ~~~(maskOf (lanesOf g h))
    let g1 : Group := { g with exm := g.exm &&& keep, stack := g.stack.map fun e => { e with mask := e.mask &&& keep } }
    (s.issues (.exit h) g = true → g.exm &&& keep ≠ 0 → exec (.exit h) s = (s.maskSpill g keep).goes g1 h) ∧
    (s.issues (.exit h) g = true → g.exm &&& keep = 0 → g.stack = [] →
      exec (.exit h) s = .next ((s.maskSpill g keep).exitGroup g1)) ∧
    (∀ (dead rest : List RcEntry) (e : RcEntry), s.issues (.exit h) g = true → g.exm &&& keep = 0 → g.stack = dead ++ e :: rest → g.spill ≤ g.spillBase →
      (∀ x ∈ dead, x.mask &&& keep = 0) → e.mask &&& keep ≠ 0 →
      exec (.exit h) s =
        let left : List RcEntry := rest.map fun x => { x with mask := x.mask &&& keep }
        .next (s.setGroup
          ({ g with
            exm := e.mask &&& keep, stack := left, pc := e.addr, block := none, ric := g.ric + 1 }.endLeg s.now))) ∧
    (s.issues (.exit h) g = true → g.exm &&& keep = 0 → g.spill ≤ g.spillBase → (∀ x ∈ g.stack, x.mask &&& keep = 0) →
      exec (.exit h) s = .next (s.exitGroup { g with exm := 0 })) ∧
    (s.issues (.exitG h) g = true → exec (.exitG h) s = .next (s.exitGroup g)) ∧
    (s.issues (.halt h) g = true → s.stepsOf g.id = false → exec (.halt h) s = .next (s.exitGroup g)) ∧
    (s.issues (.halt h) g = true → s.stepsOf g.id = true → exec (.halt h) s = .next s)

/-- 07 R113 to R117; 13 R251, R254: the waits complete at once when their condition holds, a wait on a bound tag writes the lowest tag
and clears what its form says, and a reached milestone lets the group acquire; a mask of 0 completes at once, and .any then writes 64. A
wait whose condition does not hold traps with MSERR at the lowest tag of its mask, or the milestone, that has an error, and else parks;
a milestone that is not aligned traps with ALIGN. A BAR arrives and parks once the group's accesses are performed (which these are is the
model's reading, log 4), and waits before; a YIELD falls through without a request and saves the group under one. -/
def Obligations.WaitsComplete : Prop :=
  ∀ (s : State) (g : Group) (h : Hdr) (c : Bool) (d a m : Opd),
    let tags := s.tagsAt g.site
    let mask := rd64 g h m
    let parks (w : Park) : Out := .next (s.park g h w)
    (s.issues (.waitAny h c d m) g = true →
      (mask = 0 → exec (.waitAny h c d m) s = .next (((s.setTags g.site tags).retire (putDest g d 64) h).acquire g.site .job)) ∧
      (tags &&& mask ≠ 0 →
        exec (.waitAny h c d m) s =
          .next (((s.setTags g.site (if c then tags &&& ~~~(bit64 (lowBit (tags &&& mask))) else tags)).retire
            (putDest g d (BitVec.ofNat 64 (lowBit (tags &&& mask)))) h).acquire g.site .job)) ∧
      (mask ≠ 0 → tags &&& mask = 0 →
        (s.tagErr g.site mask = none → exec (.waitAny h c d m) s = parks (.waitAny mask c d)) ∧
        (∀ r, s.tagErr g.site mask = some r → exec (.waitAny h c d m) s = s.traps g h { cause := .mserr, info := r }))) ∧
    (s.issues (.waitAll h c m) g = true →
      (tags &&& mask = mask →
        exec (.waitAll h c m) s =
          .next (((s.setTags g.site (if c then tags &&& ~~~mask else tags)).retire g h).acquire g.site .job)) ∧
      (tags &&& mask ≠ mask →
        (s.tagErr g.site mask = none → exec (.waitAll h c m) s = parks (.waitAll mask c)) ∧
        (∀ r, s.tagErr g.site mask = some r → exec (.waitAll h c m) s = s.traps g h { cause := .mserr, info := r }))) ∧
    (∀ (n : Nat) (t : TagRef) (x : Ms), n < 64 → mask.getLsbD n = true → s.tagRef g.site n = some t →
      s.msOf t.gid.ctx g.site.cluster t.ref = some x → x.err ≠ 0 →
      (∀ j < n, mask.getLsbD j = true → ∀ u y, s.tagRef g.site j = some u →
        s.msOf u.gid.ctx g.site.cluster u.ref = some y → y.err = 0) →
      s.tagErr g.site mask = some t.ref) ∧
    (∀ l x, s.issues (.waitMs h a m) g = true → s.msAt g (rd64 g h a) = some l → s.msThere l = some x →
      (x.err = 0 → reached x.phase (rdN g h 16 m 0) = true →
        exec (.waitMs h a m) s = .next (((s.askMs g l).retire g h).acquire g.site .job)) ∧
      (x.err = 0 → reached x.phase (rdN g h 16 m 0) = false →
        exec (.waitMs h a m) s = .next ((s.askMs g l).park g h (.waitMs (rd64 g h a) (rdN g h 16 m 0)))) ∧
      (x.err ≠ 0 → exec (.waitMs h a m) s = (s.askMs g l).traps g h { cause := .mserr, info := rd64 g h a })) ∧
    (s.issues (.waitMs h a m) g = true → (rd64 g h a).toNat % 64 ≠ 0 →
      exec (.waitMs h a m) s = s.traps g h { cause := .align, info := rd64 g h a }) ∧
    (∀ x w, s.ctx? g.id.ctx = some x → x.prq = false → s.growq = [] →
      s.park g h w = s.setGroup
        { g with
          st := .parked w, since := s.now, probeAt := s.now + g.wft.toNat, seq := s.tick, ilen := h.len, ie := h.e }) ∧
    (s.issues (.bar h m) g = true → s.readsDue g.id = true → exec (.bar h m) s = .next s) ∧
    (s.issues (.bar h m) g = true → s.readsDue g.id = false →
      exec (.bar h m) s =
        .next (((((s.setGroup
          { g with
            st := .parked (.bar (rd32 g h m)), since := s.now, probeAt := s.now + g.wft.toNat, seq := s.tick
            ilen := h.len, ie := h.e }).releaseBar g.id.ctx g.id.task (rd32 g h m)).trySave g.id).settleRegs g.site))) ∧
    (∀ x, s.issues (.yield h) g = true → s.ctx? g.id.ctx = some x → x.prq = false ∨ g.tmask = true →
      exec (.yield h) s = s.goes g h) ∧
    (∀ x w, s.issues (.yield h) g = true → s.ctx? g.id.ctx = some x → x.prq = true → g.tmask = false →
      s.quiet g.id = true → s.codeWord g.id (nextOf g h) = .ok w →
      exec (.yield h) s =
        .next ((s.setGroup ((g.retire h.len true s.now).keepLive (spLive (wordOf w))).save).settleRegs g.site))

/-- 07 R117: FFR gives the number of the lowest set bit of %tags AND mask, or 64 when there is none; .c clears that tag; it never
parks. -/
def Obligations.FindFirstReadyTag : Prop :=
  ∀ (s : State) (g : Group) (h : Hdr) (c : Bool) (r : Fin 128) (m : Opd), s.issues (.ffr h c (.g r) m) g = true →
    let v := s.tagsAt g.site &&& rd64 g h m
    (v = 0 → exec (.ffr h c (.g r) m) s = s.goes (g.putG r.val 64) h) ∧
    (∀ n : Nat, n < 64 → v.getLsbD n = true → (∀ k < n, v.getLsbD k = false) →
      exec (.ffr h c (.g r) m) s =
        .next ((((if c then s.setTags g.site (s.tagsAt g.site &&& ~~~(bit64 n)) else s).retire
          (g.putG r.val (BitVec.ofNat 64 n)) h)).acquire g.site .job))

/-- 07 R118: TRAP.sys and TRAP.brk, with their causes, %tinfo and %tlane; a per-lane form without an active lane does nothing. -/
def Obligations.SoftwareTraps : Prop :=
  ∀ (s : State) (g : Group) (h : Hdr) (code : Opd),
    Cause.sys.code = 0x11 ∧ Cause.brk.code = 0x12 ∧
    (s.issues (.trapSys h code) g = true → lanesOf g h = [] → exec (.trapSys h code) s = s.goes g h) ∧
    (s.issues (.trapBrk h code) g = true → lanesOf g h = [] → exec (.trapBrk h code) s = s.goes g h) ∧
    (∀ L ls, s.issues (.trapSys h code) g = true → lanesOf g h = L :: ls →
      exec (.trapSys h code) s =
        s.traps g h { cause := .sys, info := BitVec.ofNat 64 (rdN g h 64 code L)
                      lanes := if h.g then 0 else maskOf (lanesOf g h) }) ∧
    (∀ L ls, s.issues (.trapBrk h code) g = true → lanesOf g h = L :: ls →
      exec (.trapBrk h code) s =
        s.traps g h { cause := .brk, info := BitVec.ofNat 64 (rdN g h 64 code L)
                      lanes := if h.g then 0 else maskOf (lanesOf g h) }) ∧
    (h.g = true → lanesOf g h = [0])

/-- 19 R331: with %tmask 0 and a handler whose signpost is a well-formed ENTRY, a trap at issue saves %exm, the stack, both
leg-local files, the place in the leg and the block; sets %tcause, %tpc, %tinfo, %tlane and %tmask; gives the handler all lanes, an
empty stack and empty files; and the handler goes on after its signpost. Traps raised after issue that still wait are kept with it
(the model's reading, log 33), and so are the uncorrectable marks of the files (log 34). -/
def Obligations.TrapEntersHandler : Prop :=
  ∀ (s : State) (g : Group) (h : Hdr) (t : Trap) (l : Launch) (w : W64), g.tmask = false → g.reissue = [] →
    s.launchOf g.id = some l → l.lrec.handler ≠ 0 → s.target g.id l.lrec.handler = .ok w → spEntry w = true →
    t.cause ≠ .deadlock →
    s.trap g h t =
      s.setGroup
        { g with
          tcause := t.cause, tpc := g.pc, tinfo := t.info, tlane := t.lanes, tmask := true
          tsave := some
            { exm := g.exm, stack := g.stack, spill := g.spill, o := g.o, l := g.l, legPos := g.legPos, block := g.block
              next := g.pc + BitVec.ofNat 64 (8 * h.len), e := h.e, resume := none, reissue := [], pend := g.pend
              bad := g.bad.filter isO }
          exm := fullMask, stack := [], pend := [], o := emptyO, l := emptyL, legPos := 0, st := .ready, since := s.now
          pc := l.lrec.handler + 8, block := some { addr := l.lrec.handler, word := w }, reissue := []
          bad := g.bad.filter fun x => !isO x }

/-- 19 R332, R333; 07 R120: a trap ends the team when %tmask is 1 already, when there is no handler, and when the handler is no
well-formed ENTRY signpost, then with cause BRT, or with UNCORR where its word is uncorrectable (the model's reading, log 83): its
groups stop, its loads are dropped and its version is discarded. ABORT ends it too, with the cause that its handler was entered for, in
the record of the report that follows the discard. That a bad handler's report keeps the TINFO and TLANE of the trap that could not be
taken, where R132 gives 0 for BRT, is the model's choice (log 122), and so are the CAUSE 0, TPC, TINFO, TLANE and the empty hop list of an
ABORT outside a handler (log 123). -/
def Obligations.TrapEndsTeam : Prop :=
  (∀ (s : State) (g : Group) (h : Hdr) (t : Trap) (l : Launch), g.reissue = [] → s.launchOf g.id = some l →
     let ended (type : Nat) (t : Trap) : State := s.endTeam g.id.ctx g.id.task (trapRecord type g.id t g.pc [])
     (g.tmask = true → s.trap g h t = ended 3 t) ∧
     (g.tmask = false → l.lrec.handler = 0 → s.trap g h t = ended 2 t) ∧
     (g.tmask = false → l.lrec.handler ≠ 0 → s.target g.id l.lrec.handler = .bad →
       s.trap g h t = ended 2 { t with cause := .brt }) ∧
     (∀ w, g.tmask = false → l.lrec.handler ≠ 0 → s.target g.id l.lrec.handler = .ok w → spEntry w = false →
       s.trap g h t = ended 2 { t with cause := .brt }) ∧
     (g.tmask = false → l.lrec.handler ≠ 0 → s.target g.id l.lrec.handler = .uncorr →
       s.trap g h t =
         s.endTeam g.id.ctx g.id.task (trapRecord 2 g.id { t with cause := .uncorr } l.lrec.handler [])) ∧
     (∀ ctx task rec_,
       (∀ x ∈ (s.endTeam ctx task rec_).groups, x.id.ctx = ctx → x.id.task = task → x.st = .exited) ∧
       (∀ x ∈ (s.endTeam ctx task rec_).loads, ¬(x.gid.ctx = ctx ∧ x.gid.task = task)) ∧
       (∀ x ∈ (s.endTeam ctx task rec_).teams, x.ctx = ctx → x.task = task →
         x.version = [] ∧ x.verBad = [] ∧ x.spilled = [] ∧ x.st = .aborting rec_) ∧
       (s.endTeam ctx task rec_).mem = s.mem ∧
       (∀ id, ¬(id.ctx = ctx ∧ id.task = task) → (s.endTeam ctx task rec_).group? id = s.group? id))) ∧
  ∀ (s : State) (g : Group) (h : Hdr), s.issues (.abort h) g = true →
    exec (.abort h) s =
      .next (s.endTeam g.id.ctx g.id.task (trapRecord 1 g.id
        { cause := if g.tmask then g.tcause else .none, info := g.tinfo, lanes := g.tlane }
        (if g.tmask then g.tpc else g.at_) [])) ∧
    Cause.none.code = 0

/-- 07 R119; 19 R334: TRAPRET outside a handler traps with ILL; TRAPRET.same puts back the trap save and goes back to %tpc;
TRAPRET.next goes on past the instruction, ending its leg where the instruction would have; after a trap raised after issue, .next
goes on at the resume point and .same issues the instruction at %tpc once more before. Instructions that were to be issued once more,
and traps still to come, go on after it (the model's reading, log 33), and the uncorrectable marks of the operand file come back with it
(the model's reading, log 34). -/
def Obligations.TrapReturns : Prop :=
  ∀ (s : State) (g : Group) (h : Hdr) (t : TrapSave),
    (s.issues (.trapretSame h) g = true → g.tmask = false → exec (.trapretSame h) s = s.traps g h { cause := .ill }) ∧
    (s.issues (.trapretNext h) g = true → g.tmask = false → exec (.trapretNext h) s = s.traps g h { cause := .ill }) ∧
    (s.issues (.trapretSame h) g = true → g.tmask = true → g.tsave = some t → t.resume = none →
      exec (.trapretSame h) s =
        .next (s.setGroup
          { g with
            exm := t.exm, stack := t.stack, spill := t.spill, o := t.o, l := t.l, legPos := t.legPos, block := t.block
            tmask := false, tsave := none, ric := g.ric + 1, st := .ready, since := s.now, pend := t.pend ++ g.pend
            reissue := t.reissue, bad := (g.bad.filter fun x => !isO x) ++ t.bad
            pc := g.tpc })) ∧
    (∀ b, s.issues (.trapretNext h) g = true → g.tmask = true → g.tsave = some t → t.resume = none → t.block = some b →
      t.e = false → t.next ≠ b.stop →
      exec (.trapretNext h) s =
        .next (s.setGroup
          { g with
            exm := t.exm, stack := t.stack, spill := t.spill, o := t.o, l := t.l, legPos := t.legPos + 1, block := t.block
            tmask := false, tsave := none, ric := g.ric + 1, st := .ready, since := s.now, pend := t.pend ++ g.pend
            reissue := t.reissue, bad := (g.bad.filter fun x => !isO x) ++ t.bad
            pc := t.next, started := true })) ∧
    (∀ b, s.issues (.trapretNext h) g = true → g.tmask = true → g.tsave = some t → t.resume = none → t.block = some b →
      t.e = true ∨ t.next = b.stop →
      ∃ g1, exec (.trapretNext h) s = .next (s.setGroup g1) ∧ g1.pc = t.next ∧ g1.exm = t.exm ∧ g1.stack = t.stack ∧
        g1.o = emptyO ∧ g1.l = emptyL ∧ g1.legPos = 0 ∧ g1.tmask = false ∧ g1.started = true) ∧
    (∀ r, s.issues (.trapretSame h) g = true → g.tmask = true → g.tsave = some t → t.resume = some r →
      exec (.trapretSame h) s = .next (s.setGroup { g.restore t s.now with pc := r, reissue := g.tpc :: t.reissue })) ∧
    (∀ r, s.issues (.trapretNext h) g = true → g.tmask = true → g.tsave = some t → t.resume = some r →
      exec (.trapretNext h) s = .next (s.setGroup { g.restore t s.now with pc := r, started := true }))

/-! Memory (07 R140 to R146; 11 R201 to R228; 12 R239). -/

/-- 07 R140 to R146; 05 R77: a load whose checks pass reads every lane, marks its destination empty, leaves its data outstanding
and retires; .acq then acquires. A load with no active lane retires, and acquires nothing (the model's choice, log 129); one whose checks
trap traps. That a G = 1 form gives %tlane 0, for uncorrectable data and in the checks below, is the model's reading (log 17).

07 R143, R144; 11 R188, R192, R198: the checks of an access, of its lanes together and of one lane. A misaligned lane traps with ALIGN,
else one whose address is refused with PROT, each with the address of the first lane that is; else a missing page is answered, and with
every lane right each goes where its address resolves. While a fence keeps the walk of an aligned lane's page the instruction waits with
all but ALIGN (19 R347; the model's reading, log 69). An address of no enabled range, in a FABRIC range, or in an APERTURE range that
is no 8-byte store's, and a store or an atomic to a read-shared page, is refused; an access to a present page that nothing holds up goes
to it. In space .sh the share bounds the offsets, and in .cw the window does, and shares of other contexts are refused. -/
def Obligations.LoadsIssue : Prop :=
  (∀ (s : State) (g : Group) (h : Hdr) (ord : Order) (sp : Space) (ty : Ty) (d a b : Opd) (scope : Scope),
    s.issues (.ld h ord sp ty d a b scope) g = true →
    let w := ty.bits / 8
    (laneAddrs g h a b = [] → exec (.ld h ord sp ty d a b scope) s = s.goes g h) ∧
    (∀ accs vals bads, laneAddrs g h a b ≠ [] → s.checkLanes g h sp .load w w (laneAddrs g h a b) = .ok accs →
      s.readLanes g w accs = (vals, bads) →
      let s2 := (s.touchLines g (accs.map (·.2.2))).addLoad g h (ldst d ty.regs) (.mem (vals.map fun x => (x.1, landed h ty x.2)) (tlaneIf h bads))
      exec (.ld h ord sp ty d a b scope) s = .next (if ord = .acq then s2.acquire g.site scope else s2)) ∧
    (∀ t, laneAddrs g h a b ≠ [] → s.checkLanes g h sp .load w w (laneAddrs g h a b) = .trap t →
      exec (.ld h ord sp ty d a b scope) s = s.traps g h t) ∧
    (∀ ms, laneAddrs g h a b ≠ [] → s.checkLanes g h sp .load w w (laneAddrs g h a b) = .miss ms →
      exec (.ld h ord sp ty d a b scope) s = .next (s.missing g ms))) ∧
  (∀ (s : State) (g : Group) (h : Hdr) (sp : Space) (k : AKind) (align w : Nat) (addrs : List (Nat × W64)),
    let fails (c : Cause) (bad : List (Nat × W64)) : Chk :=
      .trap { cause := c, info := (bad.headD (0, 0)).2, lanes := if h.g then 0 else maskOf (bad.map (·.1)) }
    let mis := addrs.filter fun x => x.2.toNat % align ≠ 0
    let prot := addrs.filter fun x => s.resolve g sp k w x.2 = .prot
    let check := s.checkLanes g h sp k align w addrs
    (mis ≠ [] → check = fails .align mis) ∧
    (mis = [] → (∃ x ∈ addrs, s.resolve g sp k w x.2 = .held) → check = .wait) ∧
    (mis = [] → (∀ x ∈ addrs, s.resolve g sp k w x.2 ≠ .held) → prot ≠ [] → check = fails .prot prot) ∧
    (∀ L va ms, addrs = [(L, va)] → va.toNat % align = 0 → s.resolve g sp k w va = .miss ms → ms ≠ [] →
      check = .miss (distinctMiss ms)) ∧
    (∀ tgt : Nat × W64 → ATgt, mis = [] → (∀ x ∈ addrs, s.resolve g sp k w x.2 = .ok (tgt x)) →
      check = .ok (addrs.map fun x => (x.1, x.2, tgt x)))) ∧
  ∀ (s : State) (g : Group) (k : AKind) (w : Nat) (va : W64) (c : Ctx) (r : Range), s.ctx? g.id.ctx = some c →
    let ia := (va.toNat + r.target.toNat) % 2 ^ 52
    (s.rangeOf c va.toNat = none → s.resolve g .gl k w va = .prot) ∧
    (s.rangeOf c va.toNat = some r → r.kind = 3 → s.resolve g .gl k w va = .prot) ∧
    (s.rangeOf c va.toNat = some r → r.kind = 2 →
      s.resolve g .gl k w va = if k = .store ∧ w = 8 then .ok (.aperture (va.toNat - r.base.toNat)) else .prot) ∧
    (s.rangeOf c va.toNat = some r → r.kind = 0 → ia % 64 + w ≤ 64 → s.walkWaits c ia = true →
      s.resolve g .gl k w va = .held) ∧
    (∀ m, s.rangeOf c va.toNat = some r → r.kind = 0 → ia % 64 + w ≤ 64 → s.walkWaits c ia = false → s.walk c ia = .missing m →
      s.resolve g .gl k w va = .miss [(.page (pageOf ia), m)]) ∧
    (∀ l, s.rangeOf c va.toNat = some r → r.kind = 0 → ia % 64 + w ≤ 64 → s.walkWaits c ia = false → s.walk c ia = .ok l →
      (k ≠ .load → l.kind = 1 → s.resolve g .gl k w va = .prot) ∧
      (let ps : List Piece := [{ ia, n := w, leaf := l }];
        k = .load ∨ l.kind ≠ 1 → s.unreached g.site.cluster c.no ps = false → s.spilledAway c g.id.task ps = false →
        s.cellDue g.id ps = false → s.resolve g .gl k w va = .ok (.pub ps none))) ∧
    (∀ t cl off size, s.teamOf g.id = some t → s.shareOf t = some (cl, off, size) →
      (size < va.toNat + w → s.resolve g .sh k w va = .prot) ∧
      (va.toNat + w ≤ size → s.winWaits cl (off + va.toNat) w = false →
        s.resolve g .sh k w va = .ok (.scr cl (off + va.toNat)))) ∧
    (Config.windowBytes < va.toNat + w → s.resolve g .cw k w va = .prot) ∧
    (let core := va.toNat / Config.scratchBytes; let lo := va.toNat % Config.scratchBytes;
      0 < w → lo + w ≤ Config.scratchBytes → va.toNat + w ≤ Config.windowBytes →
      let shut := s.off g.site.cluster 1 core = true ∨
        ∃ x ∈ s.sharesOn (g.site.cluster * 256 + core), x.2.2 ≠ g.id.ctx ∧ lo < x.1 + x.2.1 ∧ x.1 < lo + w
      (shut → s.resolve g .cw k w va = .prot) ∧
      (¬ shut → s.winWaits g.site.cluster va.toNat w = false →
        s.resolve g .cw k w va = .ok (.scr g.site.cluster va.toNat)))

/-- 07 R142 to R145; 12 R237; 13 R256: a store whose checks pass writes its lanes in order and retires; a release waits, publishes and
then writes its bytes directly at .core or wider; one whose lane finds no room in the spill area traps with VOVF, a store that traps
publishes nothing, one that misses is left out with all that its lanes miss and makes no access, and one whose checks trap traps. Where a lane's line has
no room because another context's line cannot leave, that context's owner is told of its empty backing pool, and the team waits for a
FILL of its own (the model's reading, log 90). A
release with no active lane retires and publishes nothing (the model's choice, log 129). An 8-byte store to the aperture with CMD 0 and an index of a defined local template starts that template, once the
group's earlier accesses are performed (which these are is the model's reading, log 4). -/
def Obligations.StoresComplete : Prop :=
  (∀ (s : State) (g : Group) (h : Hdr) (ord : Order) (sp : Space) (ty : Ty) (d a b : Opd) (scope : Scope)
     (accs : List (Nat × W64 × ATgt)), s.issues (.st h ord sp ty d a b scope) g = true →
     let w := ty.bits / 8
     let fn := storeFn g h ty d (ord = .rel && 2 ≤ scope.code)
     let made (s : State) := s.made g h sp .store w w (laneAddrs g h a b) fn
     (laneAddrs g h a b = [] → exec (.st h ord sp ty d a b scope) s = s.goes g h) ∧
     (laneAddrs g h a b ≠ [] → s.checkLanes g h sp .store w w (laneAddrs g h a b) = .ok accs →
       s.apertureCheck g h ty d accs = none → aperturesOf g h ty d accs = [] ∨ s.startWaits g.id = false →
       (∀ s1 xs, ord ≠ .rel → made s = .ok xs s1 →
         exec (.st h ord sp ty d a b scope) s = (s1.askLines g (xs.map (·.1))).goes g h) ∧
       (∀ x, ord ≠ .rel → made s = .trap x → exec (.st h ord sp ty d a b scope) s = s.traps g h x) ∧
       (∀ s1 s2 xs, ord = .rel → s.released g scope = some s1 → made s1 = .ok xs s2 →
         exec (.st h ord sp ty d a b scope) s = (s2.askLines g (xs.map (·.1))).goes g h) ∧
       (∀ s1 x, ord = .rel → s.released g scope = some s1 → made s1 = .trap x →
         exec (.st h ord sp ty d a b scope) s = s.traps g h x) ∧
       (∀ L va s1 x, laneAddrs g h a b = [(L, va)] → s.place1 g sp .store w va = .ok s1 x → fn L x s1 = .vovf →
         made s = .trap { cause := .vovf })) ∧
     (∀ ms ms1 owners, laneAddrs g h a b ≠ [] → s.checkLanes g h sp .store w w (laneAddrs g h a b) = .miss ms →
       made s = .miss ms1 owners → exec (.st h ord sp ty d a b scope) s =
         .next ((owners.foldl (fun s o => s.otherPool g.id.ctx o) s).missing g ms1)) ∧
     (∀ t, laneAddrs g h a b ≠ [] → s.checkLanes g h sp .store w w (laneAddrs g h a b) = .trap t →
       exec (.st h ord sp ty d a b scope) s = s.traps g h t)) ∧
  ∀ (s : State) (g : Group) (h : Hdr) (ty : Ty) (d a b : Opd) (scope : Scope) (c : Ctx) (off : Nat) (t : List Byte),
    s.issues (.st h .rlx .gl ty d a b scope) g = true → h.g = true → s.ctx? g.id.ctx = some c → ty.bits = 64 →
    (addrOf g h a b 0).toNat % 8 = 0 → s.resolve g .gl .store 8 (addrOf g h a b 0) = .ok (.aperture off) →
    s.startWaits g.id = false → apCmd off = 0 → rd g h ty d 0 < 2 ^ 48 →
    apIndex (BitVec.ofNat 64 (rd g h ty d 0)) < 4096 →
    c.template? (apIndex (BitVec.ofNat 64 (rd g h ty d 0))) = some t → tmplRemote t = false →
    exec (.st h .rlx .gl ty d a b scope) s =
      (s.apertureStart g off (BitVec.ofNat 64 (leNat (leBytes 8 (rd g h ty d 0))))).goes g h

/-- 11 R201 to R205, R207, R209: an ATOM whose checks pass does its lanes in order, each on the memory that the lane before left, and
its old values are outstanding like the data of a load; without a return value it retires at once; a release comes first; one that
traps publishes nothing; and one whose data is uncorrectable in some lane changes and publishes nothing, and its trap is outstanding
like a load's (that a release then publishes nothing, and goes on from the state before it, is the model's reading, log 16, and so is
%tlane 0 for a G = 1 form, log 17). ATOMO sends one contribution for each active lane, and the group goes on. An ATOM or ATOMO whose checks trap traps. -/
def Obligations.AtomicsComplete : Prop :=
  (∀ (s : State) (g : Group) (h : Hdr) (fn : AtomFn) (ord : Order) (scope : Scope) (sp : Space) (ty : Ty) (d a b : Opd)
     (accs : List (Nat × W64 × ATgt)), s.issues (.atom h fn ord scope sp ty d a b) g = true →
     let w := ty.bits / 8
     let addrs := laneAddrs g h a .zero
     let g1 := if d.isZ then g.pushZero h else g
     let done (s : State) : Out := .next (if ord = .acq || ord = .ar then s.acquire g.site scope else s)
     let made (s : State) := s.made g h sp .atom w w addrs (atomLaneFn g h (!g.site.isCc && scope.code ≤ 3) fn ty b)
     let out := exec (.atom h fn ord scope sp ty d a b) s
     let ends (s1 : State) : Prop :=
       (s1.atomBads g h sp w addrs = [] →
         (∀ xs s2, made s1 = .ok xs s2 →
           let s3 := s2.askLines g (xs.map (·.1))
           out = done (if d.isZ then s3.retire g1 h
             else s3.addLoad g1 h (ldst d ty.regs)
               (.mem (xs.map fun x => (x.2.1, landed h ty (BitVec.ofNat 64 x.2.2))) none))) ∧
         (∀ x, made s1 = .trap x → out = s.traps g h x)) ∧
       (s1.atomBads g h sp w addrs ≠ [] →
         out = done ((s.askLines g (accs.map (·.2.2))).addLoad g1 h (ldst d ty.regs)
           (.mem [] (tlaneIf h (s1.atomBads g h sp w addrs)))))
     (addrs = [] → out = s.goes g1 h) ∧
     (∀ t, addrs ≠ [] → s.checkLanes g h sp .atom w w addrs = .trap t → out = s.traps g h t) ∧
     (addrs ≠ [] → s.checkLanes g h sp .atom w w addrs = .ok accs →
       (ord = .rlx ∨ ord = .acq → ends s) ∧
       (∀ s1, ord = .rel ∨ ord = .ar → s.released g scope (sp = .gl) = some s1 → ends s1))) ∧
  (∀ (s : State) (g : Group) (h : Hdr) (fn : FoldFn) (ty : Ty) (a b c : Opd) (t : Trap),
    s.issues (.atomo h fn ty a b c) g = true → laneAddrs g h a .zero ≠ [] →
    s.checkLanes g h .gl .cell 16 16 (laneAddrs g h a .zero) = .trap t → exec (.atomo h fn ty a b c) s = s.traps g h t) ∧
  ∀ (s : State) (g : Group) (h : Hdr) (fn : FoldFn) (ty : Ty) (a b c : Opd) (s1 : State) (xs : List (ATgt × Nat × Nat)),
    s.issues (.atomo h fn ty a b c) g = true → laneAddrs g h a .zero ≠ [] →
    s.made g h .gl .cell 16 16 (laneAddrs g h a .zero) (atomoFn g h fn ty b c) = .ok xs s1 →
    exec (.atomo h fn ty a b c) s = (s1.askLines g (xs.map (·.1))).goes g h ∧
    ∃ sent : List Ordered, s1.ordered = s.ordered ++ sent ∧
      (∀ o ∈ sent, o.gid = g.id ∧ o.op = fn ∧ o.ty = ty ∧ o.st = .sent) ∧
      sent.map (fun o => (o.ia, o.val, o.rank)) = xs.filterMap (fun x =>
        match x.1 with
        | .pub ps _ => some (iaOf ps, BitVec.ofNat 64 (rd g h ty b x.2.1), BitVec.ofNat 32 (rdN g h 32 c x.2.1))
        | _ => none)

/-- 11 R211 to R214, R220 to R222: fences release, acquire, or both, once the group's accesses are performed (which these are is the
model's reading, log 4); a prefetch asks for the lines of its addresses, changes no register and traps on no address; CMAINT drops P
and S lines of the core's own L1. A tier move starts and the group goes on; a reservation is granted when its cluster has room beside
the other contexts and answers so; a release of one, a discard of lines and a migration that no fence holds up complete; a discarded
whole page loses its lines and gives its late frame back. -/
def Obligations.MemoryManagementInstructions : Prop :=
  (∀ (s : State) (g : Group) (h : Hdr) (scope : Scope) (llc : Bool) (a b : Opd),
     (s.issues (.fence h .acq scope) g = true → s.readsDue g.id = false → scope.code < 4 ∨ s.orderedDue g.id = false →
       exec (.fence h .acq scope) s = .next ((s.retire g h).acquire g.site scope)) ∧
     (s.issues (.fence h .acq scope) g = true → s.readsDue g.id = true ∨ (4 ≤ scope.code ∧ s.orderedDue g.id = true) →
       exec (.fence h .acq scope) s = .next s) ∧
     (∀ s1, s.issues (.fence h .rel scope) g = true → s.released g scope = some s1 →
       exec (.fence h .rel scope) s = s1.goes g h) ∧
     (∀ s1, s.issues (.fence h .ar scope) g = true → s.released g scope = some s1 →
       exec (.fence h .ar scope) s = .next ((s1.retire g h).acquire g.site scope)) ∧
     (s.issues (.pref h llc a b) g = true →
       exec (.pref h llc a b) s =
         let ts := (laneAddrs g h a b).filterMap fun x => s.prefLine g llc x.2
         .next ((if llc then s.askLines g ts else s.touchLines g ts).retire g h)) ∧
     (∀ c, s.issues (.cmaintInv h a b) g = true → s.ctx? g.id.ctx = some c →
       s.linesWait c g.site.cluster (rd64 g h a) (rd64 g h b).toNat = false →
       exec (.cmaintInv h a b) s =
         .next ((s.retire g h).dropL1 fun l => .core l.core = g.site && l.ctx = g.id.ctx && !l.coherent
           && (s.linesOf c g.site.cluster (rd64 g h a) (rd64 g h b).toNat).contains l.line)) ∧
     (s.issues (.cmaintInvall h) g = true →
       exec (.cmaintInvall h) s = .next ((s.retire g h).dropL1 fun l => .core l.core = g.site && !l.coherent))) ∧
  ∀ (s : State) (g : Group) (h : Hdr) (lp : Bool) (d a b m : Opd) (c : Ctx), s.ctx? g.id.ctx = some c →
    (s.issues (.tier h lp a b m) g = true → (rd64 g h a).toNat % 65536 = 0 →
      (rd64 g h b).toNat = 0 ∨ s.spanOk c (rd64 g h a).toNat (65536 * (rd64 g h b).toNat) = true →
      (rd64 g h m).toNat % 64 = 0 →
      ∃ s1 id, (s.retire g h).fresh = (id, s1) ∧ exec (.tier h lp a b m) s =
        .next { s1 with tiers := s1.tiers ++
          [{ id, ctx := g.id.ctx, task := g.id.task, cluster := g.site.cluster, lp
             pages := s.pagesAt c (rd64 g h a).toNat (65536 * (rd64 g h b).toNat)
             ms := rd64 g h m, bytes := 65536 * (rd64 g h b).toNat, err := 0 }] }) ∧
    (∀ cl, s.issues (.ersv h d a b) g = true → (s.clusters c.part)[rd32 g h b]? = some cl →
      s.reservedBy c.no cl + rd32 g h a ≤ Config.emberLines →
      exec (.ersv h d a b) s =
        .next ((s.retire (putPred g d true) h).updCtx c.no fun c =>
          { c with ember := c.ember.set (rd32 g h b) (rd32 g h a) })) ∧
    (∀ cl, s.issues (.ersv h d a b) g = true → (s.clusters c.part)[rd32 g h b]? = some cl →
      Config.emberLines < s.reservedBy c.no cl + rd32 g h a →
      exec (.ersv h d a b) s = s.goes (putPred g d false) h) ∧
    (s.issues (.erel h a) g = true →
      exec (.erel h a) s =
        .next ((s.retire g h).updCtx g.id.ctx fun c => { c with ember := c.ember.set (rd32 g h a) 0 })) ∧
    (∀ ps, s.issues (.edisc h a b) g = true → (rd64 g h a).toNat % 64 = 0 → (rd64 g h b).toNat % 64 = 0 →
      s.emberHeld c (rd64 g h a).toNat (rd64 g h b).toNat = false →
      s.emberPages c (rd64 g h a).toNat (rd64 g h b).toNat = .inr ps →
      ps.any (s.pieceWaits c.no g.site.cluster) = false → s.cellDue g.id ps = false →
      exec (.edisc h a b) s = (ps.foldl (fun s p => s.discard c p) s).goes g h) ∧
    (∀ (p : Piece) l, s.walk c p.ia = .ok l → p.ia % 65536 = 0 → p.n = 65536 →
      let s1 := { s with ember := s.ember.filter fun e => !(e.ctx = c.no && p.ia ≤ e.line && e.line < p.ia + 65536) }
      s.discard c p = if l.late then
        (s1.writeLeaf { l with late := false, frame := 0 }).reportCtx c.no (frameReport c.no 2 l.frame) else s1) ∧
    (∀ cl ps, s.issues (.emig h a b m) g = true → (rd64 g h a).toNat % 65536 = 0 →
      (s.clusters c.part)[rd32 g h m]? = some cl →
      (rd64 g h b).toNat = 0 ∨ s.spanOk c (rd64 g h a).toNat (65536 * (rd64 g h b).toNat) = true →
      s.emberHeld c (rd64 g h a).toNat (65536 * (rd64 g h b).toNat) = false →
      s.emberPages c (rd64 g h a).toNat (65536 * (rd64 g h b).toNat) = .inr ps →
      ((pagesIn ps).any fun p => s.emigWaits c g.site.cluster cl p.1 p.2) = false →
      exec (.emig h a b m) s = ((pagesIn ps).foldl (fun s p => s.emberMove c.no p.1 p.2 cl) s).goes g h)

/-- 11 R227, R228: RMSET gives the old entry of a row and writes the new one, .get only reads; RMREF gives the old count and writes
what its form says, and a count that falls to 0 puts its block on the free list; a row or a block that the window has not, and an entry
with a bit above 49, trap with PROT, nothing published (00 R8). That the row and the block are read as 64 bits is the model's choice
(log 116), and so is the address operand as %tinfo of these traps (log 120). -/
def Obligations.RemapInstructions : Prop :=
  ∀ (s : State) (g : Group) (h : Hdr) (o w x v : Opd) (s1 : State) (c : Ctx) (d : Remap) (old : List Byte),
    s.windowAt g h w = some (s1, c, d) →
    let n := (rd64 g h x).toNat
    let ends (s2 : State) : Out :=
      .next ((s2.retire (putDest g o (BitVec.ofNat 64 (leNat old))) h).acquire g.site .dev)
    let count (new : Nat) : State := s1.iaWrite c (d.refs + 4 * n) (leBytes 4 new)
    let prot : Out := s.traps g h { cause := .prot, info := rd64 g h w }
    (s.issues (.rmset h o w x v) g = true → d.rows ≤ n ∨ 2 ^ 50 ≤ (rd64 g h v).toNat → exec (.rmset h o w x v) s = prot) ∧
    (s.issues (.rmsetGet h o w x) g = true → d.rows ≤ n → exec (.rmsetGet h o w x) s = prot) ∧
    (s.issues (.rmrefInc h o w x) g = true → d.blocks ≤ n → exec (.rmrefInc h o w x) s = prot) ∧
    (s.issues (.rmrefDec h o w x) g = true → d.blocks ≤ n → exec (.rmrefDec h o w x) s = prot) ∧
    (s.issues (.rmrefGet h o w x) g = true → d.blocks ≤ n → exec (.rmrefGet h o w x) s = prot) ∧
    (s.issues (.rmrefSet h o w x v) g = true → d.blocks ≤ n → exec (.rmrefSet h o w x v) s = prot) ∧
    (n < d.rows → s1.iaRead c g.site.cluster (d.table + 8 * n) 8 = .ok old →
      (s.issues (.rmset h o w x v) g = true → (rd64 g h v).toNat < 2 ^ 50 →
        exec (.rmset h o w x v) s =
          .next (((s1.retire (putDest g o (wordOf old)) h).iaWrite c (d.table + 8 * n)
            (leBytes 8 (rd64 g h v).toNat)).acquire g.site .dev)) ∧
      (s.issues (.rmsetGet h o w x) g = true →
        exec (.rmsetGet h o w x) s =
          .next ((s1.retire (putDest g o (wordOf old)) h).acquire g.site .dev))) ∧
    (n < d.blocks → s1.iaRead c g.site.cluster (d.refs + 4 * n) 4 = .ok old →
      (s.issues (.rmrefInc h o w x) g = true →
        exec (.rmrefInc h o w x) s = ends (count (min (leNat old + 1) (2 ^ 32 - 1)))) ∧
      (s.issues (.rmrefDec h o w x) g = true → leNat old ≠ 1 →
        exec (.rmrefDec h o w x) s = ends (count (leNat old - 1))) ∧
      (∀ s2, s.issues (.rmrefDec h o w x) g = true → leNat old = 1 → (count 0).pushBlock c g.site.cluster g.id.task d n = .done s2 →
        exec (.rmrefDec h o w x) s = ends s2) ∧
      (s.issues (.rmrefGet h o w x) g = true → exec (.rmrefGet h o w x) s = ends (count (leNat old))) ∧
      (s.issues (.rmrefSet h o w x v) g = true →
        exec (.rmrefSet h o w x v) s = ends (count (rd32 g h v))))

/-! Milestones, templates and futures (13 R246 to R274). -/

/-- 13 R246, R248, R249, R253, R267 to R270: MSINIT writes a fresh milestone; MSARR arrives or raises EXPECT, with what follows a
flip, the release first; MSBIND binds a tag, which it sets at once for a future of PHASE 1, and unbinds it; MSQRY reads a field. Each
that reads a milestone of memory asks its home for the line (11 R196). What MSINIT writes in the saved share of a team that is switched
out is held back (19 R338), and that it fires no trigger before the team is back is the model's reading (log 51). -/
def Obligations.MilestoneInstructions : Prop :=
  ∀ (s : State) (g : Group) (h : Hdr) (kind : MsKind) (rearm chunk acq : Bool) (field : MsField) (r : Fin 128)
    (d a b c : Opd) (scope : Scope) (l : Loc), s.msAt g (rd64 g h a) = some l →
    let s1 := s.askMs g l
    (s.issues (.msinit h kind rearm chunk d a b c) g = true →
      ¬(chunk = true ∧ (rd64 g h c).toNat % 512 ≠ 0) → ¬(kind = .join ∧ (rd64 g h c).toNat % 64 ≠ 0) →
      exec (.msinit h kind rearm chunk d a b c) s =
        let m : Ms :=
          { phase := 0, kind := kind.code, err := 0, tag := 0, flags := rearm.toNat + 2 * chunk.toNat, bcore := 0
            expect := rd64 g h b, arrived := 0, chunks := 0, tilebase := if chunk then rd64 g h c else 0
            cont := if kind = .join then rd64 g h c else 0, value := 0, resolver := rd64 g h d }
        let s2 := (s1.retire g h).putMs l m false true
        let s3 : State := { s2 with claims := s2.claims.map fun k => if k.loc = l then { k with live := false } else k }
        .next (match l with | .img .. => s3 | _ => s3.run (s3.due g.id.ctx l 0))) ∧
    (s.issues (.msinit h kind rearm chunk d a b c) g = true →
      (chunk = true ∧ (rd64 g h c).toNat % 512 ≠ 0) ∨ (kind = .join ∧ (rd64 g h c).toNat % 64 ≠ 0) →
      exec (.msinit h kind rearm chunk d a b c) s = s.traps g h { cause := .align, info := rd64 g h c }) ∧
    (∀ m, s.msThere l = some m → m.ok = true →
      (s.issues (.msarrArr h false d a b scope) g = true →
        exec (.msarrArr h false d a b scope) s =
          .next ((s1.retire (putDest g d m.arrived) h).change g.id.ctx g.id.task l m
            (m.arrive (s1.claimed l) (rd64 g h b).toNat).1 (m.arrive (s1.claimed l) (rd64 g h b).toNat).2)) ∧
      (s.issues (.msarrExp h d a b) g = true →
        exec (.msarrExp h d a b) s =
          .next ((s1.retire (putDest g d m.expect) h).change g.id.ctx g.id.task l m
            (m.raise (s1.claimed l) (rd64 g h b).toNat).1 (m.raise (s1.claimed l) (rd64 g h b).toNat).2)) ∧
      (s.issues (.msbind h a b) g = true →
        let tag := rd32 g h b % 64
        let s2 := ((s1.retire g h).putMs l { m with tag := 128 + tag, bcore := bcoreOf g.site }).noteBind g tag (rd64 g h a)
        let s3 := s2.setTags g.site (s2.tagsAt g.site &&& ~~~(bit64 tag))
        (¬(m.kind = 2 ∧ m.phase = 1) → exec (.msbind h a b) s = .next s3) ∧
        (m.kind = 2 → m.phase = 1 → exec (.msbind h a b) s = .next (s3.setTag g.site tag))) ∧
      (s.issues (.msbindUnbind h a) g = true →
        exec (.msbindUnbind h a) s = .next ((s1.retire g h).putMs l { m with tag := 0, bcore := 0 }))) ∧
    (∀ m, s.msThere l = some m → s.issues (.msqry h field acq (.g r) a) g = true →
      exec (.msqry h field acq (.g r) a) s =
        .next (if acq then (s1.retire (g.putG r.val (m.field field)) h).acquire g.site .job
          else s1.retire (g.putG r.val (m.field field)) h)) ∧
    (∀ m m2 s2, s.msThere l = some m → s.released g scope = some s2 → s2.msThere l = some m2 → m2.ok = true →
      s.issues (.msarrArr h true d a b scope) g = true →
      exec (.msarrArr h true d a b scope) s =
        let s3 := s2.askMs g l
        .next ((s3.retire (putDest g d m2.arrived) h).change g.id.ctx g.id.task l m2
          (m2.arrive (s3.claimed l) (rd64 g h b).toNat).1 (m2.arrive (s3.claimed l) (rd64 g h b).toNat).2))

/-- 13 R247 to R250: an arrival adds to ARRIVED modulo 2^64, the bytes of a copy at a BYTES or FUTURE milestone and 1 at another; the
phase flips exactly when ARRIVED meets a nonzero EXPECT, re-arms with ARRIVED 0 under AUTOREARM, and ERR 5 records an overshoot; a rise
of EXPECT is tested likewise; a resolved or claimed future takes no part, and only sets DRSEEN; a phase is reached within half the
range. -/
def Obligations.ArrivalsFlipPhases : Prop :=
  (∀ (m : Ms) (claimed : Bool) (n : Nat),
    (m.kind = 2 → m.phase = 1 ∨ claimed = true →
      m.arrive claimed n = ({ m with arrived := m.arrived + BitVec.ofNat 64 n, flags := m.flags ||| 4 }, false) ∧
      m.raise claimed n = ({ m with expect := m.expect + BitVec.ofNat 64 n }, false)) ∧
    (m.kind ≠ 2 → let e := m.expect + BitVec.ofNat 64 n
      (e ≠ 0 → m.arrived = e → (m.raise claimed n).2 = true ∧ (m.raise claimed n).1.phase = (m.phase + 1) % 65536) ∧
      (e ≠ 0 → e < m.arrived → m.err = 0 → m.raise claimed n = ({ m with expect := e, err := 5 }, false)) ∧
      (e = 0 ∨ m.arrived < e → m.raise claimed n = ({ m with expect := e }, false))) ∧
    (m.kind = 1 ∨ m.kind = 2 → m.apply claimed (.done n) = m.arrive claimed n) ∧
    (m.kind = 0 ∨ m.kind = 3 → m.apply claimed (.done n) = m.arrive claimed 1) ∧
    (m.kind = 2 → m.phase = 0 → claimed = false → m.expect ≠ 0 → m.arrived + BitVec.ofNat 64 n = m.expect →
      m.arrive claimed n = ({ m with arrived := m.expect, phase := 1, value := m.expect }, true))) ∧
  ∀ (m : Ms) (n : Nat), m.kind ≠ 2 →
    let a := m.arrived + BitVec.ofNat 64 n
    (m.expect ≠ 0 → a = m.expect → m.rearm = true →
      m.arrive false n = ({ m with phase := (m.phase + 1) % 65536, arrived := 0, chunks := 0 }, true)) ∧
    (m.expect ≠ 0 → a = m.expect → m.rearm = false →
      m.arrive false n = ({ m with phase := (m.phase + 1) % 65536, arrived := a }, true)) ∧
    (m.expect ≠ 0 → m.expect < a → m.err = 0 → m.arrive false n = ({ m with arrived := a, err := 5 }, false)) ∧
    (m.expect = 0 ∨ a < m.expect → m.arrive false n = ({ m with arrived := a }, false)) ∧
    (∀ p d : Nat, p < 65536 → d < 32768 → reached ((p + d) % 65536) p = true) ∧
    (∀ p d : Nat, p < 65536 → 32768 ≤ d → d < 65536 → reached ((p + d) % 65536) p = false)

/-- 13 R246, R259, R264, R271 to R274: TRIG parks while the entries of the trigger table are all in use; else, with a phase still to
come, it takes an entry, and with one that is reached it starts at once; in each case once the group's earlier accesses are performed
(log 4) and unless its table is fenced (log 69); TDEF and .clr change the template table; FRES publishes and resolves an unresolved
future; FREG registers a join, arrives at it for a resolved future, or traps with UNCORR where that milestone's bytes are uncorrectable,
and answers 0 when another is registered. -/
def Obligations.TemplatesAndFutures : Prop :=
  ∀ (s : State) (g : Group) (h : Hdr) (d a b c : Opd),
    (∀ i t, s.issues (.tdef h a b) g = true → rd32 g h b = i → i < 4096 → (rd64 g h a).toNat % 64 = 0 →
      s.readSpan g.id (rd64 g h a) 8 8 = .ok t → tmplOk t = true →
      exec (.tdef h a b) s =
        .next (((s.noteSpan g.id (rd64 g h a) 8 8).retire g h).updCtx g.id.ctx fun c => c.setTemplate i (some t))) ∧
    (s.issues (.tdefClr h b) g = true → rd32 g h b < 4096 →
      exec (.tdefClr h b) s = .next ((s.retire g h).updCtx g.id.ctx fun c => c.setTemplate (rd32 g h b) none)) ∧
    (∀ l m x t, s.msAt g (rd64 g h a) = some l → s.msThere l = some m → m.err = 0 → m.ok = true →
      s.ctx? g.id.ctx = some x → (rd64 g h c).toNat < 2 ^ 54 → apIndex (rd64 g h c) < 4096 →
      x.template? (apIndex (rd64 g h c)) = some t → tmplRemote t = false → s.issues (.trig h a b c) g = true →
      let s1 := s.askMs g l
      s1.startWaits g.id = false → s1.fenced (unitCode g.site.cluster 13 0) = false →
      let e : Trigger :=
        { id := s1.tick, ctx := g.id.ctx, cluster := g.site.cluster, loc := s1.winOf l, ref := rd64 g h a
          phase := rdN g h 16 b 0, idx := apIndex (rd64 g h c), param := apParam (rd64 g h c)
          channel := (rd64 g h c).toNat / 2 ^ 48 % 64, task := g.id.task, vectorOnly := s1.vectorOnly g.id }
      (s1.triggersFull g.id.ctx g.site.cluster = true → exec (.trig h a b c) s = .next (s1.park g h .triggers)) ∧
      (reached m.phase (rdN g h 16 b 0) = false → s1.triggersFull g.id.ctx g.site.cluster = false →
        exec (.trig h a b c) s =
          .next { s1.retire g h with triggers := (s1.retire g h).triggers ++ [e] }) ∧
      (reached m.phase (rdN g h 16 b 0) = true → s1.triggersFull g.id.ctx g.site.cluster = false →
        exec (.trig h a b c) s =
          .next (((s1.retire g h).fireTrigger e).1.run ((s1.retire g h).fireTrigger e).2))) ∧
    (∀ s3 l m m3, s.msAt g (rd64 g h a) = some l → s.msThere l = some m → m.kind = 2 → m.phase = 0 →
      let s1 := s.askMs g l
      s1.claimed l = false → s.ownClaim g l = none →
      let s2 : State := { s1 with claims := s1.claims ++ [{ loc := l, gid := g.id, live := true }] }
      s2.released g .job = some s3 → s3.msThere l = some m3 → m3.kind = 2 → m3.ok = true →
      let s4 := s3.askMs g l
      s4.ownClaim g l = some { loc := l, gid := g.id, live := true } → s.issues (.fres h a b) g = true →
      exec (.fres h a b) s =
        let s5 : State := { s4 with claims := s4.claims.filter fun c => !(c.loc = l && c.gid = g.id) }
        .next ((s5.retire g h).change g.id.ctx g.id.task l m3 (m3.flip (rd64 g h b)) true)) ∧
    (∀ l l2 m, s.msAt g (rd64 g h a) = some l →
      s.mref g.id.ctx (s.joinCluster g.id.ctx l) (rd64 g h b) = .ok l2 → (s.locSpan l2).held = false →
      s.msThere l = some m → m.kind = 2 →
      m.ok = true → s.issues (.freg h d a b) g = true →
      let s1 := s.askMs g l
      (m.phase = 0 → m.cont = 0 →
        exec (.freg h d a b) s =
          .next ((s1.retire (putPred g d true) h).putMs l { m with cont := rd64 g h b })) ∧
      (m.phase = 1 → s.msWaits g l2 = false → s1.locBad l2 64 = true →
        exec (.freg h d a b) s = s1.traps g h { cause := .uncorr }) ∧
      (m.phase = 1 → s.msWaits g l2 = false → s1.locBad l2 64 = false →
        exec (.freg h d a b) s =
          .next ((s1.retire (putPred g d true) h).updRef g.id.ctx g.id.task (s1.joinCluster g.id.ctx l) (rd64 g h b)
            (.arrive 1 (if m.err ≠ 0 then 6 else 0)))) ∧
      (m.phase = 0 → m.cont ≠ 0 → exec (.freg h d a b) s = s1.goes (putPred g d false) h))

/-! Launches and windows (03 R45, R57, R60 to R63). -/

/-- 03 R45, R57, R60 to R63: LAUNCH by group 0 of a good record publishes, answers its serial and is accepted, or waits with the record that it copied while the table is full; RGROW and RSHRK change
the window at once where registers and loads allow, and trap with WINDOW on a size that is no multiple of 16 from 16 on, or above
REGMAX for a growth; PROBE of a milestone without a resolver goes on, and else sends a probe and waits. -/
def Obligations.LaunchAndWindowInstructions : Prop :=
  (∀ (s : State) (g : Group) (h : Hdr) (d a : Opd),
     (∀ l c b s1, s.issues (.launch h d a) g = true → s.launchOf g.id = some l → s.ctx? g.id.ctx = some c →
       g.id.grp = 0 → (rd64 g h a).toNat % 64 = 0 → s.readSpan g.id (rd64 g h a) 8 16 = .ok b → recordFault b = none →
       l.depth < 10 → (l.lrec.dmode = true → (LRec.ofBytes b).dmode = true) → s.released g .dev = some s1 →
       let s2 := s1.noteSpan g.id (rd64 g h a) 8 16
       (s2.tableFull c.no = false →
         exec (.launch h d a) s =
           .next ((s2.retire (putDest g d (c.serial.setWidth 64)) h).acceptLaunch c (LRec.ofBytes b) (l.depth + 1)
             (some l.serial)).1) ∧
       (s2.tableFull c.no = true → exec (.launch h d a) s = .next (s2.park g h (.launches d (LRec.ofBytes b))))) ∧
     (∀ l, s.issues (.rgrow h a) g = true → s.launchOf g.id = some l → (rd64 g h a).toNat % 16 = 0 →
       16 ≤ (rd64 g h a).toNat → (rd64 g h a).toNat ≤ l.lrec.regmax →
       ((rd64 g h a).toNat ≤ g.v.length → exec (.rgrow h a) s = s.goes g h) ∧
       (g.v.length < (rd64 g h a).toNat → l.lrec.logical = false →
         (s.growq.any fun r => (match s.group? r.gid with | some x => x.site = g.site | none => false)) = false →
         (rd64 g h a).toNat - g.v.length ≤ s.regsFree g.site →
         exec (.rgrow h a) s = s.goes (g.grow (rd64 g h a).toNat) h)) ∧
     (s.issues (.rshrk h a) g = true → (rd64 g h a).toNat % 16 = 0 → 16 ≤ (rd64 g h a).toNat →
       (rd64 g h a).toNat < g.v.length →
       emptyV g (rd64 g h a).toNat (g.v.length - (rd64 g h a).toNat) = false →
       exec (.rshrk h a) s =
         .next ((s.retire
           { g with
             v := g.v.take (rd64 g h a).toNat, full := g.full.take (rd64 g h a).toNat
             bad := g.inWindow (rd64 g h a).toNat } h).settleRegs g.site)) ∧
     (∀ l m, s.issues (.probe h a) g = true → s.msAt g (rd64 g h a) = some l → s.msThere l = some m →
       let s1 := s.askMs g l
       (m.resolver = 0 → exec (.probe h a) s = s1.goes g h) ∧
       (m.resolver ≠ 0 →
         ∃ s2 id, s1.fresh = (id, s2) ∧ exec (.probe h a) s =
           .next (State.park { s2 with probes := s2.probes ++
             [{ id, origin := g.id, target := m.resolver, hops := [], byInstr := true }] } g h .probe)))) ∧
  ∀ (s : State) (g : Group) (h : Hdr) (a : Opd),
    (∀ l, s.issues (.rgrow h a) g = true → s.launchOf g.id = some l →
      (rd64 g h a).toNat % 16 ≠ 0 ∨ (rd64 g h a).toNat < 16 ∨ l.lrec.regmax < (rd64 g h a).toNat →
      exec (.rgrow h a) s = s.traps g h { cause := .window }) ∧
    (s.issues (.rshrk h a) g = true → (rd64 g h a).toNat % 16 ≠ 0 ∨ (rd64 g h a).toNat < 16 →
      exec (.rshrk h a) s = s.traps g h { cause := .window })

/-! Quasi-random numbers (09 R178 to R184). -/

/-- 09 R179, R182 to R184: QLD loads dimensions from memory or from the standard set; QSET sets SCRAMBLE to bit 0 of its source;
QRS gives the points of its dimensions when the unit holds the context's state, waits while it does not, and traps with QRSDIM on a
dimension that is not loaded. -/
def Obligations.QuasiRandomInstructions : Prop :=
  ∀ (s : State) (g : Group) (h : Hdr) (ty : Ty) (d a b c : Opd) (x : Ctx), s.ctx? g.id.ctx = some x →
    (s.issues (.qld h .zero b c) g = true → rd32 g h c ≠ 0 → rd32 g h b ≤ x.qn → rd32 g h b + rd32 g h c ≤ 256 →
      exec (.qld h .zero b c) s =
        .next ((s.retire g h).updCtx g.id.ctx fun x =>
          x.loadDims (rd32 g h b) ((List.range (rd32 g h c)).map fun j => stdDim (rd32 g h b + j)))) ∧
    (∀ bs (n : Fin 128), s.issues (.qld h (.g n) b c) g = true → rd32 g h c ≠ 0 → rd32 g h b ≤ x.qn →
      rd32 g h b + rd32 g h c ≤ 256 → (rd64 g h (.g n)).toNat % 16 = 0 →
      s.readSpan g.id (rd64 g h (.g n)) 4 (68 * rd32 g h c) = .ok bs →
      exec (.qld h (.g n) b c) s =
        .next (((s.noteSpan g.id (rd64 g h (.g n)) 4 (68 * rd32 g h c)).retire g h).updCtx g.id.ctx fun x =>
          x.loadDims (rd32 g h b)
            ((List.range (rd32 g h c)).map fun j => QDim.ofBytes ((bs.drop (272 * j)).take 272)))) ∧
    (s.issues (.qset h a) g = true →
      exec (.qset h a) s =
        .next ((s.retire g h).updCtx g.id.ctx fun x => { x with scramble := rd32 g h a % 2 = 1 })) ∧
    (s.issues (.qrs h ty d a b) g = true → s.qunit g.site = some x.no → (∀ L ∈ lanesOf g h, rdN g h 32 b L < x.qn) →
      exec (.qrs h ty d a b) s =
        s.gives g h d 32 false fun L =>
          let y := (x.qrs (BitVec.ofNat 32 (rdN g h 32 a L)) (rdN g h 32 b L)).toNat
          if ty = .f32 then (fmtOf .f32).round .rne false 0 false (y / 256) (-24) else y) ∧
    (s.issues (.qrs h ty d a b) g = true → s.qunit g.site ≠ some x.no →
      exec (.qrs h ty d a b) s = .next (s.askQ g.site x.no)) ∧
    (∀ L, s.issues (.qrs h ty d a b) g = true → s.qunit g.site = some x.no → L ∈ lanesOf g h → x.qn ≤ rdN g h 32 b L →
      exec (.qrs h ty d a b) s =
        s.traps g h { cause := .qrsdim, lanes := maskOf ((lanesOf g h).filter fun L => x.qn ≤ rdN g h 32 b L) })

/-! The fabric (17 R303 to R329). -/

/-- 17 R307, R309 to R311: SABIND with a good pattern and milestone binds its slot, .dst sets the offset of the destination
milestone, .clr unbinds, and PCNT gives the derived count of a pattern; what the newly bound slot's allowance reads is the credit
of its hops (DESIGN CHOICE, log 9). A pattern that is not good, a slot number of 32 or more and an unbound slot trap with PATTERN. -/
def Obligations.SlotInstructions : Prop :=
  ∀ (s : State) (g : Group) (h : Hdr) (r : Fin 128) (a b c : Opd) (x : Ctx), s.ctx? g.id.ctx = some x →
    let k := rd32 g h a
    let bound : Binding := { pat := rd64 g h b, ms := rd64 g h c, cluster := g.site.cluster, dst := 0 }
    (s.issues (.sabind h a b c) g = true → 32 ≤ k → exec (.sabind h a b c) s = s.traps g h { cause := .pattern }) ∧
    (s.issues (.sabind h a b c) g = true → k < 32 → (s.place x.part).ok (rd64 g h b) = false →
      exec (.sabind h a b c) s = s.traps g h { cause := .pattern }) ∧
    (s.issues (.sabind h a b c) g = true → k < 32 → (s.place x.part).ok (rd64 g h b) = true → rd64 g h c = 0 →
      exec (.sabind h a b c) s = .next ((s.retire g h).bind x k (some bound))) ∧
    (∀ l, s.issues (.sabind h a b c) g = true → k < 32 → (s.place x.part).ok (rd64 g h b) = true → rd64 g h c ≠ 0 →
      s.mref g.id.ctx g.site.cluster (rd64 g h c) = .ok l → (s.locSpan l).held = false →
      exec (.sabind h a b c) s = .next ((s.retire g h).bind x k (some bound))) ∧
    (∀ y rg, s.issues (.sabindDst h a b) g = true → k < 32 → x.binding? k = some y → s.fabricRange x = some rg →
      (rd64 g h b).toNat % 64 = 0 → (rd64 g h b).toNat ≤ rg.limit.toNat - rg.base.toNat →
      exec (.sabindDst h a b) s =
        .next ((s.retire g h).updCtx x.no fun c =>
          { c with slots := c.slots.map fun z => if z.1 = k then (k, { y with dst := (rd64 g h b).toNat }) else z })) ∧
    (s.issues (.sabindDst h a b) g = true → k < 32 → x.binding? k = none →
      exec (.sabindDst h a b) s = s.traps g h { cause := .pattern }) ∧
    (s.issues (.sabindClr h a) g = true → k < 32 →
      exec (.sabindClr h a) s = .next ((s.retire g h).bind x k none)) ∧
    (s.issues (.pcnt h (.g r) a) g = true → (s.place x.part).ok (rd64 g h a) = true →
      exec (.pcnt h (.g r) a) s =
        s.goes (g.putG r.val (BitVec.ofNat 64 ((s.place x.part).count (rd64 g h a)))) h) ∧
    (s.issues (.pcnt h (.g r) a) g = true → (s.place x.part).ok (rd64 g h a) = false →
      exec (.pcnt h (.g r) a) s = s.traps g h { cause := .pattern })

/-- 17 R308, R313, R323: RST whose checks pass does nothing without an active lane or a destination; else, the link to the port die not
being fenced (19 R347), it takes one unit for each 256 bytes of its sectors, at least one, raises EXPECT by the acknowledgements to come,
is noted for the releases that wait for its landing (07 R145; the model's reading, log 4), and sends its lanes' bytes; without the units it parks in its slot's queue. RCOPY starts a remote template that is defined and allowed
to be remote, after raising EXPECT by the acknowledgements to come, whose time starts with the last segment (the model's choice, log
60); any other index, and a remote template with MODE above 1 or with DSTCW set, traps with TMPL. -/
def Obligations.RemoteStoresSend : Prop :=
  (∀ (s : State) (g : Group) (h : Hdr) (ty : Ty) (d a b : Opd) (c : Ctx) (p : Place5) (k base : Nat) (x : Binding),
     s.issues (.rst h ty d a b) g = true → s.slotAt g h b = some (c, p, k, x) →
     s.checkRemote c h (ty.bits / 8) (remoteAddrs g h a) = .inr base →
     let addrs := remoteAddrs g h a
     let offs := addrs.map fun y => (y.1, y.2.toNat - base)
     let cost := max 1 ((32 * (offs.map fun y => y.2 / 32).dedup.length + 255) / 256)
     (addrs = [] ∨ p.count x.pat = 0 → exec (.rst h ty d a b) s = (s.unq g.id).goes g h) ∧
     (addrs ≠ [] → p.count x.pat ≠ 0 → s.portFenced g.site.cluster = false → cost ≤ c.allowance k →
       exec (.rst h ty d a b) s =
         .next ((((((s.charge g c k cost).retire g h).expectAcks g x (p.dests x.pat) s.tick
           (some (s.now + s.timeout))).noteSent g.id p s.tick).send c.part p x cost 
             (mkBody s p k x (.store (offs.map fun y => (y.2, leBytes (ty.bits / 8) (rd g h ty d y.1))))
               (ackTo x p.coord s.tick) s.tick)))) ∧
     (addrs ≠ [] → p.count x.pat ≠ 0 → s.portFenced g.site.cluster = false → c.allowance k < cost →
       exec (.rst h ty d a b) s =
         .next (State.park (if s.allowq.contains (k, g.id) then s
           else { s.unq g.id with allowq := (s.unq g.id).allowq ++ [(k, g.id)] }) g h (.allowance k cost)))) ∧
  ∀ (s : State) (g : Group) (h : Hdr) (a b : Opd) (c : Ctx) (p : Place5) (k : Nat) (bd : Binding),
    s.issues (.rcopy h a b) g = true → s.slotAt g h a = some (c, p, k, bd) →
    let x := rd64 g h b
    (∀ t id s1, x.toNat < 2 ^ 54 → apIndex x < 4096 → c.template? (apIndex x) = some t → tmplRemote t = true →
      nat8 t 0 1 ≤ 1 → bitsN (nat8 t 2 2) 2 2 ≠ 1 → s.fabricRange c ≠ none → (s.retire g h).fresh = (id, s1) →
      exec (.rcopy h a b) s =
        .next ((s1.expectAcks g bd (p.dests bd.pat) id none).offer
          { id, ctx := g.id.ctx, gid := some g.id, task := g.id.task, cluster := g.site.cluster
            channel := bitsN x.toNat 53 48, idx := apIndex x, tmpl := t, param := apParam x
            vectorOnly := s.vectorOnly g.id, remote := some (k, bd), st := .queued })) ∧
    (2 ^ 54 ≤ x.toNat ∨ 4096 ≤ apIndex x ∨ c.template? (apIndex x) = none →
      exec (.rcopy h a b) s = s.traps g h { cause := .tmpl }) ∧
    (∀ t, c.template? (apIndex x) = some t → tmplRemote t = false ∨ 1 < nat8 t 0 1 ∨ bitsN (nat8 t 2 2) 2 2 = 1 →
      exec (.rcopy h a b) s = s.traps g h { cause := .tmpl })

/-- 17 R308, R314 to R316: RRED with good patterns and a good address contributes the values of its 32 lanes to the
reduction of its address, format, operation and source pattern, in the round that follows its device's last one, and is noted for the
releases that wait for its landing (07 R145; the model's reading, log 4). -/
def Obligations.RemoteReductionsContribute : Prop :=
  ∀ (s : State) (g : Group) (h : Hdr) (fn : FoldFn) (ty : Ty) (d a b c : Opd) (x : Ctx) (p : Place5) (k b0 : Nat)
    (bd : Binding),
    let w := ty.bits / 8
    let src := rd64 g h c
    let base := rd64 g h a
    s.issues (.rred h fn ty d a b c) g = true → s.slotAt g h b = some (x, p, k, bd) → p.ok bd.pat = true →
    p.single bd.pat = true → p.ok src = true → patNself src = false → patAck src = false →
    inBox p.coord (p.box src) = true → base.toNat % (32 * w) = 0 → s.checkRemote x h (32 * w) [(0, base)] = .inr b0 →
    (lanesOf g h = [] → exec (.rred h fn ty d a b c) s = (s.unq g.id).goes g h) ∧
    (lanesOf g h ≠ [] → s.portFenced g.site.cluster = false → (32 * w + 255) / 256 ≤ x.allowance k →
      exec (.rred h fn ty d a b c) s =
        let dst := (p.box bd.pat).map (·.1)
        let s2 := ((s.charge g x k ((32 * w + 255) / 256)).retire g h).expectAcks g bd [dst] s.tick
          (some (s.now + s.timeout))
        let ct : Contribution :=
          { job := p.jobNo, origin := { src := p.coord, slot := k, seq := s.tick }, dst, base := base.toNat - b0, op := fn
            ty, srcPat := resolvePat p.sizes p.coord src, round := 0
            elems := (foldVals g h fn ty d).map fun v => BitVec.ofNat 64 v, msOff := bd.dst
            ack := patAck bd.pat && bd.ms ≠ 0, tag := s.tick }
        .next (((s2.noteSent g.id p s.tick).setRedCount ct (s2.redCount ct + 1)).joinRound { ct with round := s2.redCount ct }))

/-- 17 R308, R319 to R322: RATOM and RLD to one destination take one unit, mark their destination empty and await a
response; RATOM raises EXPECT where acknowledgements are asked for, and names the slot's destination milestone for an error; without an
active lane they retire. That RATOM with D = Z pushes 0 and still awaits a response is the model's choice (log 47). -/
def Obligations.RemoteReadsSend : Prop :=
  ∀ (s : State) (g : Group) (h : Hdr) (fn : AtomFn) (ty : Ty) (d a b slot : Opd) (c : Ctx) (p : Place5) (k base : Nat)
    (x : Binding), s.slotAt g h slot = some (c, p, k, x) → p.ok x.pat = true → p.single x.pat = true →
    s.checkRemote c h (ty.bits / 8) (remoteAddrs g h a) = .inr base →
    let addrs := remoteAddrs g h a
    let offs := addrs.map fun y => (y.1, y.2.toNat - base)
    let g1 := if d.isZ then g.pushZero h else g
    let asked := (s.charge g c k 1).addLoad g1 h (ldst d ty.regs) (.remote ty h.g x.ms x.cluster addrs (s.now + s.timeout))
    (addrs = [] →
      (s.issues (.ratom h fn ty d a b slot) g = true → exec (.ratom h fn ty d a b slot) s = (s.unq g.id).goes g1 h) ∧
      (s.issues (.rld h ty d a slot) g = true → exec (.rld h ty d a slot) s = (s.unq g.id).goes g1 h)) ∧
    (addrs ≠ [] → s.portFenced g.site.cluster = false → 1 ≤ c.allowance k →
      (s.issues (.ratom h fn ty d a b slot) g = true →
        exec (.ratom h fn ty d a b slot) s =
          .next ((asked.expectAcks g x [(p.box x.pat).map (·.1)] s.tick (some (s.now + s.timeout))).send c.part p x 1
            (mkBody s p k x
              (.atom fn ty (offs.map fun y =>
                let v := atomArg g h fn ty b y.1
                (y.1, y.2, BitVec.ofNat 64 (v % 2 ^ ty.bits), BitVec.ofNat 64 (v / 2 ^ ty.bits))))
              (ackTo x p.coord s.tick) s.tick))) ∧
      (s.issues (.rld h ty d a slot) g = true →
        exec (.rld h ty d a slot) s =
          .next (asked.send c.part p x 1 { mkBody s p k x (.load (ty.bits / 8) offs) [] s.tick with msOff := 0 })))

/-! The matrix units (15 R275 to R300; 09 R151, R152, R174 to R177). -/

/-- 15 R276, R277, R288, R291: with a good format block, scales and metadata, MMA and MMAS enter the queue of the unit of their
control word when it has room and no group waits there; .new first takes the lowest free slot, which it answers, and parks without
one. MMA traps with ILL on a disabled unit, parks while another context holds the unit, and traps with ACCSLOT when its slot is not
allocated to its context. The reads ask for their lines as loads do (11 R196). That the metadata of MMAS, like the format block and the
scales, may be addressed in either form of a reference is the model's choice (log 121). -/
def Obligations.MatrixStepsAreQueued : Prop :=
  (∀ (s : State) (g : Group) (h : Hdr) (d a b c : Opd) (fb sc md : List Byte),
     let ctl := rd64 g h a
     let u := g.unitOf ctl
     let m := s.munit u
     let f := FmtBlock.ofBytes fb
     let K := fmtK f.afmt
     let step (na : Nat) (md : Option (List Byte)) : MStep :=
       { id := s.tick, ctx := g.id.ctx, gid := g.id, slot := ctlSlot ctl, fmt := f
         ascale := sc.take (if f.abl = 0 then 0 else na), bscale := sc.drop (if f.abl = 0 then 0 else na), mdata := md }
     let asked (klog : Nat) : State := (s.noteRef g (rd64 g h b) 32).noteScales g f fb klog
     let askedS : State := (asked (2 * K)).noteRef g (rd64 g h c) (128 * (K / 4))
     let queued (s : State) (g : Group) (t : MStep) : Out := .next ((s.queueStep u t).retire { g with granted := none } h)
     let taken (s : State) (k : Nat) : State := s.setUnit u (m.allocate k g.id.ctx)
     let named (k : Nat) : Group := { putDest g d (BitVec.ofNat 64 k) with granted := some (u, k) }
     s.unitOff g ctl = false → s.unitFenced u = false → m.heldByOther g.id.ctx = false → (rd64 g h b).toNat % 32 = 0 →
     s.readRef g (rd64 g h b) 8 4 = .ok fb → m.full = false → s.parkedBy (Park.onSteps u) = [] →
     (f.ok fb false = true → s.readScales g f fb K = .ok sc →
       (s.issues (.mma h a b) g = true → (m.slot (ctlSlot ctl)).allocated g.id.ctx = true →
         exec (.mma h a b) s = queued (asked K) g (step (128 * (K / 2 ^ f.abl)) none)) ∧
       (∀ k, s.issues (.mmaNew h d a b) g = true → g.granted = none → m.freeSlot? = some k →
         s.parkedBy (Park.onSlot u) = [] →
         exec (.mmaNew h d a b) s = queued (taken (asked K) k) (named k) { step (128 * (K / 2 ^ f.abl)) none with slot := k })) ∧
     (f.ok fb true = true → s.readScales g f fb (2 * K) = .ok sc → (rd64 g h c).toNat % 64 = 0 →
       s.readRef g (rd64 g h c) 1 (128 * (K / 4)) = .ok md →
       (s.issues (.mmas h a b c) g = true → (m.slot (ctlSlot ctl)).allocated g.id.ctx = true →
         exec (.mmas h a b c) s = queued askedS g (step (128 * (2 * K / 2 ^ f.abl)) (some md))) ∧
       (∀ k, s.issues (.mmasNew h d a b c) g = true → g.granted = none → m.freeSlot? = some k →
         s.parkedBy (Park.onSlot u) = [] →
         exec (.mmasNew h d a b c) s =
           queued (taken askedS k) (named k) { step (128 * (2 * K / 2 ^ f.abl)) (some md) with slot := k }))) ∧
  ∀ (s : State) (g : Group) (h : Hdr) (d a b : Opd),
    let ctl := rd64 g h a
    let u := g.unitOf ctl
    let m := s.munit u
    (s.unitOff g ctl = true → s.issues (.mma h a b) g = true →
      exec (.mma h a b) s = s.traps g h { cause := .ill }) ∧
    (s.unitOff g ctl = false → s.unitFenced u = false → m.heldByOther g.id.ctx = true → s.issues (.mma h a b) g = true →
      exec (.mma h a b) s = .next (s.park g h (.unit u))) ∧
    (s.unitOff g ctl = false → s.unitFenced u = false → m.heldByOther g.id.ctx = false →
      (m.slot (ctlSlot ctl)).allocated g.id.ctx = false → s.issues (.mma h a b) g = true → exec (.mma h a b) s = s.traps g h { cause := .accslot }) ∧
    (∀ fb, s.unitOff g ctl = false → s.unitFenced u = false → m.heldByOther g.id.ctx = false → (rd64 g h b).toNat % 32 = 0 →
      s.readRef g (rd64 g h b) 8 4 = .ok fb → (FmtBlock.ofBytes fb).ok fb false = true → (FmtBlock.ofBytes fb).abl = 0 →
      (FmtBlock.ofBytes fb).bbl = 0 → m.freeSlot? = none → g.granted = none → s.issues (.mmaNew h d a b) g = true →
      ∃ t : MStep, t.slot = ctlSlot ctl ∧
        exec (.mmaNew h d a b) s = .next ((s.noteRef g (rd64 g h b) 32).park g h (.accslot u d t)))

/-- 15 R289, R292, R293, R296, R299: ACCREL releases its slot and traps with ACCSLOT on another; ACCDR leaves a drain outstanding,
to be read at its unit; CBLD without a step under way loads the codebook; STRM counts tiles, and drops the leading ones. -/
def Obligations.UnitInstructions : Prop :=
  ∀ (s : State) (g : Group) (h : Hdr) (ty : Ty) (r : Fin 128) (d a b : Opd),
    let ctl := rd64 g h a
    let u := g.unitOf ctl
    let m := s.munit u
    let k := ctlSlot ctl
    (s.unitOff g ctl = false → s.unitFenced u = false →
      (s.issues (.accrel h a) g = true → (m.slot k).allocated g.id.ctx = true →
        exec (.accrel h a) s =
          .next (((s.retire g h).setUnit u (m.setSlot k
            { m.slot k with wait := some ((m.steps.filter fun t => t.slot = k).map fun t => t.id) })).unitService u)) ∧
      (s.issues (.accrel h a) g = true → (m.slot k).allocated g.id.ctx = false →
        exec (.accrel h a) s = s.traps g h { cause := .accslot }) ∧
      (s.issues (.accdr h ty d a b) g = true → s.vectorOnly g.id = false → lanesOf g h ≠ [] →
        exec (.accdr h ty d a b) s =
          .next (s.addLoad g h (ldst d (if ty = .f32 then 2 else 1))
            (.acc u k (rd32 g h b % 128) (lanesOf g h) (ty = .bf16)))) ∧
      (s.issues (.accdr h ty d a b) g = true → s.vectorOnly g.id = false → lanesOf g h = [] →
        exec (.accdr h ty d a b) s = s.goes g h) ∧
      (s.issues (.strmCnt h (.g r) a) g = true → m.heldByOther g.id.ctx = false →
        exec (.strmCnt h (.g r) a) s =
          s.goes (g.putG r.val
            (BitVec.ofNat 64 (8 * (m.counts (ctlB ctl)).2 + (m.counts (ctlB ctl)).1))) h) ∧
      (s.issues (.strmDrop h d a b) g = true → m.heldByOther g.id.ctx = false → m.steps = [] → rd32 g h b ≠ 0 →
        exec (.strmDrop h d a b) s =
          let n := min (rd32 g h b) (m.counts (ctlB ctl)).1
          .next (((s.retire (putDest g d (BitVec.ofNat 64 n)) h).setUnit u
            (m.setStream (ctlB ctl) ((m.stream (ctlB ctl)).drop n))).unitService u))) ∧
    (∀ bs, s.issues (.cbld h a) g = true → ctl.toNat % 64 = 0 → s.stepIds g.id.ctx = [] →
      s.readSpan g.id ctl 4 256 = .ok bs →
      exec (.cbld h a) s =
        .next (((s.noteSpan g.id ctl 4 256).updCtx g.id.ctx fun c => { c with codebook := codebookOf bs }).retire g h))

/-- 15 R294, R298; 09 R152: CMPS keeps two of every four elements, lowest place first, its values or their places, and none that it
leaves ranks above one that it keeps; CBDEC writes the weights of an index in its format. -/
def Obligations.CompressionResults : Prop :=
  (∀ (s : State) (g : Group) (h : Hdr) (ty : Ty) (d a b : Opd) (x : Ctx), s.ctx? g.id.ctx = some x →
     let kept (L : Nat) := keptAll ty (rdN g h 64 a L)
     let weight (ty : Ty) (L n : Nat) : Nat := weightPat (fmtOf ty) x.codebook (rdN g h 16 a L) n
     (s.issues (.cmpsVal h ty d a) g = true →
       exec (.cmpsVal h ty d a) s =
         s.gives g h d 32 false fun L =>
           (((kept L).zipIdx.map fun ((q, t), i) =>
             rdN g h 64 a L / 2 ^ (ty.bits * (4 * q + t)) % 2 ^ ty.bits * 2 ^ (ty.bits * i)).foldl (· + ·) 0)) ∧
     (s.issues (.cmpsMeta h ty d a) g = true →
       exec (.cmpsMeta h ty d a) s =
         s.gives g h d 32 false fun L =>
           ((kept L).zipIdx.map fun ((_, t), i) => t * 2 ^ (2 * i)).foldl (· + ·) 0) ∧
     (s.issues (.cbdec h .f32 d a b) g = true →
       exec (.cbdec h .f32 d a b) s = s.gives g h d 32 false fun L => weight .f32 L (rdN g h 32 b L % 8)) ∧
     (s.issues (.cbdec h .e4m3 d a b) g = true →
       exec (.cbdec h .e4m3 d a b) s =
         s.gives g h d 32 false fun L =>
           ((List.range 4).map fun n => weight .e4m3 L (4 * (rdN g h 32 b L % 2) + n) * 2 ^ (8 * n)).foldl (· + ·) 0) ∧
     (s.issues (.cbdec h ty d a b) g = true → ty ≠ .f32 → ty ≠ .e4m3 →
       exec (.cbdec h ty d a b) s =
         s.gives g h d 32 false fun L =>
           weight ty L (2 * (rdN g h 32 b L % 4)) + 65536 * weight ty L (2 * (rdN g h 32 b L % 4) + 1))) ∧
  ∀ (ty : Ty) (e : Nat → Nat), ∃ i j, keptOf ty e = [i, j] ∧ i < j ∧ j < 4 ∧
    ∀ n < 4, n ≠ i → n ≠ j → ranksAbove ty (e n) (e i) = false ∧ ranksAbove ty (e n) (e j) = false

/-- 15 R278, R281, R286; 09 R175 to R177: a step whose tiles stand whole at the heads of its streams begins; one that has begun adds
its products to its slot and consumes its tiles, and with tiles of a wrong class makes every element NaN and is reported; ACCDR
then reads a row of its slot, after what the same group's earlier ones there read (07 R144). -/
def Obligations.MatrixUnitSteps : Prop :=
  ∀ (s : State) (u n : Nat) (t : MStep) (rest : List MStep) (l : Load), u < 128 →
    let m := s.munit u
    (m.steps = t :: rest → t.begun = false → m.ready t = true →
      exec (.matrixStepBegin u) s = .next (s.setUnit u { m with steps := { t with begun := true } :: rest })) ∧
    (∀ c p, m.steps = t :: rest → t.begun = true → m.ready t = true → s.ctx? t.ctx = some c → m.a.head? = some p →
      let bs := m.b.take t.nb
      let done (x : Slot) : State :=
        s.setUnit u { (m.setSlot t.slot x) with steps := rest, a := m.a.drop 1, b := m.b.drop t.nb }
      let tile (p : Option TilePos) : List Byte := match p with | some p => p.bytes | none => []
      (p.esize = fmtEsize t.fmt.afmt → (∀ q ∈ bs, q.esize = fmtEsize t.fmt.bfmt) →
        exec (.matrixStepComplete u) s =
          .next ((done ((m.slot t.slot).step ((List.range 8192).map fun e =>
            t.prods c.codebook p.bytes (tile bs.head?) (tile bs[1]?) (e / 64) (e % 64)))).unitService u)) ∧
      (p.esize ≠ fmtEsize t.fmt.afmt ∨ (∃ q ∈ bs, q.esize ≠ fmtEsize t.fmt.bfmt) →
        exec (.matrixStepComplete u) s =
          .next (((done { m.slot t.slot with elems := List.replicate 8192 (.nan, 0), bad := [] }).reportCtx t.ctx
            (engineReport t.ctx 4 0 0 0 (u % 32) t.gid.task 0 (s.posOf (u / 32)))).unitService u))) ∧
    (∀ k row lanes bf, (s.loads.filter fun l => l.kind.isAcc)[n]? = some l → l.kind = .acc u k row lanes bf →
      (s.drainBehind l u k = true → exec (.accdrRead n) s = .next s) ∧
      (s.drainBehind l u k = false → ((s.munit u).slot k).allocated l.gid.ctx = false →
        exec (.accdrRead n) s = .next (s.failLoad l { cause := .accslot })) ∧
      (s.drainBehind l u k = false → ((s.munit u).slot k).allocated l.gid.ctx = true → row ∉ ((s.munit u).slot k).bad →
        exec (.accdrRead n) s =
          .next { s with loads := s.loads.map fun y =>
            if y.id = l.id then { y with kind := .mem (((s.munit u).slot k).row row lanes bf) none } else y }))

/-- 09 R175 to R177: a step never lowers a slot's exponent, and gives every element its rule's value at the new one; an element that
is NaN stays NaN, and drains as NaN. -/
def Obligations.AccumulatorExponentOnlyRises : Prop :=
  ∀ (x : Slot) (prods : List (List FVal)) (n : Nat) (f : Fmt),
    x.e ≤ (x.step prods).e ∧
    (∀ v ps, x.all[n]? = some v → prods[n]? = some ps → (x.step prods).elems[n]? = some (stepElem x.e (x.step prods).e v ps)) ∧
    (∀ ps, x.all[n]? = some (.nan, 0) → prods[n]? = some ps → (x.step prods).elems[n]? = some (.nan, 0)) ∧
    (∀ e, drainElem f e (.nan, 0) = f.nan)

/-! Steps of the cores and distributors (03 R36 to R64; 05 R77; 07 R111, R120; 09 R179; 19 R333 to R339). -/

/-- 03 R41, R42, R46 to R48, R55, R56, R58, R59, R63; 05 R77; 07 R146; 09 R179: a slot takes the leg that the order of 03 R48 picks; a
logical core's rotation goes on behind the picked group, and a physical core turns to its next logical core; data lands and marks
its registers full, or ends in a trap to come; a quasi-random unit takes the state that was asked for first. A core sends a probe
along the first wait-for edge of a group that has been blocked for as long as %wft says; it dies at a task that runs and after 16
hops, goes on along the edge of a blocked one, and back at its origin raises DEADLOCK while that is still blocked; the end of PROBE's
own probe lets its group go on. That a probe at its origin is delivered without a look at the other groups there, and that the list of
15 hops is kept whole (log 36), that the quasi-random unit takes the state that was asked for first (DESIGN CHOICE, log 113: 09 R179
gives no order), and that a core turns at once while its team is off it for a reason that 03 R56 does not name (DESIGN CHOICE, log 119),
is the model's choice. -/
def Obligations.CoreSteps : Prop :=
  (∀ (s : State) (site : Site) (slot n core : Nat) (g : Group) (l : Load) (q : Nat × Nat),
     (slot < slotsOf site → s.inSlot site slot = none → s.pick site slot = some g →
       exec (.legIssue site slot) s =
         .next (if s.logicalGroup g then
             (s.setGroup { g with st := .issuing slot }).updTeam g.id.ctx g.id.task fun t =>
               { t with turn := g.id.grp + 1, inLeg := some g.id.grp }
           else s.setGroup { g with st := .issuing slot })) ∧
     (∀ h k t, s.hostings.find? (fun h => h.core = core) = some h → cyclic (s.logicalWork core) h.lcore = some k →
       k ≠ h.lcore ∨ h.done = true → s.switchDue h = true → s.hosted core = some t →
       exec (.dmodeTimeshareSwitch core) s =
         .next (State.leave
           { s with hostings := s.hostings.map fun x => if x.core = core then { x with lcore := k, waits := none, done := false } else x }
           t.ctx t.task .timeshare [])) ∧
     (∀ vals, (s.loads.filter fun l => l.kind.isMem)[n]? = some l → l.kind = .mem vals none →
       exec (.loadDataLands n) s =
         .next (State.updGroup { s with loads := s.loads.filter fun x => x.id ≠ l.id } l.gid fun g => g.landed l.dst vals)) ∧
     (∀ vals lanes, (s.loads.filter fun l => l.kind.isMem)[n]? = some l → l.kind = .mem vals (some lanes) →
       exec (.loadDataLands n) s = .next (s.failLoad l { cause := .uncorr, lanes })) ∧
     (s.qloads.find? (fun q => q.1 = core) = some q →
       exec (.qrsStateLoad core) s =
         .next { s with qloads := s.qloads.erase q, qunits := (s.qunits.filter fun x => x.1 ≠ core) ++ [q] })) ∧
  ∀ (s : State) (n : Nat) (g : Group) (p : Probe) (t : Team) (r : W64),
    (∀ s1 id, s.group? g.id = some g → s.probeDue g = true → s.edge edgeFuel g = some r →
      (s.setGroup { g with probeAt := g.probeAt + g.wft.toNat }).fresh = (id, s1) →
      exec (.probeTimer g.id) s =
        .next { s1 with probes := s1.probes ++ [{ id, origin := g.id, target := r, hops := [], byInstr := false }] }) ∧
    (s.probes[n]? = some p →
      (let s1 : State := { s with probes := s.probes.filter fun x => x.id ≠ p.id }
       p.target = p.origin.task → s.group? p.origin = some g → g.isParked = true → s1.busy g = false →
        s.handlerWaits g = false →
        exec (.probeHop n) s = .next (s1.deadlock g p.hops)) ∧
      (p.target ≠ p.origin.task → 15 ≤ p.hops.length → exec (.probeHop n) s = .next (s.probeDies p)) ∧
      (p.target ≠ p.origin.task → p.hops.length < 15 → s.team? p.origin.ctx p.target = some t →
        ((s.groupsOf p.origin.ctx p.target).filter fun g => g.st ≠ .exited).any s.busy = true →
        exec (.probeHop n) s = .next (s.probeDies p)) ∧
      (p.target ≠ p.origin.task → p.hops.length < 15 → s.team? p.origin.ctx p.target = some t → t.missing = [] →
        ((s.groupsOf p.origin.ctx p.target).filter fun g => g.st ≠ .exited) = [g] → s.busy g = false →
        s.edge edgeFuel g = some r →
        exec (.probeHop n) s =
          .next { s with probes := s.probes.map fun x =>
            if x.id = p.id then { p with target := r, hops := p.hops ++ [p.target] } else x })) ∧
    (p.byInstr = true → s.group? p.origin = some g → g.st = .parked .probe →
      s.probeDies p = State.complete { s with probes := s.probes.filter fun x => x.id ≠ p.id } g)

/-- 03 R31, R36, R41 to R43, R59; 07 R130: a distributor admits the head of its queue where it fits, each of its groups starting with its
window of zeros, g0 the parameter pointer, %exm all ones, %wft 2^20 (R59, R130) and pc CODE; that %ric starts at 0 is the model's choice
(log 31). Of the state before the steal messages are sent, only its groups are said. A steal message is answered with the
highest-numbered half of the unstarted teams, and the answer hands them over. -/
def Obligations.TeamsStartAndMove : Prop :=
  ∀ (s : State) (cluster n : Nat) (t : Team) (l : Launch) (c : Ctx) (x : Spot) (m : Steal),
    (cluster < 4 → s.admitting cluster = true → s.queueHead cluster = some t → s.spot cluster t = some x →
      s.launch? t.ctx t.serial = some l → s.ctx? t.ctx = some c → l.lrec.logical = false → t.requeued = false →
      ∃ s1 : State, exec (.teamAdmit cluster) s = .next (s1.sendSteals cluster) ∧
        s1.groups = s.groups ++ x.sites.map fun (i, site) =>
          newGroup l.lrec { ctx := t.ctx, task := t.task, grp := i } site s.now) ∧
    (∀ (r : LRec) (id : GroupId) (site : Site) (now : Nat), let g := newGroup r id site now
      g.v = List.replicate r.regs zeroRow ∧ g.gAt 0 = r.params ∧ (∀ j, 0 < j → g.gAt j = 0) ∧ g.exm = fullMask ∧
        g.stack = [] ∧ g.pc = r.code ∧ g.block = none ∧ g.ric = 0 ∧ g.wft = 0x100000 ∧ g.ftv = r.ftv ∧ g.tmask = false) ∧
    (cluster < 4 → s.admitNext cluster = none → exec (.teamAdmit cluster) s = .next (s.sendSteals cluster)) ∧
    ((s.steals.filter fun x => x.answer.isNone)[n]? = some m → s.launch? m.ctx m.serial = some l →
      let ts := sortBy (fun (a b : Team) => b.idx < a.idx) (s.unstarted l m.asked)
      let give := (ts.take (ts.length / 2)).map fun t => t.task
      exec (.stealMessage n) s =
        .next { s with
          teams := s.teams.map fun t => if t.ctx = m.ctx && give.contains t.task then { t with st := .moving } else t
          steals := s.steals.map fun y => if y.id = m.id then { y with answer := some give } else y }) ∧
    (∀ got, (s.steals.filter fun x => x.answer.isSome)[n]? = some m → m.answer = some got →
      exec (.stealHandover n) s =
        .next { s with
          teams := s.teams.map fun t =>
            if t.ctx = m.ctx && got.contains t.task then { t with st := .queued, cluster := m.asker } else t
          steals := s.steals.filter fun y => y.id ≠ m.id })

/-- 03 R39, R53, R364; 07 R111, R120; 13 R246; 19 R333, R335, R337 to R339, R348: an exited group whose loads have landed is released;
a team without groups publishes its version and retires, and waits for the pages that it lacks; a launch whose teams and launches are
gone arrives at DONEMS, then resolves RESOLVES, each where it names one, then is gone, and waits for a page that one of them lacks; an
abort's discard is followed by its report; a drained team leaves its image in its cluster's pool, waits where the pool lacks the frames,
and ends with UNCORR where it has uncorrectable data.

17 R317, R321, R322, R325, R329: an acknowledgement that is awaited arrives at its slot's milestone, or sets its error there; the last
one that is missing at its time sets ERR 3, unless its round still decides; a response fills its load, or ends it with PROT at the
lowest lane's address or with UNCORR, and its slot's milestone takes the error; an acknowledgement sealed under an old key is dropped and
counted; without a response the load ends with MSERR at its time and the milestone takes ERR 3; a round that lacks a contribution at its time is abandoned, its contributors' milestones and the destination's
take ERR 6, and each device that had not contributed has missed it. That a G = 1 form gives %tlane 0 is the model's choice (log 17), and
so are whom a round counts as having contributed and whose destination milestone it names (log 59), that a peer outside the package
whose acknowledgement is missing at its time counts as having reset, and what is tested for an old key (log 127). -/
def Obligations.EndsOfWork : Prop :=
  (∀ (s : State) (g : Group) (t : Team) (l : Launch) (c : Ctx),
     (s.group? g.id = some g → s.releaseDue g = true →
       exec (.groupRelease g.id) s =
         .next (State.settleRegs { s with groups := s.groups.filter fun x => x.id ≠ g.id } g.site)) ∧
     (s.team? t.ctx t.task = some t → s.retireDue t = true →
       ((s.publish t.ctx t.task).2 = [] →
         exec (.teamRetire t.ctx t.task) s =
           .next (if (s.publish t.ctx t.task).1.published t.ctx t.task then (s.publish t.ctx t.task).1.dropTeam t
             else (s.publish t.ctx t.task).1)) ∧
       (∀ m ms, (s.publish t.ctx t.task).2 = m :: ms →
         exec (.teamRetire t.ctx t.task) s =
           .next (((s.publish t.ctx t.task).1.reportMiss t.ctx (m :: ms) t.task).updTeam t.ctx t.task fun t =>
             { t with st := .retiring, missing := (m :: ms).map (·.1) }))) ∧
     (s.launch? l.ctx l.serial = some l → s.launchDone l = true → l.step = 0 →
       let err := if l.aborted then 6 else 0
       let free (s : State) (r : W64) : Prop :=
         r = 0 ∨ ∃ loc, s.mref l.ctx (s.lowCluster l.ctx) r = .ok loc ∧ s.locUnreached (s.lowCluster l.ctx) loc = false ∧ s.locBad loc 64 = false
       let upd (s : State) (r : W64) (u : MsUpd) : State := if r = 0 then s else s.updRef l.ctx 0 (s.lowCluster l.ctx) r u
       let s1 := (upd s l.lrec.donems (.arrive 1 err)).updLaunch l.ctx l.serial fun x => { x with step := 2 }
       let s2 := (upd s1 l.lrec.resolves (.resolve (l.serial.setWidth 64) err)).updLaunch l.ctx l.serial fun x =>
         { x with step := 3 }
       (free s l.lrec.donems → free s1 l.lrec.resolves →
         exec (.launchRetire l.ctx l.serial) s = .next (s2.dropLaunch { l with step := 3 })) ∧
       (∀ ms, l.lrec.donems ≠ 0 → s.mref l.ctx (s.lowCluster l.ctx) l.lrec.donems = .miss ms →
         exec (.launchRetire l.ctx l.serial) s =
           .next ((s.reportMiss l.ctx ms).updLaunch l.ctx l.serial fun x => { x with waits := ms.map (·.1) })) ∧
       (∀ ms, free s l.lrec.donems → l.lrec.resolves ≠ 0 → s1.mref l.ctx (s1.lowCluster l.ctx) l.lrec.resolves = .miss ms →
         exec (.launchRetire l.ctx l.serial) s =
           .next ((s1.reportMiss l.ctx ms).updLaunch l.ctx l.serial fun x => { x with waits := ms.map (·.1) }))) ∧
     (∀ body, s.team? t.ctx t.task = some t → t.st = .aborting body →
       exec (.abortDiscardDone t.ctx t.task) s =
         let s1 : State := { s with groups := s.groups.filter fun g => !(g.id.ctx = t.ctx && g.id.task = t.task) }
         .next ((((s.groupsOf t.ctx t.task).map fun g => g.site).dedup).foldl (fun s x => s.settleRegs x)
           (((s1.dropTeam t).updLaunch t.ctx t.serial fun l => { l with aborted := true }).reportCtx t.ctx
             { type := 1, body := layout 240 [(0, body)] }))) ∧
     (s.team? t.ctx t.task = some t → s.ctx? t.ctx = some c → s.outDue t = true →
       let gs := (s.groupsOf t.ctx t.task).filter Group.isSaved
       let pos := s.posOf (s.heldOn t)
       let need := s.takeFrames c (hbmPool pos) (imageFrames (s.scratchOf t.ctx t.serial) gs)
       (s.saveBad t gs = true →
         exec (.switchOutComplete t.ctx t.task) s = .next (s.endTeam t.ctx t.task (imageRecord t.ctx t.task))) ∧
       (∀ fs s1, s.saveBad t gs = false → need = some (fs, s1) →
         exec (.switchOutComplete t.ctx t.task) s = .next (s1.writeImage t fs)) ∧
       (s.saveBad t gs = false → need = none →
         exec (.switchOutComplete t.ctx t.task) s = .next (s.awaitPool t pos)))) ∧
  ∀ (s : State) (n p : Nat) (a : Ack) (w : Await) (r : Response) (l : Load) (rd : Round),
    (s.acks[n]? = some (p, a) → s.awaits.find? (fun w => w.tag = a.tag && w.from_.contains a.peer) = some w →
      s.stale (s.jobOf w.ctx) a.peer a.tag = none →
      let left := w.from_.erase a.peer
      exec (.ackArrival n none) s =
        .next (State.slotUpd
          { s with
            acks := s.acks.eraseIdx n
            awaits := if left.isEmpty then s.awaits.erase w
              else s.awaits.map fun x => if x = w then { w with from_ := left } else x }
          w.ctx w.cluster w.ms (if a.err = 0 then .arrive 1 0 else .fail a.err))) ∧
    (∀ x, s.acks[n]? = some (p, a) → s.awaits.find? (fun w => w.tag = a.tag && w.from_.contains a.peer) = some w →
      s.stale (s.jobOf w.ctx) a.peer a.tag = some x →
      exec (.ackArrival n none) s = .next (State.dropStale { s with acks := s.acks.eraseIdx n } x)) ∧
    (∀ t, s.awaits[n]? = some w → w.until_ = some t → t ≤ s.now → s.inRound w.tag = false → s.silent w ≠ [] →
      let left := w.from_.filter fun p => !(s.silent w).contains p
      let s1 : State := { s with awaits := if left = [] then s.awaits.eraseIdx n else s.awaits.set n { w with from_ := left } }
      exec (.acknowledgementTimeout n) s = .next (s1.slotUpd w.ctx w.cluster w.ms (.fail 3))) ∧
    (s.awaits[n]? = some w → s.inRound w.tag = true ∨ s.silent w = [] → exec (.acknowledgementTimeout n) s = .next s) ∧
    (s.acks[n]? = some (p, a) → s.awaits.find? (fun w => w.tag = a.tag && w.from_.contains a.peer) = none →
      let s1 : State := { s with acks := s.acks.eraseIdx n }
      exec (.ackArrival n none) s = .next (match s.rejoins.find? fun r => r.coord = a.peer && a.tag < r.below with
        | some x => s1.dropStale x
        | none => s1)) ∧
    (∀ ty g1 ms cl addrs u, s.resps[n]? = some (p, r) →
      s.loads.find? (fun l => l.id = r.tag && l.kind.isRemote) = some l → l.kind = .remote ty g1 ms cl addrs u →
      s.stale (s.jobOf l.gid.ctx) r.peer r.tag = none →
      let s1 : State := { s with resps := s.resps.eraseIdx n }
      let lanes := if g1 then 0 else maskOf (r.lanes.map (·.1))
      let fails (t : Trap) : Out :=
        .next (if ms = 0 then s1.failLoad l t else (s1.failLoad l t).slotUpd l.gid.ctx cl ms (.fail r.err))
      (r.err = 0 →
        exec (.remoteResponse n none) s =
          .next { s1 with loads := s1.loads.map fun x =>
            if x.id = l.id then { x with kind := .mem (r.lanes.map fun v => (v.1, landedTo l.dst ty v.2)) none } else x }) ∧
      (r.err = 4 → exec (.remoteResponse n none) s = fails { cause := .uncorr, info := 0, lanes }) ∧
      (∀ x, r.err ≠ 0 → r.err ≠ 4 → addrs.find? (fun x => (r.lanes.map (·.1)).contains x.1) = some x →
        exec (.remoteResponse n none) s = fails { cause := .prot, info := x.2, lanes })) ∧
    (∀ ty g1 ms cl addrs u, (s.loads.filter fun l => l.kind.isRemote)[n]? = some l → l.kind = .remote ty g1 ms cl addrs u →
      u ≤ s.now →
      exec (.remoteTimeout n) s =
        let s1 := s.failLoad l { cause := .mserr, info := ms, lanes := if g1 then 0 else maskOf (addrs.map (·.1)) }
        .next (if ms = 0 then s1 else s1.slotUpd l.gid.ctx cl ms (.fail 3))) ∧
    (s.rounds[n]? = some rd → rd.until_ ≤ s.now → s.whole rd = false →
      let s1 : State := State.passRound { s with rounds := s.rounds.filter fun x => x.id ≠ rd.id } rd
      let s2 := (coordsOf (s.srcBox rd.first)).foldl (fun s c =>
        let k := { rd.first with origin := { rd.first.origin with src := c } }
        if s.redCount k ≤ rd.first.round then s.setRedCount k (rd.first.round + 1) else s) s1
      let s3 := rd.parts.foldl (fun s c =>
        match s.awaitOf c with
        | none => s
        | some a => State.slotUpd { s with awaits := s.awaits.erase a } a.ctx a.cluster a.ms (.fail 6)) s2
      exec (.roundTimeout n) s = .next ((s3.roundFails rd).flushRounds rd.first s.rounds.length) ∧
      (∀ part f, s3.partAt rd.first.job rd.first.dst = some part → firstOf rd.parts = some f →
        s3.roundFails rd = if f.msOff = 0 then s3
          else { s3 with landings := s3.landings ++ [{ part, waits := [], body :=
            { job := rd.first.job, dst := rd.first.dst, origins := rd.parts.map (·.origin), op := .void 6, msOff := f.msOff
              acks := [], tag := rd.first.tag } }] })) ∧
    (s.rounds[n]? = some rd → s.now < rd.until_ ∨ s.whole rd = true → exec (.roundTimeout n) s = .next s) ∧
    (∀ (x : Arrived) c rg e ps, s.landings[n]? = some x → x.waits = [] → s.mayLand n x = true → s.jobRange x.part = some (c, rg) →
      x.body.op = .void e → e ≠ 0 → x.body.acks = [] → x.body.msOff ≠ 0 → x.body.msOff % 64 = 0 →
      s.landAt c rg x.body.msOff 64 true = .ok ps → (∀ q ∈ ps, 2 ≤ q.leaf.kind) →
      exec (.remoteLanding n none) s =
        .next (State.updLoc { s with landings := s.landings.eraseIdx n } c.no 0 (.mem c.no (iaOf ps)) (.fail e)))

/-! Steps of the memory side and of the engines (11 R196, R197, R207, R208, R214, R215, R218; 13 R257 to R263). -/

/-- 11 R196 to R198, R207, R208, R214, R215, R218: a migration moves a page's bytes to a frame of the requesting cluster's pool and
reports the old one, or stays when the pool is empty, and what waited for the page goes on; a tier move moves its pages one by one,
fails with ERR 2 at an S page, and ends with an arrival at its milestone or with ERR; an ember line that its slice may evict goes to its
late frame; a contribution whose rank has come is applied, a later
one is buffered, one past N is discarded and reported; a refused one is sent again. That one waits while an earlier contribution of its group to its cell
with its rank has not been accepted is the model's reading of 07 R144 (log 139), and so is that a migrated page's uncorrectable words
stay so (log 86). -/
def Obligations.MemorySteps : Prop :=
  ∀ (s : State) (n : Nat) (m : Migration) (t : Tier) (e : Ember) (o : Ordered) (c : Ctx) (l : Leaf)
    (ps : List Piece),
    (s.migrations[n]? = some m → s.ctx? m.ctx = some c →
      let s0 : State := { s with migrations := s.migrations.filter fun x => !(x.ctx = m.ctx && x.page = m.page) }
      let ends (s : State) : Out :=
        let moved : Hold := { page := m.page, fill := false }
        let s1 := (s.retryLate m.ctx moved).retryJoins m.ctx (some moved)
        .next { s1 with
          fns := s1.fns.modify (s1.ownerOf m.ctx) fun f => if f.waits = some moved then { f with waits := none } else f }
      s.walk c m.page = .ok l → isLp l.frame = false →
      (s0.takeFrame c (hbmPool (s.posOf m.cluster)) = none → exec (.pageMigration n) s = ends s0) ∧
      (∀ f s1, s0.takeFrame c (hbmPool (s.posOf m.cluster)) = some (f, s1) →
        let s2 := (((s1.copyFrame l.frame f).copyPoison l.frame f).writeLeaf { l with frame := f }).freeFrame m.ctx l.frame
        exec (.pageMigration n) s =
          ends { s2 with counters := s2.counters.filter fun x => !(x.1.1 = m.ctx && x.1.2.2 = m.page) })) ∧
    (∀ page rest f s1, (s.tiers.filter fun t => !t.pages.isEmpty)[n]? = some t → t.pages = page :: rest →
      s.ctx? t.ctx = some c → s.walk c page = .ok l → l.kind ≠ 3 → isLp l.frame ≠ t.lp → s.migrating t.ctx page = false →
      (l.kind = 1 → exec (.tierPageMove n) s = .next (s.setTier { t with pages := [], err := 2 })) ∧
      (l.kind ≠ 1 → s.badMem l.frame 65536 = true →
        exec (.tierPageMove n) s = .next (s.setTier { t with pages := [], err := 4 })) ∧
      let pool := if t.lp then lpPool else hbmPool (s.posOf l.home)
      (l.kind ≠ 1 → s.badMem l.frame 65536 = false → s.takeFrame c pool = some (f, s1) →
        exec (.tierPageMove n) s =
          .next ((((s1.copyFrame l.frame f).writeLeaf { l with frame := f }).freeFrame t.ctx l.frame).setTier
            { t with pages := rest })) ∧
      (l.kind ≠ 1 → s.badMem l.frame 65536 = false → s.takeFrame c pool = none → exec (.tierPageMove n) s = .next (s.setTier { t with pages := [], err := 6 }))) ∧
    ((s.tiers.filter fun t => t.pages.isEmpty && t.waits.isEmpty)[n]? = some t →
      let s1 : State := { s with tiers := s.tiers.filter fun x => x.id ≠ t.id }
      (t.ms = 0 → t.err = 0 → exec (.tierComplete n) s = .next s1) ∧
      (∀ loc, t.ms ≠ 0 → s1.mref t.ctx t.cluster t.ms = .ok loc →
        exec (.tierComplete n) s =
          .next (s1.updRef t.ctx t.task t.cluster t.ms (if t.err = 0 then .done t.bytes else .fail t.err)))) ∧
    (∀ s1, s.ember[n]? = some e → s.evictable e = true → s.evictEmber e = some s1 →
      exec (.emberLineEvict n) s = .next s1) ∧
    (s.ember[n]? = some e → s.evictable e = false → exec (.emberLineEvict n) s = .next s) ∧
    (∀ home slice, (s.ordered.filter fun o => o.st = .sent)[n]? = some o → s.cellHome o = some (home, slice, ps) →
      (s.orderedBehind o = true → exec (.atomoArrival n) s = .next s) ∧
      (s.piecesBad o.gid.ctx ps = false → s.orderedBehind o = false →
      let cell := s.readPieces o.gid.ctx ps
      (nat8 cell 12 4 ≠ 0 → nat8 cell 12 4 ≤ o.rank.toNat →
        exec (.atomoArrival n) s =
          .next ((s.dropOrdered o.id).reportCtx o.gid.ctx (discardReport o.gid.ctx 1 o.gid.task o.ia))) ∧
      (nat8 cell 12 4 = 0 ∨ o.rank.toNat < nat8 cell 12 4 → o.rank.toNat = nat8 cell 8 4 →
        let s1 := (s.dropOrdered o.id).applyOrdered ps o
        exec (.atomoArrival n) s = .next (s1.drainOrdered ps o.gid.ctx o.ia s1.ordered.length)) ∧
      (nat8 cell 12 4 = 0 ∨ o.rank.toNat < nat8 cell 12 4 → o.rank.toNat ≠ nat8 cell 8 4 →
        (s.ordered.filter fun x => x.st = .buffered && x.cluster = home && x.slice = slice).length < Config.orderedEntries →
        exec (.atomoArrival n) s =
          .next { s with ordered := (s.ordered.filter fun x => x.id ≠ o.id)
            ++ [{ o with st := .buffered, cluster := home, slice }] }))) ∧
    ((s.ordered.filter fun o => o.st = .refused)[n]? = some o →
      exec (.atomoResend n) s =
        .next { s with ordered := s.ordered.map fun x => if x.id = o.id then { x with st := .sent } else x })

/-- 13 R257, R260 to R263: a refused start that no earlier one holds is offered again; a channel begins its first accepted start, a
TOSTREAM copy after reserving a position of its stream, and a misaligned one ends with ERR 1; a row that can be read and written
lands; a whole tile enters its stream; a copy whose rows have landed, or which has stopped, gives its milestone its bytes or its error. -/
def Obligations.EngineSteps : Prop :=
  ∀ (s : State) (n cluster channel u : Nat) (b : Bool) (x : Start) (y : Copy) (c : Ctx),
    ((s.starts.filter fun t => t.st = .refused)[n]? = some x → s.startBehind x = false →
      s.queued x.cluster x.channel < Config.channelQueue → s.fenced (unitCode x.cluster 6 0) = false →
      exec (.startResend n) s =
        .next (State.offer { s with starts := s.starts.filter fun y => y.id ≠ x.id } { x with st := .queued })) ∧
    (s.starts.find? (fun t => t.cluster = cluster && t.channel = channel && t.st = .queued) = some x → x.waits = [] →
      x.t.ms = 0 ∨ (∃ loc, s.mref x.ctx cluster x.t.ms = .ok loc ∧ s.locUnreached cluster loc = false) →
      let begun (s : State) : State :=
        { s with
          starts := s.starts.filter fun y => y.id ≠ x.id
          copies := s.copies ++ [{ id := x.id, start := x, row := 0, sent := 0, waits := [], err := 0 }] }
      (x.misaligned = true → exec (.copyBegin cluster channel) s = .next (s.failStart x 1)) ∧
      (x.misaligned = false → x.t.mode = 3 → x.vectorOnly = true →
        exec (.copyBegin cluster channel) s = .next (s.failStart x 2)) ∧
      (x.misaligned = false → x.t.mode ≠ 3 → exec (.copyBegin cluster channel) s = .next (begun s)) ∧
      (x.misaligned = false → x.t.mode = 3 → x.vectorOnly = false → s.fenced (unitCode cluster 3 x.t.unit) = false →
        (s.munit x.gunit).heldByOther x.ctx = false → ((s.munit x.gunit).stream x.t.streamB).length < 4 →
        exec (.copyBegin cluster channel) s =
          .next (begun (s.setUnit x.gunit ((s.munit x.gunit).setStream x.t.streamB
            ((s.munit x.gunit).stream x.t.streamB ++
              [{ ctx := x.ctx, copy := x.id, esize := x.t.esize, bytes := [], whole := false, entered := false }])))))) ∧
    (∀ bs s1 s2, (s.running false)[n]? = some y → s.ctx? y.start.ctx = some c → y.start.t.mode ≠ 3 →
      s.rowRead c y 0 y.start.t.rowb = .ok (bs, s1) → y.start.t.dstCw = false →
      s1.bteWrite c y.start.cluster (y.start.t.dstAt y.start.param y.row) bs = .ok s2 →
      exec (.copyRowLanded n) s =
        .next ((s2.setCopy { y with row := y.row + 1 }).markChunks { y with row := y.row + 1 })) ∧
    (∀ p i, u < 128 → ((s.munit u).stream b).findIdx? (fun p => !p.entered) = some i → ((s.munit u).stream b)[i]? = some p →
      p.whole = true →
      exec (.tostreamTileEnter u b) s =
        .next (s.setUnit u ((s.munit u).setStream b (((s.munit u).stream b).set i { p with entered := true })))) ∧
    ((s.copies.filter fun x => x.waits.isEmpty && (x.err ≠ 0 || (x.row = x.start.t.count && s.tileIn x)))[n]? = some y →
      let s1 := ((if y.start.remote.isSome then s else s.markChunks y).dropCopy y.id).armAcks y.id
      (y.start.t.ms = 0 → exec (.copyComplete n) s =
        .next (if y.err = 0 then s1 else s1.reportCtx y.start.ctx (s.copyReport y.start y.err))) ∧
      (∀ loc, y.start.t.ms ≠ 0 → s1.mref y.start.ctx y.start.cluster y.start.t.ms = .ok loc →
        exec (.copyComplete n) s =
          .next (s1.updRef y.start.ctx y.start.task y.start.cluster y.start.t.ms
            (if y.err = 0 then .done y.start.t.bytes else .fail y.err))))

/-! Steps of the fabric (17 R301, R302, R307, R315 to R329). -/

/-- 17 R301, R307, R323, R326 to R329: a next hop of a bound slot of the job context returns the costs of what it has passed on and grants
anew (which of them, and what it grants, is the model's choice, log 9), the slot's allowance being the least of what its hops have left, up to 4,095 ;
a remote copy sends its next segment when its slot has the units; a copy of an operation moves when no earlier one of its slot stands before it; a peer's
contribution joins its round; lanes are spared and links take their samples; a peer that comes back gives its link a new key, and what
arrived under the old one is dropped and counted (what counts as sealed under the old key, and what a round has lost with the peer, is the
model's reading, logs 127 and 59); an assignment that its job can have sets a partition's place. -/
def Obligations.FabricSteps : Prop :=
  ∀ (s : State) (n k units : Nat) (c : Ctx) (f : FCopy) (ct : Contribution) (x : Copy) (b : Binding) (l : Link) (a : Assignment),
    (s.ctx? c.no = some c → (c.binding? k).isSome = true → s.jobCtx c.part = some c.no → c.st ≠ .saved →
      exec (.allowanceReturn c.no k units) s =
        .next (s.updCtx c.no fun c => { c with credits := c.credits.modify k (fun hs =>
          match returnHop hs with
          | some i => hs.modify i fun h => { hop := h.hop, grant := units, owed := h.owed - h.passed, passed := 0 }
          | none => hs) })) ∧
    (∀ hs i, returnHop hs = some i → ∃ h, hs[i]? = some h ∧
      (h.passed = 0 → (∀ x ∈ hs, x.passed = 0) ∧ ∀ x ∈ hs, h.grant - h.owed ≤ x.grant - x.owed)) ∧
    (∀ hs, k < 32 → c.credits[k]? = some hs → (c.binding? k).isSome = true →
      c.allowance k ≤ 4095 ∧ (∀ h ∈ hs, c.allowance k ≤ h.grant - h.owed) ∧
        (c.allowance k = 4095 ∨ ∃ h ∈ hs, c.allowance k = h.grant - h.owed)) ∧
    (∀ r bs s1, (s.running true)[n]? = some x → x.start.remote = some (k, b) → s.ctx? x.start.ctx = some c →
      s.fabricRange c = some r →
      let t := x.start.t
      let d := (t.dstAt x.start.param x.row).toNat
      let m := min 65536 (t.rowb - x.sent)
      let cost := (m + 255) / 256
      r.covers d = true → d + t.rowb - 1 ≤ r.limit.toNat → cost ≤ c.allowance k →
      s.rowRead c x x.sent m = .ok (bs, s1) → x.sent + m ≠ t.rowb →
      exec (.rcopySegment n) s =
        .next (((s1.updCtx c.no fun c => c.deduct k cost).send c.part (s.place c.part) b cost
          (mkBody s1 (s.place c.part) k b (.segment (d - r.base.toNat + x.sent) bs none) [] x.id)).setCopy
            { x with sent := x.sent + m })) ∧
    (s.fcopies[n]? = some f → s.mayMove f = true → exec (.switchCopy n none) s = .next (s.hop n f)) ∧
    (s.fcopies[n]? = some f → s.mayMove f = false → exec (.switchCopy n none) s = .next s) ∧
    (exec (.switchCopy n (some ct)) s = .next (s.joinRound ct)) ∧
    (∀ lane, s.links[n]? = some l → l.lanes.contains lane = true → l.lanes.contains 8 = false →
      exec (.laneSparing n lane) s =
        .next { s with links := s.links.set n { l with lanes := l.lanes.map fun y => if y = lane then 8 else y } }) ∧
    (∀ job coord key, s.links[n]? = some l →
      let ours (p : Nat) : Bool := (s.place p).jobNo = job
      let acks := s.acks.filter fun a => !(ours a.1 && a.2.peer = coord)
      let resps := s.resps.filter fun r => !(ours r.1 && r.2.peer = coord)
      let landings := s.landings.filter fun a => !(a.body.job = job && a.body.dst = coord)
      exec (.peerRejoin n ⟨job, coord⟩ key) s =
        .next { s with
          acks, resps, landings
          rejoins := (s.rejoins.filter fun r => !(r.job = job && r.coord = coord)) ++ [{ job, coord, below := s.tick + 1, link := n }]
          rounds := s.rounds.map (fun r =>
            if r.first.job = job && !(r.parts.any fun c => c.origin.src = coord) then { r with lost := r.lost ++ [coord] } else r)
          links := s.links.set n
            { l with key, dropped := l.dropped + ((s.acks.length - acks.length) + (s.resps.length - resps.length)
              + (s.landings.length - landings.length)) } }) ∧
    (∀ cor mar, s.links[n]? = some l →
      exec (.marginSampling n cor mar) s = .next { s with links := s.links.set n { l with corrected := cor, margin := mar } }) ∧
    (a.part < s.places.length → assignmentOk a = true → s.assignmentFits a = true →
      ∃ t, exec (.fabricManagerAssignment a) s = .next t ∧
        t.places = s.places.set a.part
          { coord := a.coord, sizes := a.sizes, job := a.jobCtx, jobNo := a.job, switches := a.switches, attach := a.attach } ∧
        t.mem = s.mem ∧ t.groups = s.groups ∧ t.ctxs.map (·.no) = s.ctxs.map (·.no))

/-- 17 R324 to R326: an operation lands at its destination in the order of its sender's slot: a sector is stored whole, a read answers
the bytes, an atomic answers the old value and stores the new one, and each is acknowledged to those that asked; a missing page is
reported once and waited for; an address that fails its check stores nothing and answers its error. 12 R233: a read or an atomic that
the device answers to itself leaves no old line in the L1 of the sender's core. -/
def Obligations.OperationsLand : Prop :=
  ∀ (s : State) (n : Nat) (a : Arrived) (c : Ctx) (r : Range) (ps : List Piece) (off L w : Nat) (bs : List Byte) (fn : AtomFn)
    (ty : Ty) (x y : W64), s.landings[n]? = some a → a.waits = [] → s.mayLand n a = true → a.body.msOff = 0 →
    let gone : State := { s with landings := s.landings.eraseIdx n }
    s.jobRange a.part = some (c, r) →
    (a.body.op = .store [(off, bs)] →
      (∀ s1, s.landAt c r off bs.length true = .ok ps → gone.roomFor c.no ps = .ok s1 →
        exec (.remoteLanding n none) s = .next ((s1.iaWrite c (iaOf ps) bs).sendAcks a.body 0)) ∧
      (∀ e, e ≠ 0 → s.landAt c r off bs.length true = .fail e →
        exec (.remoteLanding n none) s = .next (gone.sendAcks a.body e)) ∧
      (∀ ms, ms ≠ [] → s.landAt c r off bs.length true = .miss ms →
        exec (.remoteLanding n none) s =
          .next (let s1 := (distinctMiss ms).foldl (fun s m => s.reportCtx c.no (missingReport c.no m.1 m.2 0)) s
            { s1 with landings := s1.landings.set n { a with waits := (distinctMiss ms).map (·.1) } }))) ∧
    (a.body.op = .load w [(L, off)] → s.landAt c r off w false = .ok ps →
      (s.piecesBad c.no ps = false →
        exec (.remoteLanding n none) s =
          .next ((gone.servesOwn a.body).respond a.body 0 [(L, BitVec.ofNat 64 (leNat (s.readPieces c.no ps)))])) ∧
      (s.piecesBad c.no ps = true →
        exec (.remoteLanding n none) s = .next (gone.respond a.body 4 [(L, 0)]))) ∧
    (∀ s1, a.body.op = .atom fn ty [(L, off, x, y)] → s.landAt c r off (ty.bits / 8) true = .ok ps →
      s.piecesBad c.no ps = false → gone.roomFor c.no ps = .ok s1 →
      exec (.remoteLanding n none) s =
        let now := (s1.span c (iaOf ps) (ty.bits / 8)).pieces
        let old := leNat (s1.readPieces c.no now)
        .next ((((s1.writePieces c.no now
          (leBytes (ty.bits / 8) (atomNew fn ty old (x.toNat + 2 ^ ty.bits * y.toNat)))).servesOwn a.body).respond
            a.body 0 [(L, BitVec.ofNat 64 old)]).sendAcks a.body 0)) ∧
    (∀ (t : State) (l : Load), t.loads.find? (fun l => l.id = a.body.tag && l.kind.isRemote) = some l →
      t.servesOwn a.body = if a.body.origins.any (fun o => o.src = a.body.dst) then
        t.dropL1 (fun y => .core y.core = t.siteOf l.gid && !y.coherent) else t)

/-! Pre-emption, contexts and the host (19 R336 to R346; 21 R352 to R360). -/

/-- 19 R340, R342 to R346; 21 R354: PREEMPT raises a request whose deadline is at least one cycle away, and saves parked groups;
UNPREEMPT withdraws it; at the deadline each team with groups to save is switched out; a context whose save is due is saved when
its ember lines find frames, and is reported otherwise; RESTORE brings a saved context onto the partition of its function. -/
def Obligations.PreemptionMessages : Prop :=
  ∀ (s : State) (i : Nat) (m : Msg) (c : Ctx),
    (s.headMsg i 3 = some m → s.owned i m = some c → (s.popMsg i m).ctx? c.no = some c → c.st ≠ .saved →
      exec (.preempt i) s =
        let s2 := (s.popMsg i m).updCtx c.no fun c => { c with prq := true, pdlAt := s.now + max 1 (nat8 m.bytes 8 4) }
        .next ((s2.groups.filter fun g => g.id.ctx = c.no && g.isParked).foldl (fun s g => s.trySave g.id) s2)) ∧
    (s.headMsg i 4 = some m → s.owned i m = some c → c.st ≠ .saved →
      exec (.unpreempt i) s =
        let s2 := (s.popMsg i m).updCtx c.no fun c => { c with prq := false, pdlAt := 0, st := .resident }
        .next ((s2.teams.filter fun t => t.ctx = c.no && t.st = .resident
          && (s2.groupsOf c.no t.task).any Group.isSaved).foldl (fun s t => s.leave c.no t.task .preempt []) s2)) ∧
    (∀ ctx, s.ctx? ctx = some c → c.prq = true → c.st = .resident → c.pdlAt ≤ s.now →
      exec (.preemptDeadline ctx) s =
        .next ((s.unsaved ctx).foldl (fun s t => s.leave ctx t.task .preempt []) s)) ∧
    (∀ ctx s1, s.ctx? ctx = some c → s.saveDue c = true →
      (s.flushEmber (s.ember.filter fun e => e.ctx = ctx) = (s1, true) → exec (.contextSave ctx) s = .next (s1.finishSave c)) ∧
      (s.flushEmber (s.ember.filter fun e => e.ctx = ctx) = (s1, false) →
        exec (.contextSave ctx) s =
          .next ((s1.reportCtx ctx (missingReport ctx .ember false 0)).updCtx ctx fun c => { c with st := .saving }))) ∧
    (s.headMsg i 5 = some m → s.ctx? m.ctx = some c → c.st = .saved → nat8 (s.ctxRec m.addr.toNat) 0 2 = m.ctx →
      ctxRecFault (s.ctxRec m.addr.toNat) (s.clusters i).length = none →
      (c.bound = false ∨ i = c.part → s.unitsMeet c (s.clusters i).length = false →
        exec (.restore i) s = .next ((s.popMsg i m).restoreCtx c i m.addr.toNat (s.ctxRec m.addr.toNat))) ∧
      (c.bound = true → i ≠ c.part →
        exec (.restore i) s = .next ((s.popMsg i m).reportCtx c.no (refusedReport c.no 2 19 m.addr.toNat))))

/-- 03 R30, R35, R37; 19 R336, R338; 21 R352 to R355, R357, R358, R360: LAUNCH accepts a good record at depth 1 and refuses another
with its reason, and waits for the FILL of a page that its record lacks, which is reported; CTXSTART makes a context from its record, and one that names a live context is a message fault and, where the record
names it too, a refusal with the first condition that the record fails, REASON 18 after the others (which of the two R354 and R357 mean
is the model's reading, DEDUCED, log 72); FILL ends the waits for what it names; SETDUMP names the dump area; CTXEND
ends a context that has nothing left, and is a message fault before; a message for a context that its function does not own is a
fault, all checked when the message takes effect (DEDUCED, log 71). A write of MRTAIL ends a gap and fetches the messages up to it;
MRBASE starts its ring at entry 0; RQBASE moves the queue, whose entries then count from 0 as R352 says or go on as SEQ mod RQSIZE as R358
says (a free value, DESIGN CHOICE, log 74); RQHEAD and RQSIZE let held reports go as far as there is room; a write to a register
that the device alone writes, or to no register, changes nothing; a host write changes published memory and recalls the L1 copies of the C lines that it changes (11 R200). -/
def Obligations.HostMessages : Prop :=
  (∀ (s : State) (i : Nat) (f : Fn) (m : Msg) (c : Ctx),
     (∀ b, s.headMsg i 1 = some m → s.owned i m = some c → s.fns[i]? = some f → f.waits = none → s.tableFull c.no = false →
       s.devRecord c m.addr = .ok b →
       (recordFault b = none →
         exec (.launchMessage i) s = .next ((s.acceptLaunch c (LRec.ofBytes b) 1 none).1.popMsg i m)) ∧
       (∀ k, recordFault b = some k →
         exec (.launchMessage i) s = .next ((s.reportCtx c.no (refusedReport c.no 1 k m.addr.toNat)).popMsg i m))) ∧
     (∀ p bad ms, s.headMsg i 1 = some m → s.owned i m = some c → s.fns[i]? = some f → f.waits = none → s.tableFull c.no = false →
       s.devRecord c m.addr = .miss ((.page p, bad) :: ms) →
       let s1 := s.reportCtx c.no (missingReport c.no (.page p) bad 0)
       exec (.launchMessage i) s = .next (s1.setFn i { (s1.fns.getD i f) with waits := some { page := p, fill := true } }) ∧
       (f.pending.head? = some m → m.type = 1 → s.headHeld i { f with waits := some { page := p, fill := true } } = true)) ∧
     (m.type = 1 → f.pending.head? = some m → s.owned i m = none → s.headHeld i f = false) ∧
     (s.headMsg i 2 = some m → s.ctx? m.ctx = none → nat8 (s.ctxRec m.addr.toNat) 0 2 = m.ctx →
       (ctxRecFault (s.ctxRec m.addr.toNat) (s.clusters i).length = none →
         exec (.ctxstart i) s =
           .next { s.popMsg i m with
             ctxs := (s.popMsg i m).ctxs ++ [(newCtx m.ctx i).load m.addr.toNat (s.ctxRec m.addr.toNat)] }) ∧
       (∀ k, ctxRecFault (s.ctxRec m.addr.toNat) (s.clusters i).length = some k →
         exec (.ctxstart i) s = .next ((s.popMsg i m).report i (refusedReport m.ctx 2 k m.addr.toNat)))) ∧
     (s.headMsg i 2 = some m → nat8 (s.ctxRec m.addr.toNat) 0 2 = m.ctx → (s.ctx? m.ctx).isSome = true →
       exec (.ctxstart i) s = .next ((s.msgFault i m 4).report i (refusedReport m.ctx 2
         ((ctxRecFault (s.ctxRec m.addr.toNat) (s.clusters i).length).getD 18) m.addr.toNat))) ∧
     (s.headMsg i 2 = some m → nat8 (s.ctxRec m.addr.toNat) 0 2 ≠ m.ctx →
       exec (.ctxstart i) s = .next (s.msgFault i m 4)) ∧
     (s.fillMsg i = some m → s.owned i m = some c → exec (.fill i) s = .next ((s.popMsg i m).fill c.no m.miss)) ∧
     (s.headMsg i 7 = some m → m.ctx = 0 →
       exec (.setdump i) s = .next { s.popMsg i m with dump := some (m.addr.toNat, nat8 m.bytes 0x10 8) }) ∧
     (s.headMsg i 8 = some m → s.owned i m = some c →
       (s.ctxBusy c.no = false → exec (.ctxend i) s = .next ((s.popMsg i m).endCtx c.no)) ∧
       (s.ctxBusy c.no = true → exec (.ctxend i) s = .next (s.msgFault i m 5))) ∧
     (s.owned i m = none →
       (s.headMsg i 1 = some m → exec (.launchMessage i) s = .next (s.msgFault i m 4)) ∧
       (s.headMsg i 3 = some m → exec (.preempt i) s = .next (s.msgFault i m 4)) ∧
       (s.headMsg i 4 = some m → exec (.unpreempt i) s = .next (s.msgFault i m 4)) ∧
       (s.headMsg i 8 = some m → exec (.ctxend i) s = .next (s.msgFault i m 4)))) ∧
  ∀ (s : State) (i addr : Nat) (f : Fn) (v : W64) (w : W32) (bytes : List Byte),
    (s.fns[i]? = some f →
      exec (.mrtail i w) s = .next ((s.setFn i { f with mrtail := w, gap := false }).fetchMsgs i f.mrsize.toNat) ∧
      exec (.mrbase i v) s = .next (s.setFn i { f with mrbase := v, fetch := 0 }) ∧
      exec (.rqbase i v) s = .next ((s.setFn i { f with rqbase := v, rqstart := f.lasttx + 1 }).flush i) ∧
      exec (.rqhead i w) s = .next ((s.setFn i { f with rqhead := w }).flush i) ∧
      exec (.registerWrite i 0x08 v) s = .next (s.setFn i { f with mrsize := v.setWidth 32 }) ∧
      exec (.registerWrite i 0x18 v) s = .next ((s.setFn i { f with rqsize := v.setWidth 32 }).flush i) ∧
      (∀ off, off ∉ [0x00, 0x08, 0x0C, 0x10, 0x18, 0x1C] → exec (.registerWrite i off v) s = .next s)) ∧
    ((∀ j < bytes.length, s.isMem (addr + j) = true) →
      exec (.hostWriteToDeviceMemory addr bytes) s =
        .next ((s.dropL1 fun l => s.copyOf addr bytes.length l).writeMem addr bytes))

/-! The management controller (01 R26 to R28; 19 R347 to R350; 21 R359 to R363). -/

/-- 01 R26, R27; 19 R347 to R350; 21 R359 to R363: a reset verifies the image, its version too, and the record, and reaches Ready or the recovery
state, which alone accepts a new one; an error fences its unit until the self-test is done, and a unit that fails it is disabled; the
clock steps by 100 MHz between its floor and its top, and heat or power beyond the floor is fatal; a telemetry refresh shows the
sensors and the events counted since the reset. That a reset keeps memory (DEDUCED, log 66), that a last slice ends with cause 1 and
another kind of unit stays fenced (DEDUCED, log 67), and that a trip is reported with unit word 0, like how throttling is counted
(DEDUCED, logs 68 and 23), is the model's choice, and so is that an uncorrectable error which nothing has consumed is neither reported
nor counted (DESIGN CHOICE, log 124). -/
def Obligations.ManagementSteps : Prop :=
  ∀ (s : State) (n watts celsius : Nat) (p : Place) (u cause : W32) (f : Fence) (image record : List Byte) (pw coolant : Nat)
    (cpw junction hbm : List Nat),
    let good : Bool := Config.imageOk s.image && Config.romMinimum ≤ Config.firmwareOf s.image && recordFormed s.recBytes
      && signatureOk s.recBytes
    (good = false →
      exec .deviceReset s = .next { s.afterReset with recovery := true }) ∧
    (good = true →
      ∃ t, exec .deviceReset s = .next t ∧ t.recovery = false ∧ t.fatal = false ∧ t.mem = s.mem ∧ t.ctxs = [] ∧
        t.recBytes = s.recBytes ∧ t.arrange = nat8 s.recBytes 0x10 1 ∧
        t.places = List.replicate (arrangement t.arrange).length noPlace) ∧
    (s.recovery = true → image ≠ [] → record ≠ [] →
      exec (.newImageOrRecord image record) s = .next { s with image, recBytes := record }) ∧
    (s.recovery = false → exec (.newImageOrRecord image record) s = .next s) ∧
    (∀ id s1, s.fresh = (id, s1) →
      exec (.softError p true u) s =
        .next { s1 with fences := s1.fences ++ [{ id, unit := u }], corrected := s1.corrected + 1 } ∧
      exec (.softError p false u) s = .next (State.spoil { s1 with fences := s1.fences ++ [{ id, unit := u }] } p)) ∧
    (s.fences[n]? = some f →
      exec (.selfTestDone n true false) s = .next (s.lift f) ∧
      exec (.selfTestDone n false true) s = .next (State.lift { s with spared := s.spared + 1 } f) ∧
      (s.lastSlice f.unit = true →
        exec (.selfTestDone n false false) s =
          .next (State.die { s with fences := s.fences.filter fun x => x.id ≠ f.id } 1 f.unit)) ∧
      (s.lastSlice f.unit = false → unitKind f.unit ∈ [1, 3, 4, 5] →
        exec (.selfTestDone n false false) s = .next ((s.disableUnit f.unit).lift f)) ∧
      (s.lastSlice f.unit = false → unitKind f.unit ∉ [1, 3, 4, 5] →
        exec (.selfTestDone n false false) s = .next (s.disableUnit f.unit))) ∧
    exec (.fatalError cause u) s = .next (s.die cause u) ∧ (s.die cause u).fatal = true ∧
    (∀ near, ¬(s.mhz ≤ 1600 ∧ s.envelope < watts) →
      exec (.powerSample watts near) s =
        .next { s with power := watts, throttled := near, throttles := s.throttles + (near && !s.throttled).toNat }) ∧
    (105 ≤ celsius ∨ (s.mhz ≤ 1600 ∧ s.envelope < watts) →
      exec (.powerAverage watts celsius) s = .next (State.die { s with average := watts, celsius } 4 0)) ∧
    (celsius < 105 → 1600 < s.mhz → s.envelope < watts ∨ 95 < celsius →
      exec (.powerAverage watts celsius) s =
        .next { s with
          average := watts, celsius, mhz := max 1600 (s.mhz - 100), avgThrottled := true
          throttles := s.throttles + (!s.avgThrottled).toNat }) ∧
    (celsius ≤ 95 → watts ≤ s.envelope →
      exec (.powerAverage watts celsius) s =
        .next { s with
          average := watts, celsius, mhz := min 4000 (s.mhz + 100), avgThrottled := decide (min 4000 (s.mhz + 100) < 4000) }) ∧
    exec (.telemetryRefresh ⟨pw, cpw, junction, hbm, coolant⟩) s =
      .next { s with telemetry :=
        { power := pw, clusterPower := cpw, junction, hbm, coolant
          throttles := s.throttles, corrected := s.corrected, spared := s.spared } }

/-! What an instruction leaves alone. -/

/-- 07 R106; 00 R6; 05 R70, R74, R75; 09 R158: the frame of the instructions that only compute. Nothing of the machine changes but
the group; in the group, only the destination, the leg-local files and what retiring writes: the registers below and above the
destination, the other g registers and predicates, %exm, the stack, the trap registers, %wft and %ftv stay, and %ric rises by 1. -/
def Obligations.ComputingChangesOnlyItsDestination : Prop :=
  ∀ (i : Instr) (s t : State) (g : Group) (d : Opd) (w : Nat), i.computes = some (d, w) → s.issues i g = true →
    exec i s = .next t →
    ∃ g1 : Group, t = s.setGroup g1 ∧ g1.id = g.id ∧ g1.site = g.site ∧ g1.ric = g.ric + 1 ∧ g1.full = g.full ∧
      (∀ k, (∀ n, d = .v n → k < n.val ∨ n.val + (w + 31) / 32 ≤ k) → g1.v[k]? = g.v[k]?) ∧
      (∀ k, (∀ n, d = .g n → k ≠ n.val) → g1.g[k]? = g.g[k]?) ∧
      (∀ k, (∀ n, d = .p n → k ≠ n.val) → g1.p[k]? = g.p[k]?) ∧
      (∀ k, (∀ n, d = .q n → k ≠ n.val) → g1.q[k]? = g.q[k]?) ∧
      g1.exm = g.exm ∧ g1.stack = g.stack ∧ g1.area = g.area ∧ g1.spill = g.spill ∧ g1.tcause = g.tcause ∧
      g1.tpc = g.tpc ∧ g1.tmask = g.tmask ∧ g1.tinfo = g.tinfo ∧ g1.tlane = g.tlane ∧ g1.tsave = g.tsave ∧
      g1.pend = g.pend ∧ g1.wft = g.wft ∧ g1.ftv = g.ftv ∧ g1.granted = g.granted

/-- 07 R142 to R145; 03 R49, R50; 11 R218; 13 R256: the frame of a store that is no release and passes its checks. To scratchpad
it changes the bytes that its lanes address and no other byte of any window. To pages of kind P, S or C, through a NORMAL range or a
row that is not shared, where no lane changes what a later lane's address translates to, it changes nothing but those bytes of its team's
version, and memory is as before but for the entries of the context's version spill area (03 R52). To an ember line it changes those bytes of the line and no other byte or line. To the aperture
it changes no memory. No other group, no other team's version and no register of its own changes. -/
def Obligations.StoresChangeOnlyTheirBytes : Prop :=
  ∀ (s t : State) (g : Group) (h : Hdr) (ord : Order) (sp : Space) (ty : Ty) (d a b : Opd) (scope : Scope)
    (accs : List (Nat × W64 × ATgt)),
    let w := ty.bits / 8
    let own (row : Option (Remap × Nat × Nat)) : Prop := ∀ x, row = some x → bitsN x.2.2 49 49 ≠ 1
    let fn := storeFn g h ty d false
    s.issues (.st h ord sp ty d a b scope) g = true → ord ≠ .rel → laneAddrs g h a b ≠ [] →
    s.checkLanes g h sp .store w w (laneAddrs g h a b) = .ok accs → s.memOk = true →
    exec (.st h ord sp ty d a b scope) s = .next t →
    ((∀ x ∈ accs, ∃ c off, x.2.2 = .scr c off) →
      t.mem = s.mem ∧ t.hostMem = s.hostMem ∧ t.teams = s.teams ∧ t.ember = s.ember ∧
      t.groups = (s.retire g h).groups ∧
      (∀ k, (∀ x ∈ accs, ∀ c off, x.2.2 = .scr c off →
          k < c * Config.windowBytes + off ∨ c * Config.windowBytes + off + w ≤ k) →
        cellGet t.scratch k = cellGet s.scratch k) ∧
      (∀ L va c off, accs = [(L, va, .scr c off)] → t.readScratch c off w = leBytes w (rd g h ty d L))) ∧
    ((∀ x ∈ accs, ∃ ps row, x.2.2 = .pub ps row ∧ (∀ p ∈ ps, p.leaf.kind ≠ 3) ∧ own row) →
      (∃ xs s1, s.eachLane g h sp .store w fn (laneAddrs g h a b) = .ok xs s1) →
      (∀ j x xs sj, accs[j]? = some x → s.eachLane g h sp .store w fn ((laneAddrs g h a b).take j) = .ok xs sj →
        sj.resolve g sp .store w x.2.1 = .ok x.2.2) →
      (∀ k, (∀ c e, s.ctx? g.id.ctx = some c → e < c.vsbytes / 128 ∨ (s.spillUsed c.no).contains e = true →
          k < c.verEntry e ∨ c.verEntry e + 128 ≤ k) → cellGet t.mem k = cellGet s.mem k) ∧
      t.scratch = s.scratch ∧ t.hostMem = s.hostMem ∧ t.ember = s.ember ∧
      t.groups = (s.retire g h).groups ∧
      (∀ k, (∀ x ∈ accs, ∀ ps row, x.2.2 = .pub ps row → ∀ p ∈ ps, k < p.ia ∨ p.ia + p.n ≤ k) →
        verGet (t.versionOf g.id) k = verGet (s.versionOf g.id) k) ∧
      (∀ id : GroupId, ¬(id.ctx = g.id.ctx ∧ id.task = g.id.task) → t.versionOf id = s.versionOf id)) ∧
    (∀ L va ia lf row, accs = [(L, va, .pub [⟨ia, w, lf⟩] row)] → lf.kind = 3 → own row → ia % 64 + w ≤ 64 →
      (s.emberLine? g.id.ctx (lineOf ia)).isSome = true → (s.emberBytes lf g.id.ctx (lineOf ia)).length = 64 →
      t.mem = s.mem ∧ t.scratch = s.scratch ∧ t.hostMem = s.hostMem ∧ t.teams = s.teams ∧
      t.groups = (s.retire g h).groups ∧ t.pubRead lf g.id.ctx ia w = leBytes w (rd g h ty d L) ∧
      (∀ k, lineOf k = lineOf ia → k < ia ∨ ia + w ≤ k →
        t.pubRead lf g.id.ctx k 1 = s.pubRead lf g.id.ctx k 1) ∧
      (∀ ctx line, ¬(ctx = g.id.ctx ∧ line = lineOf ia) → t.emberLine? ctx line = s.emberLine? ctx line)) ∧
    ((∀ x ∈ accs, ∃ off, x.2.2 = .aperture off) → s.apertureCheck g h ty d accs = none → s.startWaits g.id = false →
      t.mem = s.mem ∧ t.scratch = s.scratch ∧ t.hostMem = s.hostMem ∧ t.teams = s.teams ∧ t.ember = s.ember ∧
      t.groups = (s.retire g h).groups)

/-- 05 R70: what each kind of destination receives: a main-file or operand-file register its result extended to 32 bits in each lane
that has one, a 64-bit result the pair; a g register the result extended to 64 bits; a p predicate bit 0 of each lane's result; a q
predicate bit 0 of the result. Zero, immediates, literals and last-result entries receive nothing. 00 R6; 05 R73, R81: a lane without a
result keeps what its register held, and 0 in an operand-file entry that the leg has not written yet. -/
def Obligations.DestinationsReceiveTheirResults : Prop :=
  ∀ (g : Group) (w L x : Nat) (signed : Bool) (res : Nat → Option Nat), L < 32 → res L = some x → 0 < w → w ≤ 64 → x < 2 ^ w →
    (∀ (n : Fin 512) (m K : Nat), K < 32 → res K = none → n.val + (w + 31) / 32 ≤ g.v.length →
      (g.write (.v n) w signed res).vAt m K = g.vAt m K) ∧
    (∀ (n : Fin 32) (m K : Nat), K < 32 → res K = none → n.val + (w + 31) / 32 ≤ g.o.length →
      (g.write (.o n) w signed res).oAt m K = g.oAt m K ∧ (g.o.getD m none = none → g.oAt m K = 0)) ∧
    (∀ n : Fin 512, w ≤ 32 → n.val < g.v.length →
      (g.write (.v n) w signed res).vAt n.val L = extend signed w 32 x) ∧
    (∀ n : Fin 512, w = 64 → n.val + 1 < g.v.length →
      regsAt (fun m => (g.write (.v n) w signed res).vAt m L) n.val 2 = x) ∧
    (∀ n : Fin 32, w ≤ 32 → n.val < g.o.length →
      (g.write (.o n) w signed res).oAt n.val L = extend signed w 32 x) ∧
    (∀ n : Fin 32, w = 64 → n.val + 1 < g.o.length →
      regsAt (fun m => (g.write (.o n) w signed res).oAt m L) n.val 2 = x) ∧
    (∀ n : Fin 128, n.val < g.g.length → (∀ K, res K ≠ none → K = L) →
      (g.write (.g n) w signed res).gAt n.val = BitVec.ofNat 64 (extend signed w 64 x)) ∧
    (∀ n : Fin 7, n.val < g.p.length →
      ((g.write (.p n) w signed res).p.getD n.val 0).getLsbD L = decide (x % 2 = 1) ∧
      ∀ K < 32, res K = none →
        ((g.write (.p n) w signed res).p.getD n.val 0).getLsbD K = (g.p.getD n.val 0).getLsbD K) ∧
    (∀ n : Fin 7, n.val < g.q.length → (∀ K, res K ≠ none → K = L) →
      (g.write (.q n) w signed res).q.getD n.val false = decide (x % 2 = 1)) ∧
    g.write .zero w signed res = g ∧ g.write .lit w signed res = g ∧ (∀ n, g.write (.k n) w signed res = g) ∧
    (∀ n, g.write (.kn n) w signed res = g) ∧ (∀ n, g.write (.l n) w signed res = g)

/-- 07 R106: without .sat the result read as its type agrees with the exact value modulo 2^w and lies in the type's range; with
.sat it is the exact value clamped to that range. -/
def Obligations.FitWrapsOrClamps : Prop :=
  ∀ (ty : Ty) (x : Int),
    let w := ty.bits
    let lo : Int := if ty.isSigned then -(2 ^ (w - 1) : Nat) else 0
    let hi : Int := if ty.isSigned then (2 ^ (w - 1) : Nat) - 1 else (2 ^ w : Nat) - 1
    (lo ≤ toInt ty.isSigned w (fit ty false x) ∧ toInt ty.isSigned w (fit ty false x) ≤ hi ∧
      (toInt ty.isSigned w (fit ty false x) - x) % (2 ^ w : Nat) = 0 ∧ fit ty false x < 2 ^ w) ∧
    toInt ty.isSigned w (fit ty true x) = max lo (min hi x)

/-- 07 R113: when every group of the team that has not exited has arrived at barrier n, every group parked there goes on, past its
BAR; while one has not, nothing changes. -/
def Obligations.BarriersReleaseTogether : Prop :=
  ∀ (s : State) (ctx : Nat) (task : W64) (n : Nat), (s.groups.map (·.id)).Nodup →
    ((∀ g ∈ s.groups, g.id.ctx = ctx → g.id.task = task → g.st ≠ .exited → g.atBar = some n) →
      ∀ g ∈ s.groups, g.id.ctx = ctx → g.id.task = task → g.st = .parked (.bar n) →
        (s.releaseBar ctx task n).group? g.id =
          some { g.retire g.ilen g.ie s.now with st := .ready, since := s.now }) ∧
    (∀ g ∈ s.groups, g.id.ctx = ctx → g.id.task = task → g.st ≠ .exited → g.atBar ≠ some n →
      s.releaseBar ctx task n = s) ∧
    (∀ id : GroupId, ¬(id.ctx = ctx ∧ id.task = task) → (s.releaseBar ctx task n).group? id = s.group? id)

/-! All instructions. -/

/-- 05 R82: for every instruction, a G = 1 form ignores %exm and the lane predicates: it is executed once, for one lane, when it has
no predicate or its q predicate, inverted under PN, is true; otherwise it does nothing but retire. -/
def Obligations.FalsePredicatesDoNothing : Prop :=
  ∀ (i : Instr) (s : State) (g : Group) (sh : Shape), i.shape = some sh → sh.h.g = true → s.cur = some g.id →
    s.group? g.id = some g →
    (∀ n pn, sh.h.guard = some (n, pn) → (g.q.getD n.val false) = pn → exec i s = .next (s.retire g sh.h)) ∧
    lanesOf g sh.h = [0] ∧
    (sh.h.guard = none → s.ready g sh = .go → s.issues i g = true) ∧
    (∀ n pn, sh.h.guard = some (n, pn) → (g.q.getD n.val false) = !pn → s.ready g sh = .go → s.issues i g = true)

/-- 05 R94; 07 R106: for every instruction whose predicate lets it execute, the checks at issue come before its effect: one that
traps leaves nothing but the trap, and one that waits leaves the machine as it is.

05 R72, R73, R76, R78, R79; 19 R348: what they answer, in order. WINDOW for a main-file register at or above the window; LEGEMPTY for an
operand-file or last-result source that the leg has not written; for the first empty main-file source EMPTY under its FE, else a wait;
a wait for an empty data register that D names or an empty destination; a wait for a g register that a load has still to write; UNCORR
for an uncorrectable source where some lane executes, but never for PREF, CMAINT, ERSV and EREL (11 R212, R213, R220); else the
instruction goes ahead. That D and the g registers come after S1 to S3 is
the model's reading (log 87), and so is what a lane consumes (log 65). -/
def Obligations.ChecksComeFirst : Prop :=
  ∀ (i : Instr) (s : State) (g : Group) (sh : Shape), i.shape = some sh → (sh.h.g = true → guardQ g sh.h = true) →
    s.cur = some g.id → s.group? g.id = some g →
    (∀ c, s.ready g sh = .trap c → exec i s = s.traps g sh.h { cause := c }) ∧
    (s.ready g sh = .hold → exec i s = .next s) ∧
    let fs := [sh.d, sh.s1, sh.s2, sh.s3]
    let empty (m n : Nat) : Prop := ∃ j < n, g.full.getD (m + j) true = false
    let outside : Prop := ∃ f ∈ fs, ∃ (m : Fin 512) (ok : Bool) (n : Nat),
      (f = .src (.v m) ok n ∨ f = .dst (.v m) ok n) ∧ g.v.length < m.val + n
    let legEmpty : Prop := ∃ f ∈ fs,
      (∃ (m : Fin 32) (ok : Bool) (n : Nat), f = .src (.o m) ok n ∧ ∃ j < n, g.o.getD (m.val + j) none = none) ∨
      (∃ (m : Fin 4) (ok : Bool) (n : Nat), f = .src (.l m) ok n ∧ g.l.getD m.val none = none)
    let srcE (f : Fld) : Prop := ∃ (m : Fin 512) (ok : Bool) (n : Nat), f = .src (.v m) ok n ∧ empty m.val n
    let dstE : Prop := ∃ (m : Fin 512) (ok : Bool) (n : Nat), sh.d = .dst (.v m) ok n ∧ empty m.val n
    let pending : Prop := ∃ f ∈ fs, ∃ r ∈ f.gRegs, ∃ l ∈ s.loads, l.gid = g.id ∧ l.dst = .g r
    let bad : Prop := sh.calm = false ∧ lanesOf g sh.h ≠ [] ∧ ∃ f ∈ sh.reads, f.bad g = true
    (sh.calm = true ↔ (∃ h llc a b, i = .pref h llc a b) ∨ (∃ h a b, i = .cmaintInv h a b) ∨ (∃ h d a b, i = .ersv h d a b) ∨
      ∃ h a, i = .erel h a) ∧
    let answer (fe : Bool) : Ready := if fe then .trap .empty else .hold
    (outside → s.ready g sh = .trap .window) ∧
    (¬ outside → legEmpty → s.ready g sh = .trap .legempty) ∧
    (¬ outside → ¬ legEmpty →
      (srcE sh.s1 → s.ready g sh = answer sh.h.fe1) ∧
      (¬ srcE sh.s1 → srcE sh.s2 → s.ready g sh = answer sh.h.fe2) ∧
      (¬ srcE sh.s1 → ¬ srcE sh.s2 → srcE sh.s3 → s.ready g sh = answer sh.h.fe3) ∧
      (¬ srcE sh.s1 → ¬ srcE sh.s2 → ¬ srcE sh.s3 →
        (srcE sh.d ∨ dstE → s.ready g sh = .hold) ∧
        (¬ srcE sh.d → ¬ dstE →
          (pending → s.ready g sh = .hold) ∧ (¬ pending → bad → s.ready g sh = .trap .uncorr) ∧
            (¬ pending → ¬ bad → s.ready g sh = .go))))

/-! Decoding, steps and the whole machine. -/

/-- 05 R64 to R68; 07; 09; 10: words that the spec prints decode to the instructions that they stand for, and EXIT's word with
register 0 in a specifier field that it does not use decodes to nothing (05 R66). -/
def Obligations.SpecWordsDecode : Prop :=
  decode 0x2000F000C01C17FE none =
    some (.iadd { g := false, e := true, guard := none, fe1 := false, fe2 := false, fe3 := false, lit := none } false .i32
      (.v 3) (.v 1) (.k 5)) ∧
  decode 0x0E00F0FFBFEFFBFE none =
    some (.exit { g := false, e := true, guard := none, fe1 := false, fe2 := false, fe3 := false, lit := none }) ∧
  decode 0x6010F000C0100BFE none =
    some (.fadd { g := false, e := true, guard := none, fe1 := false, fe2 := false, fe3 := false, lit := none } .rne false .f32
      (.v 3) (.v 1) (.v 2)) ∧
  decode 0x5A1070A2006FFBFE none =
    some (.lred { g := false, e := false, guard := none, fe1 := false, fe2 := false, fe3 := false, lit := none } .add .f32
      (.g 8) (.v 6)) ∧
  decode 0x0E00F0FFBFEFF800 none = none

/-- 05 R84 to R94; 03 R47: a step of an issue slot fetches the word at its group's pc, and its literal, and executes what they
decode to; time then passes. The slot is the one that the agenda names, or with an empty agenda and nothing due the one whose turn it
is (DESIGN CHOICE, log 2). -/
def Obligations.StepRunsTheDecodedInstruction : Prop :=
  ∀ (s s0 t : State) (site : Site) (slot : Nat) (rest : List Move) (g : Group) (b : Block) (bs : List Byte) (i : Instr)
    (sh : Shape),
    s.fatal = false → s.recovery = false → s.fenced (Site.unit site) = false →
    (s.agenda = .issue site slot :: rest ∧ s0 = { s with agenda := rest }) ∨
      (s.agenda = [] ∧ s.turnMove = none ∧ s.issuer = (site, slot) ∧
        s0 = { s with focus := (site, slot) }) →
    s0.inSlot site slot = some g → g.spill = 0 ∨ s0.areaFenced g = false → g.reissue = [] → g.pend = [] → g.block = some b →
    s0.codeWord g.id g.pc = .ok bs →
    (namesLit (wordOf bs) = false ∧ decode (wordOf bs) none = some i) ∨
      (namesLit (wordOf bs) = true ∧ b.stop ≠ g.pc + 8 ∧
        ∃ ls, s0.codeWord g.id (g.pc + 8) = .ok ls ∧ decode (wordOf bs) (some (wordOf ls)) = some i) →
    i.shape = some sh → siteOk g.site sh = true → g.legPos < Config.legLimit →
    (i.endsBlock = true → g.pc + BitVec.ofNat 64 (8 * sh.h.len) = b.stop) → i.isYield = false →
    exec i { (s0.setGroup g).noteFetch g.id (fetchedAt g g i) with cur := some g.id } = .next t → step s = .next t.finish

/-- 21 R354, R359; 01 R23; 11 R186: after reset and bring-up the device is ready, with no context, launch, team, group, load or line,
every matrix unit empty, no sequence number used and the Ready report to come; its memories are in canonical form. That the record it
comes up with is the one of log 5 (DESIGN CHOICE) is the model's choice. -/
def Obligations.ResetIsReady : Prop :=
  let s := State.reset
  s.memOk = true ∧ s.fatal = false ∧ s.recovery = false ∧ s.status = 1 ∧ s.ctxs = [] ∧ s.launches = [] ∧ s.teams = [] ∧
    s.groups = [] ∧ s.loads = [] ∧ s.ember = [] ∧ s.l1 = [] ∧ s.copies = [] ∧ s.triggers = [] ∧ s.now = 0 ∧
    (∀ u < 128, s.munit u = idleUnit) ∧ s.fns.map (·.lastrx) = [0] ∧ s.fns.map (·.lasttx) = [0] ∧
    (s.fns.map fun f => f.held.map (·.type)) = [[9]] ∧ recordFormed s.recBytes = true

/-- 05 R64 to R68: decoding the words of any well-formed instruction gives the instruction back, with every operand at every value
that its encoding admits. -/
def Obligations.DecodeOfEncode : Prop :=
  ∀ (i : Instr) (w : W64) (lit : Option W64), i.wf = true → encode i = some (w, lit) → decode w lit = some i

/-- 19 R349; 21 R359, R360: a device that has stopped after a fatal error stays stopped while no reset comes: its memory, registers
and queues stay as they are, and only time passes. The recovery state likewise does nothing until a reset or a new image or record
comes. -/
def Obligations.StoppedDevicesStayStopped : Prop :=
  ∀ (s t : State), step s = .next t →
    (s.dead = true → t.dead = true ∧ t = { s with agenda := s.agenda.tail, now := t.now, tick := s.tick + 1, cur := none }) ∧
    (s.recovering = true →
      t.recovering = true ∧ t = { s with agenda := s.agenda.tail, now := t.now, tick := s.tick + 1, cur := none }) ∧
    (s.dead = true ∨ s.recovering = true → s.now < t.now)

/-- The model's own promise (DESIGN CHOICE, log 2; 07 R106; 05 R94): from every state whatever, the next step answers a next state. No instruction of
any form, no event and no data ends a run in a fault or a refusal. -/
def Obligations.EveryStepAnswersANextState : Prop := ∀ s : State, ∃ t : State, step s = .next t

/-- 11 R186, R191, R207; 19 R349; 21 R358: whatever a step does, memory, the scratchpads and host memory stay in the one form in which equal
memories are equal data: addresses rising, and nothing listed that reads as an unlisted byte does (what such a byte reads as is
DESIGN CHOICE, logs 1 and 8). -/
def Obligations.StepsKeepMemoryCanonical : Prop := ∀ s t : State, step s = .next t → s.memOk = true → t.memOk = true
end

