-- ==== Sys2Proof/Laws/Decode.lean ====
section
/-! SUPPORT. The decoder undoes the encoder: the fields of a packed word, and what a word of a well-formed instruction
reads as (05 R64 to R68, R93). -/

namespace Sys2Proof

theorem Opd.ofBits_bits (o : Opd) : Opd.ofBits o.bits = o := by
  cases o with
  | zero => decide
  | lit => decide
  | v n => have := n.2; simp [Opd.bits, Opd.ofBits, Nat.mod_eq_of_lt (show n.val < 1024 by omega), Nat.mod_eq_of_lt this]
  | o n => revert n; decide
  | l n => revert n; decide
  | g n => revert n; decide
  | k n => revert n; decide
  | kn n => revert n; decide
  | p n => revert n; decide
  | q n => revert n; decide

theorem Ty.ofCode_code (t : Ty) : Ty.ofCode t.code = t := by cases t <;> rfl
theorem Ty.code_lt (t : Ty) : t.code < 16 := by cases t <;> decide

/-- The fields of a packed word. -/
theorem bitsOf_packWord (op fn ty g e pr pn fe d s1 s2 s3 : Nat)
    (hop : op < 128) (hfn : fn < 16) (hty : ty < 16) (hg : g < 2) (he : e < 2) (hpr : pr < 8) (hpn : pn < 2)
    (hfe : fe < 8) (hd : d < 1024) (h1 : s1 < 1024) (h2 : s2 < 1024) (h3 : s3 < 1024) :
    let w := packWord op fn ty g e pr pn fe d s1 s2 s3
    bitsOf w 57 7 = op ∧ bitsOf w 53 4 = fn ∧ bitsOf w 49 4 = ty ∧ bitsOf w 48 1 = g ∧ bitsOf w 47 1 = e ∧
      bitsOf w 44 3 = pr ∧ bitsOf w 43 1 = pn ∧ bitsOf w 42 1 = fe / 4 ∧ bitsOf w 41 1 = fe / 2 % 2 ∧
      bitsOf w 40 1 = fe % 2 ∧ bitsOf w 30 10 = d ∧ bitsOf w 20 10 = s1 ∧ bitsOf w 10 10 = s2 ∧
      bitsOf w 0 10 = s3 := by
  intro w
  have hw : w.toNat = op * 2 ^ 57 + fn * 2 ^ 53 + ty * 2 ^ 49 + g * 2 ^ 48 + e * 2 ^ 47 + pr * 2 ^ 44 + pn * 2 ^ 43
      + fe * 2 ^ 40 + d * 2 ^ 30 + s1 * 2 ^ 20 + s2 * 2 ^ 10 + s3 := by
    simp only [w, packWord, BitVec.toNat_ofNat]
    apply Nat.mod_eq_of_lt; omega
  simp only [bitsOf, hw]
  refine ⟨?_, ?_, ?_, ?_, ?_, ?_, ?_, ?_, ?_, ?_, ?_, ?_, ?_, ?_⟩ <;> omega

/-- The numbers of a row fit their fields. -/
def Shape.fits (s : Shape) : Prop := s.op < 128 ∧ s.fn < 16 ∧ s.ty < 16

theorem Hdr.pr_lt (h : Hdr) : h.pr < 8 := by
  unfold Hdr.pr; rcases h.guard with _ | ⟨p, n⟩
  · decide
  · exact Nat.lt_trans p.2 (by decide)
theorem toNat_lt_two (b : Bool) : b.toNat < 2 := by cases b <;> decide
theorem Hdr.pn_lt (h : Hdr) : h.pn < 2 := by
  unfold Hdr.pn; rcases h.guard with _ | ⟨p, n⟩
  · decide
  · exact toNat_lt_two n
theorem Hdr.fe_lt (h : Hdr) : h.fe < 8 := by
  unfold Hdr.fe; cases h.fe1 <;> cases h.fe2 <;> cases h.fe3 <;> decide

/-- The fields of the word of a row. -/
theorem Shape.bitsOf_words (s : Shape) (hf : s.fits) :
    bitsOf s.words.1 57 7 = s.op ∧ bitsOf s.words.1 53 4 = s.fn ∧ bitsOf s.words.1 49 4 = s.ty ∧
      bitsOf s.words.1 48 1 = s.h.g.toNat ∧ bitsOf s.words.1 47 1 = s.h.e.toNat ∧ bitsOf s.words.1 44 3 = s.h.pr ∧
      bitsOf s.words.1 43 1 = s.h.pn ∧ bitsOf s.words.1 42 1 = s.h.fe / 4 ∧ bitsOf s.words.1 41 1 = s.h.fe / 2 % 2 ∧
      bitsOf s.words.1 40 1 = s.h.fe % 2 ∧ bitsOf s.words.1 30 10 = s.d.bits.toNat ∧
      bitsOf s.words.1 20 10 = s.s1.bits.toNat ∧ bitsOf s.words.1 10 10 = s.s2.bits.toNat ∧
      bitsOf s.words.1 0 10 = s.s3.bits.toNat :=
  bitsOf_packWord _ _ _ _ _ _ _ _ _ _ _ _ hf.1 hf.2.1 hf.2.2 (toNat_lt_two _) (toNat_lt_two _) s.h.pr_lt s.h.pn_lt
    s.h.fe_lt s.d.bits.isLt s.s1.bits.isLt s.s2.bits.isLt s.s3.bits.isLt

theorem Hdr.of_fields (h : Hdr) :
    ({ g := h.g.toNat = 1, e := h.e.toNat = 1
       guard := if h.pr = 7 then none else some (⟨h.pr % 7, Nat.mod_lt _ (by decide)⟩, h.pn = 1)
       fe1 := h.fe / 4 = 1, fe2 := h.fe / 2 % 2 = 1, fe3 := h.fe % 2 = 1, lit := h.lit } : Hdr) = h := by
  obtain ⟨g, e, guard, fe1, fe2, fe3, lit⟩ := h
  rcases guard with _ | ⟨p, n⟩
  · cases g <;> cases e <;> cases fe1 <;> cases fe2 <;> cases fe3 <;> simp [Hdr.pr, Hdr.fe]
  · have hp : p.val % 7 = p.val := Nat.mod_eq_of_lt p.2
    have hp7 : p.val ≠ 7 := Nat.ne_of_lt p.2
    cases g <;> cases e <;> cases n <;> cases fe1 <;> cases fe2 <;> cases fe3 <;>
      simp [Hdr.pr, Hdr.pn, Hdr.fe, hp7, hp]

theorem Raw.of_words (s : Shape) (hf : s.fits) :
    Raw.of s.words.1 s.h.lit =
      { h := s.h, op := s.op, fn := s.fn, ty := Ty.ofCode s.ty, d := Opd.ofBits s.d.bits, s1 := Opd.ofBits s.s1.bits
        s2 := Opd.ofBits s.s2.bits, s3 := Opd.ofBits s.s3.bits, r3 := s.s3.bits.toNat } := by
  obtain ⟨a1, a2, a3, a4, a5, a6, a7, a8, a9, a10, a11, a12, a13, a14⟩ := s.bitsOf_words hf
  simp only [Raw.of, a1, a2, a3, a4, a5, a6, a7, a8, a9, a10, a11, a12, a13, a14, BitVec.ofNat_toNat,
    BitVec.setWidth_eq]
  rw [Hdr.of_fields]

theorem bits_eq_lit (o : Opd) : o.bits.toNat = 0x3FF ↔ o = .lit := by
  cases o with
  | zero => decide
  | lit => decide
  | v n => have := n.2; simp [Opd.bits, Nat.mod_eq_of_lt (show n.val < 1024 by omega)]; omega
  | o n => revert n; decide
  | l n => revert n; decide
  | g n => revert n; decide
  | k n => revert n; decide
  | kn n => revert n; decide
  | p n => revert n; decide
  | q n => revert n; decide

/-- No raw field and no destination names the literal specifier. -/
def Fld.clean : Fld → Prop
  | .un => True
  | .src _ _ _ => True
  | .dst o _ _ => o ≠ .lit
  | .raw b => b.toNat ≠ 0x3FF

theorem Fld.clean_lit (f : Fld) (h : f.clean) : (f.bits.toNat == 0x3FF) = f.isLit := by
  cases f with
  | un => decide
  | src o ok n => rw [Bool.eq_iff_iff]; simp only [beq_iff_eq, Fld.bits, bits_eq_lit]; cases o <;> simp [Fld.isLit]
  | dst o ok n =>
    rw [Bool.eq_iff_iff]; simp only [beq_iff_eq, Fld.bits, bits_eq_lit, Fld.isLit]; simpa [Fld.clean] using h
  | raw b => simpa [Fld.bits, Fld.isLit, Fld.clean] using h

theorem namesLit_words (s : Shape) (hf : s.fits) (hd : s.d.clean) (h1 : s.s1.clean) (h2 : s.s2.clean)
    (h3 : s.s3.clean) (hr : (rawS3 s.op && s.s3.isLit) = false) : namesLit s.words.1 = (s.d.isLit || s.s1.isLit || s.s2.isLit || s.s3.isLit) := by
  obtain ⟨a1, -, -, -, -, -, -, -, -, -, a11, a12, a13, a14⟩ := s.bitsOf_words hf
  rw [namesLit, a1, a11, a12, a13, a14, s.d.clean_lit hd, s.s1.clean_lit h1, s.s2.clean_lit h2, s.s3.clean_lit h3]
  cases hq : rawS3 s.op <;> simp_all

/-- A well-formed instruction that its own fields rebuild decodes from its words. -/
theorem decode_words (i : Instr) (s : Shape) (hs : i.shape = some s) (hw : i.wf = true) (hf : s.fits)
    (hd : s.d.clean) (h1 : s.s1.clean) (h2 : s.s2.clean) (h3 : s.s3.clean) (hr : (rawS3 s.op && s.s3.isLit) = false)
    (hb : build { h := s.h, op := s.op, fn := s.fn, ty := Ty.ofCode s.ty, d := Opd.ofBits s.d.bits
                  s1 := Opd.ofBits s.s1.bits, s2 := Opd.ofBits s.s2.bits, s3 := Opd.ofBits s.s3.bits
                  r3 := s.s3.bits.toNat } = some i) :
    decode s.words.1 s.words.2 = some i := by
  have hl : s.litOk = true := by
    simp only [Instr.wf, hs, Bool.and_eq_true] at hw; exact hw.1.2
  have hn := namesLit_words s hf hd h1 h2 h3 hr
  have hl' : s.h.lit.isSome = namesLit s.words.1 := by rw [hn]; simpa [Shape.litOk] using hl
  have he : encode i = some s.words := by simp [encode, hs]
  have h2' : s.words.2 = s.h.lit := rfl
  have hlit : (if namesLit s.words.1 then s.h.lit else none) = s.h.lit := by
    rw [← hl']; cases s.h.lit <;> rfl
  have hno : (namesLit s.words.1 && s.h.lit.isNone) = false := by
    rw [← hl']; cases s.h.lit <;> rfl
  have hself : (encode i == some (s.words.1, s.h.lit)) = true := by
    rw [he, show (s.words.1, s.h.lit) = s.words from rfl]; simp
  simp only [decode, h2', hlit, hno, Bool.false_eq_true, if_false, Raw.of_words s hf, hb, hw, hself, Bool.and_self,
    if_true]

/-- An instruction that holds a number in S3 names no literal there. -/
theorem Instr.shape_raw (i : Instr) (s : Shape) (hs : i.shape = some s) : (rawS3 s.op && s.s3.isLit) = false := by
  cases i <;> first | (cases hs; rfl) | (cases hs)

/-- What the round trip of one instruction needs of its row. -/
theorem roundTrip_of (i : Instr) (s : Shape) (hs : i.shape = some s) (hf : s.fits)
    (hd : s.d.ok = true → s.d.clean) (h3 : s.s3.clean) (h1 : s.s1.clean := by trivial) (h2 : s.s2.clean := by trivial)
    (hb : i.wf = true → build { h := s.h, op := s.op, fn := s.fn, ty := Ty.ofCode s.ty, d := Opd.ofBits s.d.bits
                                s1 := Opd.ofBits s.s1.bits, s2 := Opd.ofBits s.s2.bits, s3 := Opd.ofBits s.s3.bits
                                r3 := s.s3.bits.toNat } = some i)
    (w : W64) (lit : Option W64) (hw : i.wf = true) (he : encode i = some (w, lit)) : decode w lit = some i := by
  have hd' : s.d.ok = true := by
    simp only [Instr.wf, hs, Shape.opdsOk, Bool.and_eq_true] at hw; exact hw.1.1.2.1.1.1
  have hse : s.words = (w, lit) := by simpa [encode, hs] using he
  have := decode_words i s hs hw hf (hd hd') h1 h2 h3 (i.shape_raw s hs) (hb hw)
  rw [hse] at this; exact this

theorem SReg.ofCode_code (r : SReg) : SReg.ofCode (r.code / 1024 % 4 * 1024 + r.code % 1024) = r := by
  cases r with
  | sa k => revert k; decide
  | crd a => revert a; decide
  | _ => decide

theorem SReg.code_clean (r : SReg) : r.code % 1024 ≠ 1023 := by
  cases r with
  | sa k => revert k; decide
  | crd a => revert a; decide
  | _ => decide

/-- The scope field of an ordered access reads back; without an order the scope is that of a group. -/
theorem scope_back (o : Bool) (s : Scope) (h : o = true ∨ s = .grp) : scopeOf (Opd.ofBits (scopeS o s).bits) = s := by
  cases o <;> cases s <;> first | rfl | simp at h

end Sys2Proof
end

