-- ==== Sys2Proof/Laws/Dispatch.lean ====
section
/-! SUPPORT. What exec calls for each constructor: the meanings by name, so that no proof unfolds the dispatch. -/

namespace Sys2Proof.Machine

@[simp] theorem exec_nop (h : Hdr) (s : State) :
    exec (.nop h) s = execNop h s := rfl
@[simp] theorem exec_bra (h : Hdr) (t : Opd) (s : State) :
    exec (.bra h t) s = execBra h t s := rfl
@[simp] theorem exec_brg (h : Hdr) (t : Opd) (s : State) :
    exec (.brg h t) s = execBrg h t s := rfl
@[simp] theorem exec_jmp (h : Hdr) (t : Opd) (s : State) :
    exec (.jmp h t) s = execJmp h t s := rfl
@[simp] theorem exec_call (h : Hdr) (d t : Opd) (s : State) :
    exec (.call h d t) s = execCall h d t s := rfl
@[simp] theorem exec_ret (h : Hdr) (a : Opd) (s : State) :
    exec (.ret h a) s = execRet h a s := rfl
@[simp] theorem exec_loop (h : Hdr) (d t : Opd) (s : State) :
    exec (.loop h d t) s = execLoop h d t s := rfl
@[simp] theorem exec_exit (h : Hdr) (s : State) :
    exec (.exit h) s = execExit h s := rfl
@[simp] theorem exec_exitG (h : Hdr) (s : State) :
    exec (.exitG h) s = execExitG h s := rfl
@[simp] theorem exec_halt (h : Hdr) (s : State) :
    exec (.halt h) s = execHalt h s := rfl
@[simp] theorem exec_bar (h : Hdr) (n : Opd) (s : State) :
    exec (.bar h n) s = execBar h n s := rfl
@[simp] theorem exec_yield (h : Hdr) (s : State) :
    exec (.yield h) s = execYield h s := rfl
@[simp] theorem exec_waitAny (h : Hdr) (c : Bool) (d m : Opd) (s : State) :
    exec (.waitAny h c d m) s = execWaitAny h c d m s := rfl
@[simp] theorem exec_waitAll (h : Hdr) (c : Bool) (m : Opd) (s : State) :
    exec (.waitAll h c m) s = execWaitAll h c m s := rfl
@[simp] theorem exec_waitMs (h : Hdr) (a ph : Opd) (s : State) :
    exec (.waitMs h a ph) s = execWaitMs h a ph s := rfl
@[simp] theorem exec_ffr (h : Hdr) (c : Bool) (d m : Opd) (s : State) :
    exec (.ffr h c d m) s = execFfr h c d m s := rfl
@[simp] theorem exec_trapSys (h : Hdr) (code : Opd) (s : State) :
    exec (.trapSys h code) s = execTrapSys h code s := rfl
@[simp] theorem exec_trapBrk (h : Hdr) (code : Opd) (s : State) :
    exec (.trapBrk h code) s = execTrapBrk h code s := rfl
@[simp] theorem exec_trapretSame (h : Hdr) (s : State) :
    exec (.trapretSame h) s = execTrapretSame h s := rfl
@[simp] theorem exec_trapretNext (h : Hdr) (s : State) :
    exec (.trapretNext h) s = execTrapretNext h s := rfl
@[simp] theorem exec_abort (h : Hdr) (s : State) :
    exec (.abort h) s = execAbort h s := rfl
@[simp] theorem exec_bsa (h : Hdr) (lt : Bool) (slot thr t : Opd) (s : State) :
    exec (.bsa h lt slot thr t) s = execBsa h lt slot thr t s := rfl
@[simp] theorem exec_iadd (h : Hdr) (sat : Bool) (ty : Ty) (d a b : Opd) (s : State) :
    exec (.iadd h sat ty d a b) s = execIadd h sat ty d a b s := rfl
@[simp] theorem exec_isub (h : Hdr) (sat : Bool) (ty : Ty) (d a b : Opd) (s : State) :
    exec (.isub h sat ty d a b) s = execIsub h sat ty d a b s := rfl
@[simp] theorem exec_imul (h : Hdr) (fn : MulFn) (ty : Ty) (d a b : Opd) (s : State) :
    exec (.imul h fn ty d a b) s = execImul h fn ty d a b s := rfl
@[simp] theorem exec_imad (h : Hdr) (ty : Ty) (d a b c : Opd) (s : State) :
    exec (.imad h ty d a b c) s = execImad h ty d a b c s := rfl
@[simp] theorem exec_idiv (h : Hdr) (rem : Bool) (ty : Ty) (d a b : Opd) (s : State) :
    exec (.idiv h rem ty d a b) s = execIdiv h rem ty d a b s := rfl
@[simp] theorem exec_imin (h : Hdr) (ty : Ty) (d a b : Opd) (s : State) :
    exec (.imin h ty d a b) s = execImin h ty d a b s := rfl
@[simp] theorem exec_imax (h : Hdr) (ty : Ty) (d a b : Opd) (s : State) :
    exec (.imax h ty d a b) s = execImax h ty d a b s := rfl
@[simp] theorem exec_iabs (h : Hdr) (ty : Ty) (d a : Opd) (s : State) :
    exec (.iabs h ty d a) s = execIabs h ty d a s := rfl
@[simp] theorem exec_ineg (h : Hdr) (ty : Ty) (d a : Opd) (s : State) :
    exec (.ineg h ty d a) s = execIneg h ty d a s := rfl
@[simp] theorem exec_and (h : Hdr) (ty : Ty) (d a b : Opd) (s : State) :
    exec (.and h ty d a b) s = execAnd h ty d a b s := rfl
@[simp] theorem exec_or (h : Hdr) (ty : Ty) (d a b : Opd) (s : State) :
    exec (.or h ty d a b) s = execOr h ty d a b s := rfl
@[simp] theorem exec_xor (h : Hdr) (ty : Ty) (d a b : Opd) (s : State) :
    exec (.xor h ty d a b) s = execXor h ty d a b s := rfl
@[simp] theorem exec_andn (h : Hdr) (ty : Ty) (d a b : Opd) (s : State) :
    exec (.andn h ty d a b) s = execAndn h ty d a b s := rfl
@[simp] theorem exec_orn (h : Hdr) (ty : Ty) (d a b : Opd) (s : State) :
    exec (.orn h ty d a b) s = execOrn h ty d a b s := rfl
@[simp] theorem exec_not (h : Hdr) (ty : Ty) (d a : Opd) (s : State) :
    exec (.not h ty d a) s = execNot h ty d a s := rfl
@[simp] theorem exec_shl (h : Hdr) (ty : Ty) (d a b : Opd) (s : State) :
    exec (.shl h ty d a b) s = execShl h ty d a b s := rfl
@[simp] theorem exec_shr (h : Hdr) (ty : Ty) (d a b : Opd) (s : State) :
    exec (.shr h ty d a b) s = execShr h ty d a b s := rfl
@[simp] theorem exec_sar (h : Hdr) (ty : Ty) (d a b : Opd) (s : State) :
    exec (.sar h ty d a b) s = execSar h ty d a b s := rfl
@[simp] theorem exec_rol (h : Hdr) (ty : Ty) (d a b : Opd) (s : State) :
    exec (.rol h ty d a b) s = execRol h ty d a b s := rfl
@[simp] theorem exec_popc (h : Hdr) (ty : Ty) (d a : Opd) (s : State) :
    exec (.popc h ty d a) s = execPopc h ty d a s := rfl
@[simp] theorem exec_clz (h : Hdr) (ty : Ty) (d a : Opd) (s : State) :
    exec (.clz h ty d a) s = execClz h ty d a s := rfl
@[simp] theorem exec_ctz (h : Hdr) (ty : Ty) (d a : Opd) (s : State) :
    exec (.ctz h ty d a) s = execCtz h ty d a s := rfl
@[simp] theorem exec_brev (h : Hdr) (ty : Ty) (d a : Opd) (s : State) :
    exec (.brev h ty d a) s = execBrev h ty d a s := rfl
@[simp] theorem exec_bfx (h : Hdr) (ty : Ty) (d a b c : Opd) (s : State) :
    exec (.bfx h ty d a b c) s = execBfx h ty d a b c s := rfl
@[simp] theorem exec_bfi (h : Hdr) (ty : Ty) (d a b c : Opd) (s : State) :
    exec (.bfi h ty d a b c) s = execBfi h ty d a b c s := rfl
@[simp] theorem exec_sel (h : Hdr) (ty : Ty) (d a b c : Opd) (s : State) :
    exec (.sel h ty d a b c) s = execSel h ty d a b c s := rfl
@[simp] theorem exec_icmp (h : Hdr) (fn : Cmp) (ty : Ty) (d a b : Opd) (s : State) :
    exec (.icmp h fn ty d a b) s = execIcmp h fn ty d a b s := rfl
@[simp] theorem exec_lea (h : Hdr) (ty : Ty) (d a b c : Opd) (s : State) :
    exec (.lea h ty d a b c) s = execLea h ty d a b c s := rfl
@[simp] theorem exec_mov (h : Hdr) (ty : Ty) (d a : Opd) (s : State) :
    exec (.mov h ty d a) s = execMov h ty d a s := rfl
@[simp] theorem exec_movl (h : Hdr) (ty : Ty) (d a b : Opd) (s : State) :
    exec (.movl h ty d a b) s = execMovl h ty d a b s := rfl
@[simp] theorem exec_cvt (h : Hdr) (sat : Bool) (ty sty : Ty) (d a : Opd) (s : State) :
    exec (.cvt h sat ty sty d a) s = execCvt h sat ty sty d a s := rfl
@[simp] theorem exec_pack (h : Hdr) (ty : Ty) (d a b c : Opd) (s : State) :
    exec (.pack h ty d a b c) s = execPack h ty d a b c s := rfl
@[simp] theorem exec_unpk (h : Hdr) (ty : Ty) (d a b : Opd) (s : State) :
    exec (.unpk h ty d a b) s = execUnpk h ty d a b s := rfl
@[simp] theorem exec_idot4 (h : Hdr) (sat : Bool) (ty : Ty) (d a b c : Opd) (s : State) :
    exec (.idot4 h sat ty d a b c) s = execIdot4 h sat ty d a b c s := rfl
@[simp] theorem exec_movsRead (h : Hdr) (r : SReg) (d : Opd) (s : State) :
    exec (.movsRead h r d) s = execMovsRead h r d s := rfl
@[simp] theorem exec_movsWrite (h : Hdr) (r : SReg) (a : Opd) (s : State) :
    exec (.movsWrite h r a) s = execMovsWrite h r a s := rfl
@[simp] theorem exec_tagclrWrite (h : Hdr) (a : Opd) (s : State) :
    exec (.tagclrWrite h a) s = execTagclrWrite h a s := rfl
@[simp] theorem exec_pand (h : Hdr) (d a b : Opd) (s : State) :
    exec (.pand h d a b) s = execPand h d a b s := rfl
@[simp] theorem exec_por (h : Hdr) (d a b : Opd) (s : State) :
    exec (.por h d a b) s = execPor h d a b s := rfl
@[simp] theorem exec_pxor (h : Hdr) (d a b : Opd) (s : State) :
    exec (.pxor h d a b) s = execPxor h d a b s := rfl
@[simp] theorem exec_pnot (h : Hdr) (d a : Opd) (s : State) :
    exec (.pnot h d a) s = execPnot h d a s := rfl
@[simp] theorem exec_pmov (h : Hdr) (d a : Opd) (s : State) :
    exec (.pmov h d a) s = execPmov h d a s := rfl
@[simp] theorem exec_vote (h : Hdr) (fn : VoteFn) (d a : Opd) (s : State) :
    exec (.vote h fn d a) s = execVote h fn d a s := rfl
@[simp] theorem exec_shfl (h : Hdr) (fn : ShflFn) (ty : Ty) (d a b c : Opd) (s : State) :
    exec (.shfl h fn ty d a b c) s = execShfl h fn ty d a b c s := rfl
@[simp] theorem exec_permb (h : Hdr) (tbl : Bool) (d a b c : Opd) (s : State) :
    exec (.permb h tbl d a b c) s = execPermb h tbl d a b c s := rfl
@[simp] theorem exec_lscan (h : Hdr) (fn : FoldFn) (excl : Bool) (ty : Ty) (d a : Opd) (s : State) :
    exec (.lscan h fn excl ty d a) s = execLscan h fn excl ty d a s := rfl
@[simp] theorem exec_lred (h : Hdr) (fn : FoldFn) (ty : Ty) (d a : Opd) (s : State) :
    exec (.lred h fn ty d a) s = execLred h fn ty d a s := rfl
@[simp] theorem exec_lanexGet (h : Hdr) (ty : Ty) (d a b : Opd) (s : State) :
    exec (.lanexGet h ty d a b) s = execLanexGet h ty d a b s := rfl
@[simp] theorem exec_lanexPut (h : Hdr) (ty : Ty) (d a b : Opd) (s : State) :
    exec (.lanexPut h ty d a b) s = execLanexPut h ty d a b s := rfl
@[simp] theorem exec_fadd (h : Hdr) (rm : Rm) (sat : Bool) (ty : Ty) (d a b : Opd) (s : State) :
    exec (.fadd h rm sat ty d a b) s = execFadd h rm sat ty d a b s := rfl
@[simp] theorem exec_fsub (h : Hdr) (rm : Rm) (sat : Bool) (ty : Ty) (d a b : Opd) (s : State) :
    exec (.fsub h rm sat ty d a b) s = execFsub h rm sat ty d a b s := rfl
@[simp] theorem exec_fmul (h : Hdr) (rm : Rm) (sat : Bool) (ty : Ty) (d a b : Opd) (s : State) :
    exec (.fmul h rm sat ty d a b) s = execFmul h rm sat ty d a b s := rfl
@[simp] theorem exec_ffma (h : Hdr) (rm : Rm) (sat : Bool) (ty : Ty) (d a b c : Opd) (s : State) :
    exec (.ffma h rm sat ty d a b c) s = execFfma h rm sat ty d a b c s := rfl
@[simp] theorem exec_fmin (h : Hdr) (ty : Ty) (d a b : Opd) (s : State) :
    exec (.fmin h ty d a b) s = execFmin h ty d a b s := rfl
@[simp] theorem exec_fmax (h : Hdr) (ty : Ty) (d a b : Opd) (s : State) :
    exec (.fmax h ty d a b) s = execFmax h ty d a b s := rfl
@[simp] theorem exec_fcmp (h : Hdr) (fn : FCmp) (ty : Ty) (d a b : Opd) (s : State) :
    exec (.fcmp h fn ty d a b) s = execFcmp h fn ty d a b s := rfl
@[simp] theorem exec_fclass (h : Hdr) (ty : Ty) (d a : Opd) (s : State) :
    exec (.fclass h ty d a) s = execFclass h ty d a s := rfl
@[simp] theorem exec_frnd (h : Hdr) (rm : Rm) (ty : Ty) (d a : Opd) (s : State) :
    exec (.frnd h rm ty d a) s = execFrnd h rm ty d a s := rfl
@[simp] theorem exec_fcvt (h : Hdr) (rm : Rm) (sat : Bool) (ty sty : Ty) (d a b : Opd) (s : State) :
    exec (.fcvt h rm sat ty sty d a b) s = execFcvt h rm sat ty sty d a b s := rfl
@[simp] theorem exec_func (h : Hdr) (fn : FuncFn) (ty : Ty) (d a : Opd) (s : State) :
    exec (.func h fn ty d a) s = execFunc h fn ty d a s := rfl
@[simp] theorem exec_hfma2 (h : Hdr) (rm : Rm) (sat : Bool) (ty : Ty) (d a b c : Opd) (s : State) :
    exec (.hfma2 h rm sat ty d a b c) s = execHfma2 h rm sat ty d a b c s := rfl
@[simp] theorem exec_fdot4 (h : Hdr) (rm : Rm) (sat : Bool) (ty : Ty) (d a b c : Opd) (s : State) :
    exec (.fdot4 h rm sat ty d a b c) s = execFdot4 h rm sat ty d a b c s := rfl
@[simp] theorem exec_fabs (h : Hdr) (ty : Ty) (d a : Opd) (s : State) :
    exec (.fabs h ty d a) s = execFabs h ty d a s := rfl
@[simp] theorem exec_fneg (h : Hdr) (ty : Ty) (d a : Opd) (s : State) :
    exec (.fneg h ty d a) s = execFneg h ty d a s := rfl
@[simp] theorem exec_fcopysign (h : Hdr) (ty : Ty) (d a b : Opd) (s : State) :
    exec (.fcopysign h ty d a b) s = execFcopysign h ty d a b s := rfl
@[simp] theorem exec_ld (h : Hdr) (ord : Order) (sp : Space) (ty : Ty) (d a b : Opd) (scope : Scope) (s : State) :
    exec (.ld h ord sp ty d a b scope) s = execLd h ord sp ty d a b scope s := rfl
@[simp] theorem exec_st (h : Hdr) (ord : Order) (sp : Space) (ty : Ty) (d a b : Opd) (scope : Scope) (s : State) :
    exec (.st h ord sp ty d a b scope) s = execSt h ord sp ty d a b scope s := rfl
@[simp] theorem exec_atom (h : Hdr) (fn : AtomFn) (ord : Order) (scope : Scope) (sp : Space) (ty : Ty) (d a b : Opd) (s : State) :
    exec (.atom h fn ord scope sp ty d a b) s = execAtom h fn ord scope sp ty d a b s := rfl
@[simp] theorem exec_atomo (h : Hdr) (fn : FoldFn) (ty : Ty) (a b c : Opd) (s : State) :
    exec (.atomo h fn ty a b c) s = execAtomo h fn ty a b c s := rfl
@[simp] theorem exec_fence (h : Hdr) (ord : Order) (scope : Scope) (s : State) :
    exec (.fence h ord scope) s = execFence h ord scope s := rfl
@[simp] theorem exec_pref (h : Hdr) (llc : Bool) (a b : Opd) (s : State) :
    exec (.pref h llc a b) s = execPref h llc a b s := rfl
@[simp] theorem exec_cmaintInv (h : Hdr) (a b : Opd) (s : State) :
    exec (.cmaintInv h a b) s = execCmaintInv h a b s := rfl
@[simp] theorem exec_cmaintInvall (h : Hdr) (s : State) :
    exec (.cmaintInvall h) s = execCmaintInvall h s := rfl
@[simp] theorem exec_tier (h : Hdr) (lp : Bool) (a b c : Opd) (s : State) :
    exec (.tier h lp a b c) s = execTier h lp a b c s := rfl
@[simp] theorem exec_ersv (h : Hdr) (d a b : Opd) (s : State) :
    exec (.ersv h d a b) s = execErsv h d a b s := rfl
@[simp] theorem exec_erel (h : Hdr) (a : Opd) (s : State) :
    exec (.erel h a) s = execErel h a s := rfl
@[simp] theorem exec_edisc (h : Hdr) (a b : Opd) (s : State) :
    exec (.edisc h a b) s = execEdisc h a b s := rfl
@[simp] theorem exec_emig (h : Hdr) (a b c : Opd) (s : State) :
    exec (.emig h a b c) s = execEmig h a b c s := rfl
@[simp] theorem exec_rmset (h : Hdr) (d a b c : Opd) (s : State) :
    exec (.rmset h d a b c) s = execRmset h d a b c s := rfl
@[simp] theorem exec_rmsetGet (h : Hdr) (d a b : Opd) (s : State) :
    exec (.rmsetGet h d a b) s = execRmsetGet h d a b s := rfl
@[simp] theorem exec_rmrefInc (h : Hdr) (d a b : Opd) (s : State) :
    exec (.rmrefInc h d a b) s = execRmrefInc h d a b s := rfl
@[simp] theorem exec_rmrefDec (h : Hdr) (d a b : Opd) (s : State) :
    exec (.rmrefDec h d a b) s = execRmrefDec h d a b s := rfl
@[simp] theorem exec_rmrefGet (h : Hdr) (d a b : Opd) (s : State) :
    exec (.rmrefGet h d a b) s = execRmrefGet h d a b s := rfl
@[simp] theorem exec_rmrefSet (h : Hdr) (d a b c : Opd) (s : State) :
    exec (.rmrefSet h d a b c) s = execRmrefSet h d a b c s := rfl
@[simp] theorem exec_msinit (h : Hdr) (kind : MsKind) (rearm chunk : Bool) (d a b c : Opd) (s : State) :
    exec (.msinit h kind rearm chunk d a b c) s = execMsinit h kind rearm chunk d a b c s := rfl
@[simp] theorem exec_msarrArr (h : Hdr) (rel : Bool) (d a b : Opd) (scope : Scope) (s : State) :
    exec (.msarrArr h rel d a b scope) s = execMsarrArr h rel d a b scope s := rfl
@[simp] theorem exec_msarrExp (h : Hdr) (d a b : Opd) (s : State) :
    exec (.msarrExp h d a b) s = execMsarrExp h d a b s := rfl
@[simp] theorem exec_msbind (h : Hdr) (a b : Opd) (s : State) :
    exec (.msbind h a b) s = execMsbind h a b s := rfl
@[simp] theorem exec_msbindUnbind (h : Hdr) (a : Opd) (s : State) :
    exec (.msbindUnbind h a) s = execMsbindUnbind h a s := rfl
@[simp] theorem exec_msqry (h : Hdr) (field : MsField) (acq : Bool) (d a : Opd) (s : State) :
    exec (.msqry h field acq d a) s = execMsqry h field acq d a s := rfl
@[simp] theorem exec_trig (h : Hdr) (a b c : Opd) (s : State) :
    exec (.trig h a b c) s = execTrig h a b c s := rfl
@[simp] theorem exec_tdef (h : Hdr) (a b : Opd) (s : State) :
    exec (.tdef h a b) s = execTdef h a b s := rfl
@[simp] theorem exec_tdefClr (h : Hdr) (b : Opd) (s : State) :
    exec (.tdefClr h b) s = execTdefClr h b s := rfl
@[simp] theorem exec_fres (h : Hdr) (a b : Opd) (s : State) :
    exec (.fres h a b) s = execFres h a b s := rfl
@[simp] theorem exec_freg (h : Hdr) (d a b : Opd) (s : State) :
    exec (.freg h d a b) s = execFreg h d a b s := rfl
@[simp] theorem exec_rst (h : Hdr) (ty : Ty) (d a b : Opd) (s : State) :
    exec (.rst h ty d a b) s = execRst h ty d a b s := rfl
@[simp] theorem exec_rred (h : Hdr) (fn : FoldFn) (ty : Ty) (d a b c : Opd) (s : State) :
    exec (.rred h fn ty d a b c) s = execRred h fn ty d a b c s := rfl
@[simp] theorem exec_ratom (h : Hdr) (fn : AtomFn) (ty : Ty) (d a b c : Opd) (s : State) :
    exec (.ratom h fn ty d a b c) s = execRatom h fn ty d a b c s := rfl
@[simp] theorem exec_rld (h : Hdr) (ty : Ty) (d a b : Opd) (s : State) :
    exec (.rld h ty d a b) s = execRld h ty d a b s := rfl
@[simp] theorem exec_rcopy (h : Hdr) (a b : Opd) (s : State) :
    exec (.rcopy h a b) s = execRcopy h a b s := rfl
@[simp] theorem exec_sabind (h : Hdr) (a b c : Opd) (s : State) :
    exec (.sabind h a b c) s = execSabind h a b c s := rfl
@[simp] theorem exec_sabindDst (h : Hdr) (a b : Opd) (s : State) :
    exec (.sabindDst h a b) s = execSabindDst h a b s := rfl
@[simp] theorem exec_sabindClr (h : Hdr) (a : Opd) (s : State) :
    exec (.sabindClr h a) s = execSabindClr h a s := rfl
@[simp] theorem exec_pcnt (h : Hdr) (d a : Opd) (s : State) :
    exec (.pcnt h d a) s = execPcnt h d a s := rfl
@[simp] theorem exec_qld (h : Hdr) (a b c : Opd) (s : State) :
    exec (.qld h a b c) s = execQld h a b c s := rfl
@[simp] theorem exec_qset (h : Hdr) (a : Opd) (s : State) :
    exec (.qset h a) s = execQset h a s := rfl
@[simp] theorem exec_qrs (h : Hdr) (ty : Ty) (d a b : Opd) (s : State) :
    exec (.qrs h ty d a b) s = execQrs h ty d a b s := rfl
@[simp] theorem exec_mma (h : Hdr) (a b : Opd) (s : State) :
    exec (.mma h a b) s = execMma h a b s := rfl
@[simp] theorem exec_mmaNew (h : Hdr) (d a b : Opd) (s : State) :
    exec (.mmaNew h d a b) s = execMmaNew h d a b s := rfl
@[simp] theorem exec_mmas (h : Hdr) (a b c : Opd) (s : State) :
    exec (.mmas h a b c) s = execMmas h a b c s := rfl
@[simp] theorem exec_mmasNew (h : Hdr) (d a b c : Opd) (s : State) :
    exec (.mmasNew h d a b c) s = execMmasNew h d a b c s := rfl
@[simp] theorem exec_accrel (h : Hdr) (a : Opd) (s : State) :
    exec (.accrel h a) s = execAccrel h a s := rfl
@[simp] theorem exec_accdr (h : Hdr) (ty : Ty) (d a b : Opd) (s : State) :
    exec (.accdr h ty d a b) s = execAccdr h ty d a b s := rfl
@[simp] theorem exec_cmpsVal (h : Hdr) (ty : Ty) (d a : Opd) (s : State) :
    exec (.cmpsVal h ty d a) s = execCmpsVal h ty d a s := rfl
@[simp] theorem exec_cmpsMeta (h : Hdr) (ty : Ty) (d a : Opd) (s : State) :
    exec (.cmpsMeta h ty d a) s = execCmpsMeta h ty d a s := rfl
@[simp] theorem exec_cbdec (h : Hdr) (ty : Ty) (d a b : Opd) (s : State) :
    exec (.cbdec h ty d a b) s = execCbdec h ty d a b s := rfl
@[simp] theorem exec_strmCnt (h : Hdr) (d a : Opd) (s : State) :
    exec (.strmCnt h d a) s = execStrmCnt h d a s := rfl
@[simp] theorem exec_strmDrop (h : Hdr) (d a b : Opd) (s : State) :
    exec (.strmDrop h d a b) s = execStrmDrop h d a b s := rfl
@[simp] theorem exec_cbld (h : Hdr) (a : Opd) (s : State) :
    exec (.cbld h a) s = execCbld h a s := rfl
@[simp] theorem exec_launch (h : Hdr) (d a : Opd) (s : State) :
    exec (.launch h d a) s = execLaunch h d a s := rfl
@[simp] theorem exec_rgrow (h : Hdr) (a : Opd) (s : State) :
    exec (.rgrow h a) s = execRgrow h a s := rfl
@[simp] theorem exec_rshrk (h : Hdr) (a : Opd) (s : State) :
    exec (.rshrk h a) s = execRshrk h a s := rfl
@[simp] theorem exec_probe (h : Hdr) (a : Opd) (s : State) :
    exec (.probe h a) s = execProbe h a s := rfl
@[simp] theorem exec_qrsStateLoad (core : Nat) (s : State) :
    exec (.qrsStateLoad core) s = execQrsStateLoad core s := rfl
@[simp] theorem exec_accdrRead (n : Nat) (s : State) :
    exec (.accdrRead n) s = execAccdrRead n s := rfl
@[simp] theorem exec_legIssue (site : Site) (slot : Nat) (s : State) :
    exec (.legIssue site slot) s = execLegIssue site slot s := rfl
@[simp] theorem exec_dmodeTimeshareSwitch (core : Nat) (s : State) :
    exec (.dmodeTimeshareSwitch core) s = execDmodeTimeshareSwitch core s := rfl
@[simp] theorem exec_loadDataLands (n : Nat) (s : State) :
    exec (.loadDataLands n) s = execLoadDataLands n s := rfl
@[simp] theorem exec_probeTimer (gid : GroupId) (s : State) :
    exec (.probeTimer gid) s = execProbeTimer gid s := rfl
@[simp] theorem exec_probeHop (n : Nat) (s : State) :
    exec (.probeHop n) s = execProbeHop n s := rfl
@[simp] theorem exec_teamAdmit (cluster : Nat) (s : State) :
    exec (.teamAdmit cluster) s = execTeamAdmit cluster s := rfl
@[simp] theorem exec_stealMessage (n : Nat) (s : State) :
    exec (.stealMessage n) s = execStealMessage n s := rfl
@[simp] theorem exec_stealHandover (n : Nat) (s : State) :
    exec (.stealHandover n) s = execStealHandover n s := rfl
@[simp] theorem exec_groupRelease (gid : GroupId) (s : State) :
    exec (.groupRelease gid) s = execGroupRelease gid s := rfl
@[simp] theorem exec_teamRetire (ctx : Nat) (task : W64) (s : State) :
    exec (.teamRetire ctx task) s = execTeamRetire ctx task s := rfl
@[simp] theorem exec_launchRetire (ctx : Nat) (serial : W32) (s : State) :
    exec (.launchRetire ctx serial) s = execLaunchRetire ctx serial s := rfl
@[simp] theorem exec_abortDiscardDone (ctx : Nat) (task : W64) (s : State) :
    exec (.abortDiscardDone ctx task) s = execAbortDiscardDone ctx task s := rfl
@[simp] theorem exec_switchOutComplete (ctx : Nat) (task : W64) (s : State) :
    exec (.switchOutComplete ctx task) s = execSwitchOutComplete ctx task s := rfl
@[simp] theorem exec_pageMigration (n : Nat) (s : State) :
    exec (.pageMigration n) s = execPageMigration n s := rfl
@[simp] theorem exec_tierPageMove (n : Nat) (s : State) :
    exec (.tierPageMove n) s = execTierPageMove n s := rfl
@[simp] theorem exec_tierComplete (n : Nat) (s : State) :
    exec (.tierComplete n) s = execTierComplete n s := rfl
@[simp] theorem exec_emberLineEvict (n : Nat) (s : State) :
    exec (.emberLineEvict n) s = execEmberLineEvict n s := rfl
@[simp] theorem exec_atomoArrival (n : Nat) (s : State) :
    exec (.atomoArrival n) s = execAtomoArrival n s := rfl
@[simp] theorem exec_atomoResend (n : Nat) (s : State) :
    exec (.atomoResend n) s = execAtomoResend n s := rfl
@[simp] theorem exec_startResend (n : Nat) (s : State) :
    exec (.startResend n) s = execStartResend n s := rfl
@[simp] theorem exec_copyBegin (cluster channel : Nat) (s : State) :
    exec (.copyBegin cluster channel) s = execCopyBegin cluster channel s := rfl
@[simp] theorem exec_copyComplete (n : Nat) (s : State) :
    exec (.copyComplete n) s = execCopyComplete n s := rfl
@[simp] theorem exec_tostreamTileEnter (unit : Nat) (b : Bool) (s : State) :
    exec (.tostreamTileEnter unit b) s = execTostreamTileEnter unit b s := rfl
@[simp] theorem exec_matrixStepBegin (unit : Nat) (s : State) :
    exec (.matrixStepBegin unit) s = execMatrixStepBegin unit s := rfl
@[simp] theorem exec_matrixStepComplete (unit : Nat) (s : State) :
    exec (.matrixStepComplete unit) s = execMatrixStepComplete unit s := rfl
@[simp] theorem exec_allowanceReturn (ctx slot grant : Nat) (s : State) :
    exec (.allowanceReturn ctx slot grant) s = execAllowanceReturn ctx slot grant s := rfl
@[simp] theorem exec_rcopySegment (n : Nat) (s : State) :
    exec (.rcopySegment n) s = execRcopySegment n s := rfl
@[simp] theorem exec_switchCopy (n : Nat) (fromPeer : Option Contribution) (s : State) :
    exec (.switchCopy n fromPeer) s = execSwitchCopy n fromPeer s := rfl
@[simp] theorem exec_roundTimeout (n : Nat) (s : State) :
    exec (.roundTimeout n) s = execRoundTimeout n s := rfl
@[simp] theorem exec_remoteLanding (n : Nat) (fromPeer : Option Landing) (s : State) :
    exec (.remoteLanding n fromPeer) s = execRemoteLanding n fromPeer s := rfl
@[simp] theorem exec_ackArrival (n : Nat) (fromPeer : Option Ack) (s : State) :
    exec (.ackArrival n fromPeer) s = execAckArrival n fromPeer s := rfl
@[simp] theorem exec_remoteResponse (n : Nat) (fromPeer : Option Response) (s : State) :
    exec (.remoteResponse n fromPeer) s = execRemoteResponse n fromPeer s := rfl
@[simp] theorem exec_remoteTimeout (n : Nat) (s : State) :
    exec (.remoteTimeout n) s = execRemoteTimeout n s := rfl
@[simp] theorem exec_laneSparing (link lane : Nat) (s : State) :
    exec (.laneSparing link lane) s = execLaneSparing link lane s := rfl
@[simp] theorem exec_peerRejoin (link : Nat) (peer : Peer) (key : Nat) (s : State) :
    exec (.peerRejoin link peer key) s = execPeerRejoin link peer key s := rfl
@[simp] theorem exec_preemptDeadline (ctx : Nat) (s : State) :
    exec (.preemptDeadline ctx) s = execPreemptDeadline ctx s := rfl
@[simp] theorem exec_contextSave (ctx : Nat) (s : State) :
    exec (.contextSave ctx) s = execContextSave ctx s := rfl
@[simp] theorem exec_launchMessage (fn : Nat) (s : State) :
    exec (.launchMessage fn) s = execLaunchMessage fn s := rfl
@[simp] theorem exec_ctxstart (fn : Nat) (s : State) :
    exec (.ctxstart fn) s = execCtxstart fn s := rfl
@[simp] theorem exec_preempt (fn : Nat) (s : State) :
    exec (.preempt fn) s = execPreempt fn s := rfl
@[simp] theorem exec_unpreempt (fn : Nat) (s : State) :
    exec (.unpreempt fn) s = execUnpreempt fn s := rfl
@[simp] theorem exec_restore (fn : Nat) (s : State) :
    exec (.restore fn) s = execRestore fn s := rfl
@[simp] theorem exec_fill (fn : Nat) (s : State) :
    exec (.fill fn) s = execFill fn s := rfl
@[simp] theorem exec_setdump (fn : Nat) (s : State) :
    exec (.setdump fn) s = execSetdump fn s := rfl
@[simp] theorem exec_ctxend (fn : Nat) (s : State) :
    exec (.ctxend fn) s = execCtxend fn s := rfl
@[simp] theorem exec_mrtail (fn : Nat) (v : W32) (s : State) :
    exec (.mrtail fn v) s = execMrtail fn v s := rfl
@[simp] theorem exec_mrbase (fn : Nat) (v : W64) (s : State) :
    exec (.mrbase fn v) s = execMrbase fn v s := rfl
@[simp] theorem exec_rqbase (fn : Nat) (v : W64) (s : State) :
    exec (.rqbase fn v) s = execRqbase fn v s := rfl
@[simp] theorem exec_rqhead (fn : Nat) (v : W32) (s : State) :
    exec (.rqhead fn v) s = execRqhead fn v s := rfl
@[simp] theorem exec_registerWrite (fn : Nat) (off : Nat) (v : W64) (s : State) :
    exec (.registerWrite fn off v) s = execRegisterWrite fn off v s := rfl
@[simp] theorem exec_deviceReset (s : State) :
    exec (.deviceReset) s = execDeviceReset s := rfl
@[simp] theorem exec_softError (place : Place) (correctable : Bool) (unit : W32) (s : State) :
    exec (.softError place correctable unit) s = execSoftError place correctable unit s := rfl
@[simp] theorem exec_selfTestDone (n : Nat) (passed spare : Bool) (s : State) :
    exec (.selfTestDone n passed spare) s = execSelfTestDone n passed spare s := rfl
@[simp] theorem exec_fatalError (cause : W32) (unit : W32) (s : State) :
    exec (.fatalError cause unit) s = execFatalError cause unit s := rfl
@[simp] theorem exec_powerSample (watts : Nat) (nearPeak : Bool) (s : State) :
    exec (.powerSample watts nearPeak) s = execPowerSample watts nearPeak s := rfl
@[simp] theorem exec_powerAverage (watts : Nat) (celsius : Nat) (s : State) :
    exec (.powerAverage watts celsius) s = execPowerAverage watts celsius s := rfl
@[simp] theorem exec_telemetryRefresh (sensors : Sensors) (s : State) :
    exec (.telemetryRefresh sensors) s = execTelemetryRefresh sensors s := rfl
@[simp] theorem exec_acknowledgementTimeout (n : Nat) (s : State) :
    exec (.acknowledgementTimeout n) s = execAcknowledgementTimeout n s := rfl
@[simp] theorem exec_copyRowLanded (n : Nat) (s : State) :
    exec (.copyRowLanded n) s = execCopyRowLanded n s := rfl
@[simp] theorem exec_hostWriteToDeviceMemory (addr : Nat) (bytes : List Byte) (s : State) :
    exec (.hostWriteToDeviceMemory addr bytes) s = execHostWriteToDeviceMemory addr bytes s := rfl
@[simp] theorem exec_fabricManagerAssignment (a : Assignment) (s : State) :
    exec (.fabricManagerAssignment a) s = execFabricManagerAssignment a s := rfl
@[simp] theorem exec_newImageOrRecord (image : List Byte) (record : List Byte) (s : State) :
    exec (.newImageOrRecord image record) s = execNewImageOrRecord image record s := rfl
@[simp] theorem exec_marginSampling (link : Nat) (corrected margin : W32) (s : State) :
    exec (.marginSampling link corrected margin) s = execMarginSampling link corrected margin s := rfl

end Sys2Proof.Machine
end

