-- ==== Sys2Proof/Laws/State.lean ====
section
/-! SUPPORT. What the updates of the state leave as it was: one lemma for each field and each update. -/

namespace Sys2Proof.Machine

/-! setGroup changes groups only. -/

@[simp] theorem State.setGroup_agenda (s : State) (g : Group) : (s.setGroup g).agenda = s.agenda := rfl
@[simp] theorem State.setGroup_focus (s : State) (g : Group) : (s.setGroup g).focus = s.focus := rfl
@[simp] theorem State.setGroup_cur (s : State) (g : Group) : (s.setGroup g).cur = s.cur := rfl
@[simp] theorem State.setGroup_tick (s : State) (g : Group) : (s.setGroup g).tick = s.tick := rfl
@[simp] theorem State.setGroup_now (s : State) (g : Group) : (s.setGroup g).now = s.now := rfl
@[simp] theorem State.setGroup_mhz (s : State) (g : Group) : (s.setGroup g).mhz = s.mhz := rfl
@[simp] theorem State.setGroup_mem (s : State) (g : Group) : (s.setGroup g).mem = s.mem := rfl
@[simp] theorem State.setGroup_scratch (s : State) (g : Group) : (s.setGroup g).scratch = s.scratch := rfl
@[simp] theorem State.setGroup_hostMem (s : State) (g : Group) : (s.setGroup g).hostMem = s.hostMem := rfl
@[simp] theorem State.setGroup_poison (s : State) (g : Group) : (s.setGroup g).poison = s.poison := rfl
@[simp] theorem State.setGroup_image (s : State) (g : Group) : (s.setGroup g).image = s.image := rfl
@[simp] theorem State.setGroup_recBytes (s : State) (g : Group) : (s.setGroup g).recBytes = s.recBytes := rfl
@[simp] theorem State.setGroup_arrange (s : State) (g : Group) : (s.setGroup g).arrange = s.arrange := rfl
@[simp] theorem State.setGroup_lpshare (s : State) (g : Group) : (s.setGroup g).lpshare = s.lpshare := rfl
@[simp] theorem State.setGroup_envelope (s : State) (g : Group) : (s.setGroup g).envelope = s.envelope := rfl
@[simp] theorem State.setGroup_ftimeout (s : State) (g : Group) : (s.setGroup g).ftimeout = s.ftimeout := rfl
@[simp] theorem State.setGroup_recSerial (s : State) (g : Group) : (s.setGroup g).recSerial = s.recSerial := rfl
@[simp] theorem State.setGroup_recovery (s : State) (g : Group) : (s.setGroup g).recovery = s.recovery := rfl
@[simp] theorem State.setGroup_disabled (s : State) (g : Group) : (s.setGroup g).disabled = s.disabled := rfl
@[simp] theorem State.setGroup_spares (s : State) (g : Group) : (s.setGroup g).spares = s.spares := rfl
@[simp] theorem State.setGroup_fences (s : State) (g : Group) : (s.setGroup g).fences = s.fences := rfl
@[simp] theorem State.setGroup_fatal (s : State) (g : Group) : (s.setGroup g).fatal = s.fatal := rfl
@[simp] theorem State.setGroup_throttled (s : State) (g : Group) : (s.setGroup g).throttled = s.throttled := rfl
@[simp] theorem State.setGroup_avgThrottled (s : State) (g : Group) : (s.setGroup g).avgThrottled = s.avgThrottled := rfl
@[simp] theorem State.setGroup_power (s : State) (g : Group) : (s.setGroup g).power = s.power := rfl
@[simp] theorem State.setGroup_average (s : State) (g : Group) : (s.setGroup g).average = s.average := rfl
@[simp] theorem State.setGroup_celsius (s : State) (g : Group) : (s.setGroup g).celsius = s.celsius := rfl
@[simp] theorem State.setGroup_telemetry (s : State) (g : Group) : (s.setGroup g).telemetry = s.telemetry := rfl
@[simp] theorem State.setGroup_throttles (s : State) (g : Group) : (s.setGroup g).throttles = s.throttles := rfl
@[simp] theorem State.setGroup_corrected (s : State) (g : Group) : (s.setGroup g).corrected = s.corrected := rfl
@[simp] theorem State.setGroup_spared (s : State) (g : Group) : (s.setGroup g).spared = s.spared := rfl
@[simp] theorem State.setGroup_closing (s : State) (g : Group) : (s.setGroup g).closing = s.closing := rfl
@[simp] theorem State.setGroup_firmware (s : State) (g : Group) : (s.setGroup g).firmware = s.firmware := rfl
@[simp] theorem State.setGroup_ctxs (s : State) (g : Group) : (s.setGroup g).ctxs = s.ctxs := rfl
@[simp] theorem State.setGroup_launches (s : State) (g : Group) : (s.setGroup g).launches = s.launches := rfl
@[simp] theorem State.setGroup_teams (s : State) (g : Group) : (s.setGroup g).teams = s.teams := rfl
@[simp] theorem State.setGroup_growq (s : State) (g : Group) : (s.setGroup g).growq = s.growq := rfl
@[simp] theorem State.setGroup_tags (s : State) (g : Group) : (s.setGroup g).tags = s.tags := rfl
@[simp] theorem State.setGroup_tagrefs (s : State) (g : Group) : (s.setGroup g).tagrefs = s.tagrefs := rfl
@[simp] theorem State.setGroup_qunits (s : State) (g : Group) : (s.setGroup g).qunits = s.qunits := rfl
@[simp] theorem State.setGroup_qloads (s : State) (g : Group) : (s.setGroup g).qloads = s.qloads := rfl
@[simp] theorem State.setGroup_hostings (s : State) (g : Group) : (s.setGroup g).hostings = s.hostings := rfl
@[simp] theorem State.setGroup_probes (s : State) (g : Group) : (s.setGroup g).probes = s.probes := rfl
@[simp] theorem State.setGroup_steals (s : State) (g : Group) : (s.setGroup g).steals = s.steals := rfl
@[simp] theorem State.setGroup_l1 (s : State) (g : Group) : (s.setGroup g).l1 = s.l1 := rfl
@[simp] theorem State.setGroup_ember (s : State) (g : Group) : (s.setGroup g).ember = s.ember := rfl
@[simp] theorem State.setGroup_vlines (s : State) (g : Group) : (s.setGroup g).vlines = s.vlines := rfl
@[simp] theorem State.setGroup_counters (s : State) (g : Group) : (s.setGroup g).counters = s.counters := rfl
@[simp] theorem State.setGroup_migrations (s : State) (g : Group) : (s.setGroup g).migrations = s.migrations := rfl
@[simp] theorem State.setGroup_tiers (s : State) (g : Group) : (s.setGroup g).tiers = s.tiers := rfl
@[simp] theorem State.setGroup_ordered (s : State) (g : Group) : (s.setGroup g).ordered = s.ordered := rfl
@[simp] theorem State.setGroup_claims (s : State) (g : Group) : (s.setGroup g).claims = s.claims := rfl
@[simp] theorem State.setGroup_joins (s : State) (g : Group) : (s.setGroup g).joins = s.joins := rfl
@[simp] theorem State.setGroup_late (s : State) (g : Group) : (s.setGroup g).late = s.late := rfl
@[simp] theorem State.setGroup_loads (s : State) (g : Group) : (s.setGroup g).loads = s.loads := rfl
@[simp] theorem State.setGroup_starts (s : State) (g : Group) : (s.setGroup g).starts = s.starts := rfl
@[simp] theorem State.setGroup_copies (s : State) (g : Group) : (s.setGroup g).copies = s.copies := rfl
@[simp] theorem State.setGroup_triggers (s : State) (g : Group) : (s.setGroup g).triggers = s.triggers := rfl
@[simp] theorem State.setGroup_units (s : State) (g : Group) : (s.setGroup g).units = s.units := rfl
@[simp] theorem State.setGroup_savedUnits (s : State) (g : Group) : (s.setGroup g).savedUnits = s.savedUnits := rfl
@[simp] theorem State.setGroup_savedTrigs (s : State) (g : Group) : (s.setGroup g).savedTrigs = s.savedTrigs := rfl
@[simp] theorem State.setGroup_savedStarts (s : State) (g : Group) : (s.setGroup g).savedStarts = s.savedStarts := rfl
@[simp] theorem State.setGroup_places (s : State) (g : Group) : (s.setGroup g).places = s.places := rfl
@[simp] theorem State.setGroup_fcopies (s : State) (g : Group) : (s.setGroup g).fcopies = s.fcopies := rfl
@[simp] theorem State.setGroup_rounds (s : State) (g : Group) : (s.setGroup g).rounds = s.rounds := rfl
@[simp] theorem State.setGroup_redcounts (s : State) (g : Group) : (s.setGroup g).redcounts = s.redcounts := rfl
@[simp] theorem State.setGroup_awaits (s : State) (g : Group) : (s.setGroup g).awaits = s.awaits := rfl
@[simp] theorem State.setGroup_landings (s : State) (g : Group) : (s.setGroup g).landings = s.landings := rfl
@[simp] theorem State.setGroup_segs (s : State) (g : Group) : (s.setGroup g).segs = s.segs := rfl
@[simp] theorem State.setGroup_rejoins (s : State) (g : Group) : (s.setGroup g).rejoins = s.rejoins := rfl
@[simp] theorem State.setGroup_sent (s : State) (g : Group) : (s.setGroup g).sent = s.sent := rfl
@[simp] theorem State.setGroup_allowq (s : State) (g : Group) : (s.setGroup g).allowq = s.allowq := rfl
@[simp] theorem State.setGroup_acks (s : State) (g : Group) : (s.setGroup g).acks = s.acks := rfl
@[simp] theorem State.setGroup_resps (s : State) (g : Group) : (s.setGroup g).resps = s.resps := rfl
@[simp] theorem State.setGroup_links (s : State) (g : Group) : (s.setGroup g).links = s.links := rfl
@[simp] theorem State.setGroup_fns (s : State) (g : Group) : (s.setGroup g).fns = s.fns := rfl
@[simp] theorem State.setGroup_dump (s : State) (g : Group) : (s.setGroup g).dump = s.dump := rfl

/-! updGroup changes groups only. -/

@[simp] theorem State.updGroup_agenda (s : State) (i : GroupId) (f : Group → Group) : (s.updGroup i f).agenda = s.agenda := rfl
@[simp] theorem State.updGroup_focus (s : State) (i : GroupId) (f : Group → Group) : (s.updGroup i f).focus = s.focus := rfl
@[simp] theorem State.updGroup_cur (s : State) (i : GroupId) (f : Group → Group) : (s.updGroup i f).cur = s.cur := rfl
@[simp] theorem State.updGroup_tick (s : State) (i : GroupId) (f : Group → Group) : (s.updGroup i f).tick = s.tick := rfl
@[simp] theorem State.updGroup_now (s : State) (i : GroupId) (f : Group → Group) : (s.updGroup i f).now = s.now := rfl
@[simp] theorem State.updGroup_mhz (s : State) (i : GroupId) (f : Group → Group) : (s.updGroup i f).mhz = s.mhz := rfl
@[simp] theorem State.updGroup_mem (s : State) (i : GroupId) (f : Group → Group) : (s.updGroup i f).mem = s.mem := rfl
@[simp] theorem State.updGroup_scratch (s : State) (i : GroupId) (f : Group → Group) : (s.updGroup i f).scratch = s.scratch := rfl
@[simp] theorem State.updGroup_hostMem (s : State) (i : GroupId) (f : Group → Group) : (s.updGroup i f).hostMem = s.hostMem := rfl
@[simp] theorem State.updGroup_poison (s : State) (i : GroupId) (f : Group → Group) : (s.updGroup i f).poison = s.poison := rfl
@[simp] theorem State.updGroup_image (s : State) (i : GroupId) (f : Group → Group) : (s.updGroup i f).image = s.image := rfl
@[simp] theorem State.updGroup_recBytes (s : State) (i : GroupId) (f : Group → Group) : (s.updGroup i f).recBytes = s.recBytes := rfl
@[simp] theorem State.updGroup_arrange (s : State) (i : GroupId) (f : Group → Group) : (s.updGroup i f).arrange = s.arrange := rfl
@[simp] theorem State.updGroup_lpshare (s : State) (i : GroupId) (f : Group → Group) : (s.updGroup i f).lpshare = s.lpshare := rfl
@[simp] theorem State.updGroup_envelope (s : State) (i : GroupId) (f : Group → Group) : (s.updGroup i f).envelope = s.envelope := rfl
@[simp] theorem State.updGroup_ftimeout (s : State) (i : GroupId) (f : Group → Group) : (s.updGroup i f).ftimeout = s.ftimeout := rfl
@[simp] theorem State.updGroup_recSerial (s : State) (i : GroupId) (f : Group → Group) : (s.updGroup i f).recSerial = s.recSerial := rfl
@[simp] theorem State.updGroup_recovery (s : State) (i : GroupId) (f : Group → Group) : (s.updGroup i f).recovery = s.recovery := rfl
@[simp] theorem State.updGroup_disabled (s : State) (i : GroupId) (f : Group → Group) : (s.updGroup i f).disabled = s.disabled := rfl
@[simp] theorem State.updGroup_spares (s : State) (i : GroupId) (f : Group → Group) : (s.updGroup i f).spares = s.spares := rfl
@[simp] theorem State.updGroup_fences (s : State) (i : GroupId) (f : Group → Group) : (s.updGroup i f).fences = s.fences := rfl
@[simp] theorem State.updGroup_fatal (s : State) (i : GroupId) (f : Group → Group) : (s.updGroup i f).fatal = s.fatal := rfl
@[simp] theorem State.updGroup_throttled (s : State) (i : GroupId) (f : Group → Group) : (s.updGroup i f).throttled = s.throttled := rfl
@[simp] theorem State.updGroup_avgThrottled (s : State) (i : GroupId) (f : Group → Group) : (s.updGroup i f).avgThrottled = s.avgThrottled := rfl
@[simp] theorem State.updGroup_power (s : State) (i : GroupId) (f : Group → Group) : (s.updGroup i f).power = s.power := rfl
@[simp] theorem State.updGroup_average (s : State) (i : GroupId) (f : Group → Group) : (s.updGroup i f).average = s.average := rfl
@[simp] theorem State.updGroup_celsius (s : State) (i : GroupId) (f : Group → Group) : (s.updGroup i f).celsius = s.celsius := rfl
@[simp] theorem State.updGroup_telemetry (s : State) (i : GroupId) (f : Group → Group) : (s.updGroup i f).telemetry = s.telemetry := rfl
@[simp] theorem State.updGroup_throttles (s : State) (i : GroupId) (f : Group → Group) : (s.updGroup i f).throttles = s.throttles := rfl
@[simp] theorem State.updGroup_corrected (s : State) (i : GroupId) (f : Group → Group) : (s.updGroup i f).corrected = s.corrected := rfl
@[simp] theorem State.updGroup_spared (s : State) (i : GroupId) (f : Group → Group) : (s.updGroup i f).spared = s.spared := rfl
@[simp] theorem State.updGroup_closing (s : State) (i : GroupId) (f : Group → Group) : (s.updGroup i f).closing = s.closing := rfl
@[simp] theorem State.updGroup_firmware (s : State) (i : GroupId) (f : Group → Group) : (s.updGroup i f).firmware = s.firmware := rfl
@[simp] theorem State.updGroup_ctxs (s : State) (i : GroupId) (f : Group → Group) : (s.updGroup i f).ctxs = s.ctxs := rfl
@[simp] theorem State.updGroup_launches (s : State) (i : GroupId) (f : Group → Group) : (s.updGroup i f).launches = s.launches := rfl
@[simp] theorem State.updGroup_teams (s : State) (i : GroupId) (f : Group → Group) : (s.updGroup i f).teams = s.teams := rfl
@[simp] theorem State.updGroup_growq (s : State) (i : GroupId) (f : Group → Group) : (s.updGroup i f).growq = s.growq := rfl
@[simp] theorem State.updGroup_tags (s : State) (i : GroupId) (f : Group → Group) : (s.updGroup i f).tags = s.tags := rfl
@[simp] theorem State.updGroup_tagrefs (s : State) (i : GroupId) (f : Group → Group) : (s.updGroup i f).tagrefs = s.tagrefs := rfl
@[simp] theorem State.updGroup_qunits (s : State) (i : GroupId) (f : Group → Group) : (s.updGroup i f).qunits = s.qunits := rfl
@[simp] theorem State.updGroup_qloads (s : State) (i : GroupId) (f : Group → Group) : (s.updGroup i f).qloads = s.qloads := rfl
@[simp] theorem State.updGroup_hostings (s : State) (i : GroupId) (f : Group → Group) : (s.updGroup i f).hostings = s.hostings := rfl
@[simp] theorem State.updGroup_probes (s : State) (i : GroupId) (f : Group → Group) : (s.updGroup i f).probes = s.probes := rfl
@[simp] theorem State.updGroup_steals (s : State) (i : GroupId) (f : Group → Group) : (s.updGroup i f).steals = s.steals := rfl
@[simp] theorem State.updGroup_l1 (s : State) (i : GroupId) (f : Group → Group) : (s.updGroup i f).l1 = s.l1 := rfl
@[simp] theorem State.updGroup_ember (s : State) (i : GroupId) (f : Group → Group) : (s.updGroup i f).ember = s.ember := rfl
@[simp] theorem State.updGroup_vlines (s : State) (i : GroupId) (f : Group → Group) : (s.updGroup i f).vlines = s.vlines := rfl
@[simp] theorem State.updGroup_counters (s : State) (i : GroupId) (f : Group → Group) : (s.updGroup i f).counters = s.counters := rfl
@[simp] theorem State.updGroup_migrations (s : State) (i : GroupId) (f : Group → Group) : (s.updGroup i f).migrations = s.migrations := rfl
@[simp] theorem State.updGroup_tiers (s : State) (i : GroupId) (f : Group → Group) : (s.updGroup i f).tiers = s.tiers := rfl
@[simp] theorem State.updGroup_ordered (s : State) (i : GroupId) (f : Group → Group) : (s.updGroup i f).ordered = s.ordered := rfl
@[simp] theorem State.updGroup_claims (s : State) (i : GroupId) (f : Group → Group) : (s.updGroup i f).claims = s.claims := rfl
@[simp] theorem State.updGroup_joins (s : State) (i : GroupId) (f : Group → Group) : (s.updGroup i f).joins = s.joins := rfl
@[simp] theorem State.updGroup_late (s : State) (i : GroupId) (f : Group → Group) : (s.updGroup i f).late = s.late := rfl
@[simp] theorem State.updGroup_loads (s : State) (i : GroupId) (f : Group → Group) : (s.updGroup i f).loads = s.loads := rfl
@[simp] theorem State.updGroup_starts (s : State) (i : GroupId) (f : Group → Group) : (s.updGroup i f).starts = s.starts := rfl
@[simp] theorem State.updGroup_copies (s : State) (i : GroupId) (f : Group → Group) : (s.updGroup i f).copies = s.copies := rfl
@[simp] theorem State.updGroup_triggers (s : State) (i : GroupId) (f : Group → Group) : (s.updGroup i f).triggers = s.triggers := rfl
@[simp] theorem State.updGroup_units (s : State) (i : GroupId) (f : Group → Group) : (s.updGroup i f).units = s.units := rfl
@[simp] theorem State.updGroup_savedUnits (s : State) (i : GroupId) (f : Group → Group) : (s.updGroup i f).savedUnits = s.savedUnits := rfl
@[simp] theorem State.updGroup_savedTrigs (s : State) (i : GroupId) (f : Group → Group) : (s.updGroup i f).savedTrigs = s.savedTrigs := rfl
@[simp] theorem State.updGroup_savedStarts (s : State) (i : GroupId) (f : Group → Group) : (s.updGroup i f).savedStarts = s.savedStarts := rfl
@[simp] theorem State.updGroup_places (s : State) (i : GroupId) (f : Group → Group) : (s.updGroup i f).places = s.places := rfl
@[simp] theorem State.updGroup_fcopies (s : State) (i : GroupId) (f : Group → Group) : (s.updGroup i f).fcopies = s.fcopies := rfl
@[simp] theorem State.updGroup_rounds (s : State) (i : GroupId) (f : Group → Group) : (s.updGroup i f).rounds = s.rounds := rfl
@[simp] theorem State.updGroup_redcounts (s : State) (i : GroupId) (f : Group → Group) : (s.updGroup i f).redcounts = s.redcounts := rfl
@[simp] theorem State.updGroup_awaits (s : State) (i : GroupId) (f : Group → Group) : (s.updGroup i f).awaits = s.awaits := rfl
@[simp] theorem State.updGroup_landings (s : State) (i : GroupId) (f : Group → Group) : (s.updGroup i f).landings = s.landings := rfl
@[simp] theorem State.updGroup_segs (s : State) (i : GroupId) (f : Group → Group) : (s.updGroup i f).segs = s.segs := rfl
@[simp] theorem State.updGroup_rejoins (s : State) (i : GroupId) (f : Group → Group) : (s.updGroup i f).rejoins = s.rejoins := rfl
@[simp] theorem State.updGroup_sent (s : State) (i : GroupId) (f : Group → Group) : (s.updGroup i f).sent = s.sent := rfl
@[simp] theorem State.updGroup_allowq (s : State) (i : GroupId) (f : Group → Group) : (s.updGroup i f).allowq = s.allowq := rfl
@[simp] theorem State.updGroup_acks (s : State) (i : GroupId) (f : Group → Group) : (s.updGroup i f).acks = s.acks := rfl
@[simp] theorem State.updGroup_resps (s : State) (i : GroupId) (f : Group → Group) : (s.updGroup i f).resps = s.resps := rfl
@[simp] theorem State.updGroup_links (s : State) (i : GroupId) (f : Group → Group) : (s.updGroup i f).links = s.links := rfl
@[simp] theorem State.updGroup_fns (s : State) (i : GroupId) (f : Group → Group) : (s.updGroup i f).fns = s.fns := rfl
@[simp] theorem State.updGroup_dump (s : State) (i : GroupId) (f : Group → Group) : (s.updGroup i f).dump = s.dump := rfl

/-! updTeam changes teams only. -/

@[simp] theorem State.updTeam_agenda (s : State) (c : Nat) (t : W64) (f : Team → Team) : (s.updTeam c t f).agenda = s.agenda := rfl
@[simp] theorem State.updTeam_focus (s : State) (c : Nat) (t : W64) (f : Team → Team) : (s.updTeam c t f).focus = s.focus := rfl
@[simp] theorem State.updTeam_cur (s : State) (c : Nat) (t : W64) (f : Team → Team) : (s.updTeam c t f).cur = s.cur := rfl
@[simp] theorem State.updTeam_tick (s : State) (c : Nat) (t : W64) (f : Team → Team) : (s.updTeam c t f).tick = s.tick := rfl
@[simp] theorem State.updTeam_now (s : State) (c : Nat) (t : W64) (f : Team → Team) : (s.updTeam c t f).now = s.now := rfl
@[simp] theorem State.updTeam_mhz (s : State) (c : Nat) (t : W64) (f : Team → Team) : (s.updTeam c t f).mhz = s.mhz := rfl
@[simp] theorem State.updTeam_mem (s : State) (c : Nat) (t : W64) (f : Team → Team) : (s.updTeam c t f).mem = s.mem := rfl
@[simp] theorem State.updTeam_scratch (s : State) (c : Nat) (t : W64) (f : Team → Team) : (s.updTeam c t f).scratch = s.scratch := rfl
@[simp] theorem State.updTeam_hostMem (s : State) (c : Nat) (t : W64) (f : Team → Team) : (s.updTeam c t f).hostMem = s.hostMem := rfl
@[simp] theorem State.updTeam_poison (s : State) (c : Nat) (t : W64) (f : Team → Team) : (s.updTeam c t f).poison = s.poison := rfl
@[simp] theorem State.updTeam_image (s : State) (c : Nat) (t : W64) (f : Team → Team) : (s.updTeam c t f).image = s.image := rfl
@[simp] theorem State.updTeam_recBytes (s : State) (c : Nat) (t : W64) (f : Team → Team) : (s.updTeam c t f).recBytes = s.recBytes := rfl
@[simp] theorem State.updTeam_arrange (s : State) (c : Nat) (t : W64) (f : Team → Team) : (s.updTeam c t f).arrange = s.arrange := rfl
@[simp] theorem State.updTeam_lpshare (s : State) (c : Nat) (t : W64) (f : Team → Team) : (s.updTeam c t f).lpshare = s.lpshare := rfl
@[simp] theorem State.updTeam_envelope (s : State) (c : Nat) (t : W64) (f : Team → Team) : (s.updTeam c t f).envelope = s.envelope := rfl
@[simp] theorem State.updTeam_ftimeout (s : State) (c : Nat) (t : W64) (f : Team → Team) : (s.updTeam c t f).ftimeout = s.ftimeout := rfl
@[simp] theorem State.updTeam_recSerial (s : State) (c : Nat) (t : W64) (f : Team → Team) : (s.updTeam c t f).recSerial = s.recSerial := rfl
@[simp] theorem State.updTeam_recovery (s : State) (c : Nat) (t : W64) (f : Team → Team) : (s.updTeam c t f).recovery = s.recovery := rfl
@[simp] theorem State.updTeam_disabled (s : State) (c : Nat) (t : W64) (f : Team → Team) : (s.updTeam c t f).disabled = s.disabled := rfl
@[simp] theorem State.updTeam_spares (s : State) (c : Nat) (t : W64) (f : Team → Team) : (s.updTeam c t f).spares = s.spares := rfl
@[simp] theorem State.updTeam_fences (s : State) (c : Nat) (t : W64) (f : Team → Team) : (s.updTeam c t f).fences = s.fences := rfl
@[simp] theorem State.updTeam_fatal (s : State) (c : Nat) (t : W64) (f : Team → Team) : (s.updTeam c t f).fatal = s.fatal := rfl
@[simp] theorem State.updTeam_throttled (s : State) (c : Nat) (t : W64) (f : Team → Team) : (s.updTeam c t f).throttled = s.throttled := rfl
@[simp] theorem State.updTeam_avgThrottled (s : State) (c : Nat) (t : W64) (f : Team → Team) : (s.updTeam c t f).avgThrottled = s.avgThrottled := rfl
@[simp] theorem State.updTeam_power (s : State) (c : Nat) (t : W64) (f : Team → Team) : (s.updTeam c t f).power = s.power := rfl
@[simp] theorem State.updTeam_average (s : State) (c : Nat) (t : W64) (f : Team → Team) : (s.updTeam c t f).average = s.average := rfl
@[simp] theorem State.updTeam_celsius (s : State) (c : Nat) (t : W64) (f : Team → Team) : (s.updTeam c t f).celsius = s.celsius := rfl
@[simp] theorem State.updTeam_telemetry (s : State) (c : Nat) (t : W64) (f : Team → Team) : (s.updTeam c t f).telemetry = s.telemetry := rfl
@[simp] theorem State.updTeam_throttles (s : State) (c : Nat) (t : W64) (f : Team → Team) : (s.updTeam c t f).throttles = s.throttles := rfl
@[simp] theorem State.updTeam_corrected (s : State) (c : Nat) (t : W64) (f : Team → Team) : (s.updTeam c t f).corrected = s.corrected := rfl
@[simp] theorem State.updTeam_spared (s : State) (c : Nat) (t : W64) (f : Team → Team) : (s.updTeam c t f).spared = s.spared := rfl
@[simp] theorem State.updTeam_closing (s : State) (c : Nat) (t : W64) (f : Team → Team) : (s.updTeam c t f).closing = s.closing := rfl
@[simp] theorem State.updTeam_firmware (s : State) (c : Nat) (t : W64) (f : Team → Team) : (s.updTeam c t f).firmware = s.firmware := rfl
@[simp] theorem State.updTeam_ctxs (s : State) (c : Nat) (t : W64) (f : Team → Team) : (s.updTeam c t f).ctxs = s.ctxs := rfl
@[simp] theorem State.updTeam_launches (s : State) (c : Nat) (t : W64) (f : Team → Team) : (s.updTeam c t f).launches = s.launches := rfl
@[simp] theorem State.updTeam_groups (s : State) (c : Nat) (t : W64) (f : Team → Team) : (s.updTeam c t f).groups = s.groups := rfl
@[simp] theorem State.updTeam_growq (s : State) (c : Nat) (t : W64) (f : Team → Team) : (s.updTeam c t f).growq = s.growq := rfl
@[simp] theorem State.updTeam_tags (s : State) (c : Nat) (t : W64) (f : Team → Team) : (s.updTeam c t f).tags = s.tags := rfl
@[simp] theorem State.updTeam_tagrefs (s : State) (c : Nat) (t : W64) (f : Team → Team) : (s.updTeam c t f).tagrefs = s.tagrefs := rfl
@[simp] theorem State.updTeam_qunits (s : State) (c : Nat) (t : W64) (f : Team → Team) : (s.updTeam c t f).qunits = s.qunits := rfl
@[simp] theorem State.updTeam_qloads (s : State) (c : Nat) (t : W64) (f : Team → Team) : (s.updTeam c t f).qloads = s.qloads := rfl
@[simp] theorem State.updTeam_hostings (s : State) (c : Nat) (t : W64) (f : Team → Team) : (s.updTeam c t f).hostings = s.hostings := rfl
@[simp] theorem State.updTeam_probes (s : State) (c : Nat) (t : W64) (f : Team → Team) : (s.updTeam c t f).probes = s.probes := rfl
@[simp] theorem State.updTeam_steals (s : State) (c : Nat) (t : W64) (f : Team → Team) : (s.updTeam c t f).steals = s.steals := rfl
@[simp] theorem State.updTeam_l1 (s : State) (c : Nat) (t : W64) (f : Team → Team) : (s.updTeam c t f).l1 = s.l1 := rfl
@[simp] theorem State.updTeam_ember (s : State) (c : Nat) (t : W64) (f : Team → Team) : (s.updTeam c t f).ember = s.ember := rfl
@[simp] theorem State.updTeam_vlines (s : State) (c : Nat) (t : W64) (f : Team → Team) : (s.updTeam c t f).vlines = s.vlines := rfl
@[simp] theorem State.updTeam_counters (s : State) (c : Nat) (t : W64) (f : Team → Team) : (s.updTeam c t f).counters = s.counters := rfl
@[simp] theorem State.updTeam_migrations (s : State) (c : Nat) (t : W64) (f : Team → Team) : (s.updTeam c t f).migrations = s.migrations := rfl
@[simp] theorem State.updTeam_tiers (s : State) (c : Nat) (t : W64) (f : Team → Team) : (s.updTeam c t f).tiers = s.tiers := rfl
@[simp] theorem State.updTeam_ordered (s : State) (c : Nat) (t : W64) (f : Team → Team) : (s.updTeam c t f).ordered = s.ordered := rfl
@[simp] theorem State.updTeam_claims (s : State) (c : Nat) (t : W64) (f : Team → Team) : (s.updTeam c t f).claims = s.claims := rfl
@[simp] theorem State.updTeam_joins (s : State) (c : Nat) (t : W64) (f : Team → Team) : (s.updTeam c t f).joins = s.joins := rfl
@[simp] theorem State.updTeam_late (s : State) (c : Nat) (t : W64) (f : Team → Team) : (s.updTeam c t f).late = s.late := rfl
@[simp] theorem State.updTeam_loads (s : State) (c : Nat) (t : W64) (f : Team → Team) : (s.updTeam c t f).loads = s.loads := rfl
@[simp] theorem State.updTeam_starts (s : State) (c : Nat) (t : W64) (f : Team → Team) : (s.updTeam c t f).starts = s.starts := rfl
@[simp] theorem State.updTeam_copies (s : State) (c : Nat) (t : W64) (f : Team → Team) : (s.updTeam c t f).copies = s.copies := rfl
@[simp] theorem State.updTeam_triggers (s : State) (c : Nat) (t : W64) (f : Team → Team) : (s.updTeam c t f).triggers = s.triggers := rfl
@[simp] theorem State.updTeam_units (s : State) (c : Nat) (t : W64) (f : Team → Team) : (s.updTeam c t f).units = s.units := rfl
@[simp] theorem State.updTeam_savedUnits (s : State) (c : Nat) (t : W64) (f : Team → Team) : (s.updTeam c t f).savedUnits = s.savedUnits := rfl
@[simp] theorem State.updTeam_savedTrigs (s : State) (c : Nat) (t : W64) (f : Team → Team) : (s.updTeam c t f).savedTrigs = s.savedTrigs := rfl
@[simp] theorem State.updTeam_savedStarts (s : State) (c : Nat) (t : W64) (f : Team → Team) : (s.updTeam c t f).savedStarts = s.savedStarts := rfl
@[simp] theorem State.updTeam_places (s : State) (c : Nat) (t : W64) (f : Team → Team) : (s.updTeam c t f).places = s.places := rfl
@[simp] theorem State.updTeam_fcopies (s : State) (c : Nat) (t : W64) (f : Team → Team) : (s.updTeam c t f).fcopies = s.fcopies := rfl
@[simp] theorem State.updTeam_rounds (s : State) (c : Nat) (t : W64) (f : Team → Team) : (s.updTeam c t f).rounds = s.rounds := rfl
@[simp] theorem State.updTeam_redcounts (s : State) (c : Nat) (t : W64) (f : Team → Team) : (s.updTeam c t f).redcounts = s.redcounts := rfl
@[simp] theorem State.updTeam_awaits (s : State) (c : Nat) (t : W64) (f : Team → Team) : (s.updTeam c t f).awaits = s.awaits := rfl
@[simp] theorem State.updTeam_landings (s : State) (c : Nat) (t : W64) (f : Team → Team) : (s.updTeam c t f).landings = s.landings := rfl
@[simp] theorem State.updTeam_segs (s : State) (c : Nat) (t : W64) (f : Team → Team) : (s.updTeam c t f).segs = s.segs := rfl
@[simp] theorem State.updTeam_rejoins (s : State) (c : Nat) (t : W64) (f : Team → Team) : (s.updTeam c t f).rejoins = s.rejoins := rfl
@[simp] theorem State.updTeam_sent (s : State) (c : Nat) (t : W64) (f : Team → Team) : (s.updTeam c t f).sent = s.sent := rfl
@[simp] theorem State.updTeam_allowq (s : State) (c : Nat) (t : W64) (f : Team → Team) : (s.updTeam c t f).allowq = s.allowq := rfl
@[simp] theorem State.updTeam_acks (s : State) (c : Nat) (t : W64) (f : Team → Team) : (s.updTeam c t f).acks = s.acks := rfl
@[simp] theorem State.updTeam_resps (s : State) (c : Nat) (t : W64) (f : Team → Team) : (s.updTeam c t f).resps = s.resps := rfl
@[simp] theorem State.updTeam_links (s : State) (c : Nat) (t : W64) (f : Team → Team) : (s.updTeam c t f).links = s.links := rfl
@[simp] theorem State.updTeam_fns (s : State) (c : Nat) (t : W64) (f : Team → Team) : (s.updTeam c t f).fns = s.fns := rfl
@[simp] theorem State.updTeam_dump (s : State) (c : Nat) (t : W64) (f : Team → Team) : (s.updTeam c t f).dump = s.dump := rfl

/-! updLaunch changes launches only. -/

@[simp] theorem State.updLaunch_agenda (s : State) (c : Nat) (n : W32) (f : Launch → Launch) : (s.updLaunch c n f).agenda = s.agenda := rfl
@[simp] theorem State.updLaunch_focus (s : State) (c : Nat) (n : W32) (f : Launch → Launch) : (s.updLaunch c n f).focus = s.focus := rfl
@[simp] theorem State.updLaunch_cur (s : State) (c : Nat) (n : W32) (f : Launch → Launch) : (s.updLaunch c n f).cur = s.cur := rfl
@[simp] theorem State.updLaunch_tick (s : State) (c : Nat) (n : W32) (f : Launch → Launch) : (s.updLaunch c n f).tick = s.tick := rfl
@[simp] theorem State.updLaunch_now (s : State) (c : Nat) (n : W32) (f : Launch → Launch) : (s.updLaunch c n f).now = s.now := rfl
@[simp] theorem State.updLaunch_mhz (s : State) (c : Nat) (n : W32) (f : Launch → Launch) : (s.updLaunch c n f).mhz = s.mhz := rfl
@[simp] theorem State.updLaunch_mem (s : State) (c : Nat) (n : W32) (f : Launch → Launch) : (s.updLaunch c n f).mem = s.mem := rfl
@[simp] theorem State.updLaunch_scratch (s : State) (c : Nat) (n : W32) (f : Launch → Launch) : (s.updLaunch c n f).scratch = s.scratch := rfl
@[simp] theorem State.updLaunch_hostMem (s : State) (c : Nat) (n : W32) (f : Launch → Launch) : (s.updLaunch c n f).hostMem = s.hostMem := rfl
@[simp] theorem State.updLaunch_poison (s : State) (c : Nat) (n : W32) (f : Launch → Launch) : (s.updLaunch c n f).poison = s.poison := rfl
@[simp] theorem State.updLaunch_image (s : State) (c : Nat) (n : W32) (f : Launch → Launch) : (s.updLaunch c n f).image = s.image := rfl
@[simp] theorem State.updLaunch_recBytes (s : State) (c : Nat) (n : W32) (f : Launch → Launch) : (s.updLaunch c n f).recBytes = s.recBytes := rfl
@[simp] theorem State.updLaunch_arrange (s : State) (c : Nat) (n : W32) (f : Launch → Launch) : (s.updLaunch c n f).arrange = s.arrange := rfl
@[simp] theorem State.updLaunch_lpshare (s : State) (c : Nat) (n : W32) (f : Launch → Launch) : (s.updLaunch c n f).lpshare = s.lpshare := rfl
@[simp] theorem State.updLaunch_envelope (s : State) (c : Nat) (n : W32) (f : Launch → Launch) : (s.updLaunch c n f).envelope = s.envelope := rfl
@[simp] theorem State.updLaunch_ftimeout (s : State) (c : Nat) (n : W32) (f : Launch → Launch) : (s.updLaunch c n f).ftimeout = s.ftimeout := rfl
@[simp] theorem State.updLaunch_recSerial (s : State) (c : Nat) (n : W32) (f : Launch → Launch) : (s.updLaunch c n f).recSerial = s.recSerial := rfl
@[simp] theorem State.updLaunch_recovery (s : State) (c : Nat) (n : W32) (f : Launch → Launch) : (s.updLaunch c n f).recovery = s.recovery := rfl
@[simp] theorem State.updLaunch_disabled (s : State) (c : Nat) (n : W32) (f : Launch → Launch) : (s.updLaunch c n f).disabled = s.disabled := rfl
@[simp] theorem State.updLaunch_spares (s : State) (c : Nat) (n : W32) (f : Launch → Launch) : (s.updLaunch c n f).spares = s.spares := rfl
@[simp] theorem State.updLaunch_fences (s : State) (c : Nat) (n : W32) (f : Launch → Launch) : (s.updLaunch c n f).fences = s.fences := rfl
@[simp] theorem State.updLaunch_fatal (s : State) (c : Nat) (n : W32) (f : Launch → Launch) : (s.updLaunch c n f).fatal = s.fatal := rfl
@[simp] theorem State.updLaunch_throttled (s : State) (c : Nat) (n : W32) (f : Launch → Launch) : (s.updLaunch c n f).throttled = s.throttled := rfl
@[simp] theorem State.updLaunch_avgThrottled (s : State) (c : Nat) (n : W32) (f : Launch → Launch) : (s.updLaunch c n f).avgThrottled = s.avgThrottled := rfl
@[simp] theorem State.updLaunch_power (s : State) (c : Nat) (n : W32) (f : Launch → Launch) : (s.updLaunch c n f).power = s.power := rfl
@[simp] theorem State.updLaunch_average (s : State) (c : Nat) (n : W32) (f : Launch → Launch) : (s.updLaunch c n f).average = s.average := rfl
@[simp] theorem State.updLaunch_celsius (s : State) (c : Nat) (n : W32) (f : Launch → Launch) : (s.updLaunch c n f).celsius = s.celsius := rfl
@[simp] theorem State.updLaunch_telemetry (s : State) (c : Nat) (n : W32) (f : Launch → Launch) : (s.updLaunch c n f).telemetry = s.telemetry := rfl
@[simp] theorem State.updLaunch_throttles (s : State) (c : Nat) (n : W32) (f : Launch → Launch) : (s.updLaunch c n f).throttles = s.throttles := rfl
@[simp] theorem State.updLaunch_corrected (s : State) (c : Nat) (n : W32) (f : Launch → Launch) : (s.updLaunch c n f).corrected = s.corrected := rfl
@[simp] theorem State.updLaunch_spared (s : State) (c : Nat) (n : W32) (f : Launch → Launch) : (s.updLaunch c n f).spared = s.spared := rfl
@[simp] theorem State.updLaunch_closing (s : State) (c : Nat) (n : W32) (f : Launch → Launch) : (s.updLaunch c n f).closing = s.closing := rfl
@[simp] theorem State.updLaunch_firmware (s : State) (c : Nat) (n : W32) (f : Launch → Launch) : (s.updLaunch c n f).firmware = s.firmware := rfl
@[simp] theorem State.updLaunch_ctxs (s : State) (c : Nat) (n : W32) (f : Launch → Launch) : (s.updLaunch c n f).ctxs = s.ctxs := rfl
@[simp] theorem State.updLaunch_teams (s : State) (c : Nat) (n : W32) (f : Launch → Launch) : (s.updLaunch c n f).teams = s.teams := rfl
@[simp] theorem State.updLaunch_groups (s : State) (c : Nat) (n : W32) (f : Launch → Launch) : (s.updLaunch c n f).groups = s.groups := rfl
@[simp] theorem State.updLaunch_growq (s : State) (c : Nat) (n : W32) (f : Launch → Launch) : (s.updLaunch c n f).growq = s.growq := rfl
@[simp] theorem State.updLaunch_tags (s : State) (c : Nat) (n : W32) (f : Launch → Launch) : (s.updLaunch c n f).tags = s.tags := rfl
@[simp] theorem State.updLaunch_tagrefs (s : State) (c : Nat) (n : W32) (f : Launch → Launch) : (s.updLaunch c n f).tagrefs = s.tagrefs := rfl
@[simp] theorem State.updLaunch_qunits (s : State) (c : Nat) (n : W32) (f : Launch → Launch) : (s.updLaunch c n f).qunits = s.qunits := rfl
@[simp] theorem State.updLaunch_qloads (s : State) (c : Nat) (n : W32) (f : Launch → Launch) : (s.updLaunch c n f).qloads = s.qloads := rfl
@[simp] theorem State.updLaunch_hostings (s : State) (c : Nat) (n : W32) (f : Launch → Launch) : (s.updLaunch c n f).hostings = s.hostings := rfl
@[simp] theorem State.updLaunch_probes (s : State) (c : Nat) (n : W32) (f : Launch → Launch) : (s.updLaunch c n f).probes = s.probes := rfl
@[simp] theorem State.updLaunch_steals (s : State) (c : Nat) (n : W32) (f : Launch → Launch) : (s.updLaunch c n f).steals = s.steals := rfl
@[simp] theorem State.updLaunch_l1 (s : State) (c : Nat) (n : W32) (f : Launch → Launch) : (s.updLaunch c n f).l1 = s.l1 := rfl
@[simp] theorem State.updLaunch_ember (s : State) (c : Nat) (n : W32) (f : Launch → Launch) : (s.updLaunch c n f).ember = s.ember := rfl
@[simp] theorem State.updLaunch_vlines (s : State) (c : Nat) (n : W32) (f : Launch → Launch) : (s.updLaunch c n f).vlines = s.vlines := rfl
@[simp] theorem State.updLaunch_counters (s : State) (c : Nat) (n : W32) (f : Launch → Launch) : (s.updLaunch c n f).counters = s.counters := rfl
@[simp] theorem State.updLaunch_migrations (s : State) (c : Nat) (n : W32) (f : Launch → Launch) : (s.updLaunch c n f).migrations = s.migrations := rfl
@[simp] theorem State.updLaunch_tiers (s : State) (c : Nat) (n : W32) (f : Launch → Launch) : (s.updLaunch c n f).tiers = s.tiers := rfl
@[simp] theorem State.updLaunch_ordered (s : State) (c : Nat) (n : W32) (f : Launch → Launch) : (s.updLaunch c n f).ordered = s.ordered := rfl
@[simp] theorem State.updLaunch_claims (s : State) (c : Nat) (n : W32) (f : Launch → Launch) : (s.updLaunch c n f).claims = s.claims := rfl
@[simp] theorem State.updLaunch_joins (s : State) (c : Nat) (n : W32) (f : Launch → Launch) : (s.updLaunch c n f).joins = s.joins := rfl
@[simp] theorem State.updLaunch_late (s : State) (c : Nat) (n : W32) (f : Launch → Launch) : (s.updLaunch c n f).late = s.late := rfl
@[simp] theorem State.updLaunch_loads (s : State) (c : Nat) (n : W32) (f : Launch → Launch) : (s.updLaunch c n f).loads = s.loads := rfl
@[simp] theorem State.updLaunch_starts (s : State) (c : Nat) (n : W32) (f : Launch → Launch) : (s.updLaunch c n f).starts = s.starts := rfl
@[simp] theorem State.updLaunch_copies (s : State) (c : Nat) (n : W32) (f : Launch → Launch) : (s.updLaunch c n f).copies = s.copies := rfl
@[simp] theorem State.updLaunch_triggers (s : State) (c : Nat) (n : W32) (f : Launch → Launch) : (s.updLaunch c n f).triggers = s.triggers := rfl
@[simp] theorem State.updLaunch_units (s : State) (c : Nat) (n : W32) (f : Launch → Launch) : (s.updLaunch c n f).units = s.units := rfl
@[simp] theorem State.updLaunch_savedUnits (s : State) (c : Nat) (n : W32) (f : Launch → Launch) : (s.updLaunch c n f).savedUnits = s.savedUnits := rfl
@[simp] theorem State.updLaunch_savedTrigs (s : State) (c : Nat) (n : W32) (f : Launch → Launch) : (s.updLaunch c n f).savedTrigs = s.savedTrigs := rfl
@[simp] theorem State.updLaunch_savedStarts (s : State) (c : Nat) (n : W32) (f : Launch → Launch) : (s.updLaunch c n f).savedStarts = s.savedStarts := rfl
@[simp] theorem State.updLaunch_places (s : State) (c : Nat) (n : W32) (f : Launch → Launch) : (s.updLaunch c n f).places = s.places := rfl
@[simp] theorem State.updLaunch_fcopies (s : State) (c : Nat) (n : W32) (f : Launch → Launch) : (s.updLaunch c n f).fcopies = s.fcopies := rfl
@[simp] theorem State.updLaunch_rounds (s : State) (c : Nat) (n : W32) (f : Launch → Launch) : (s.updLaunch c n f).rounds = s.rounds := rfl
@[simp] theorem State.updLaunch_redcounts (s : State) (c : Nat) (n : W32) (f : Launch → Launch) : (s.updLaunch c n f).redcounts = s.redcounts := rfl
@[simp] theorem State.updLaunch_awaits (s : State) (c : Nat) (n : W32) (f : Launch → Launch) : (s.updLaunch c n f).awaits = s.awaits := rfl
@[simp] theorem State.updLaunch_landings (s : State) (c : Nat) (n : W32) (f : Launch → Launch) : (s.updLaunch c n f).landings = s.landings := rfl
@[simp] theorem State.updLaunch_segs (s : State) (c : Nat) (n : W32) (f : Launch → Launch) : (s.updLaunch c n f).segs = s.segs := rfl
@[simp] theorem State.updLaunch_rejoins (s : State) (c : Nat) (n : W32) (f : Launch → Launch) : (s.updLaunch c n f).rejoins = s.rejoins := rfl
@[simp] theorem State.updLaunch_sent (s : State) (c : Nat) (n : W32) (f : Launch → Launch) : (s.updLaunch c n f).sent = s.sent := rfl
@[simp] theorem State.updLaunch_allowq (s : State) (c : Nat) (n : W32) (f : Launch → Launch) : (s.updLaunch c n f).allowq = s.allowq := rfl
@[simp] theorem State.updLaunch_acks (s : State) (c : Nat) (n : W32) (f : Launch → Launch) : (s.updLaunch c n f).acks = s.acks := rfl
@[simp] theorem State.updLaunch_resps (s : State) (c : Nat) (n : W32) (f : Launch → Launch) : (s.updLaunch c n f).resps = s.resps := rfl
@[simp] theorem State.updLaunch_links (s : State) (c : Nat) (n : W32) (f : Launch → Launch) : (s.updLaunch c n f).links = s.links := rfl
@[simp] theorem State.updLaunch_fns (s : State) (c : Nat) (n : W32) (f : Launch → Launch) : (s.updLaunch c n f).fns = s.fns := rfl
@[simp] theorem State.updLaunch_dump (s : State) (c : Nat) (n : W32) (f : Launch → Launch) : (s.updLaunch c n f).dump = s.dump := rfl

/-! setCtx changes ctxs only. -/

@[simp] theorem State.setCtx_agenda (s : State) (c : Ctx) : (s.setCtx c).agenda = s.agenda := rfl
@[simp] theorem State.setCtx_focus (s : State) (c : Ctx) : (s.setCtx c).focus = s.focus := rfl
@[simp] theorem State.setCtx_cur (s : State) (c : Ctx) : (s.setCtx c).cur = s.cur := rfl
@[simp] theorem State.setCtx_tick (s : State) (c : Ctx) : (s.setCtx c).tick = s.tick := rfl
@[simp] theorem State.setCtx_now (s : State) (c : Ctx) : (s.setCtx c).now = s.now := rfl
@[simp] theorem State.setCtx_mhz (s : State) (c : Ctx) : (s.setCtx c).mhz = s.mhz := rfl
@[simp] theorem State.setCtx_mem (s : State) (c : Ctx) : (s.setCtx c).mem = s.mem := rfl
@[simp] theorem State.setCtx_scratch (s : State) (c : Ctx) : (s.setCtx c).scratch = s.scratch := rfl
@[simp] theorem State.setCtx_hostMem (s : State) (c : Ctx) : (s.setCtx c).hostMem = s.hostMem := rfl
@[simp] theorem State.setCtx_poison (s : State) (c : Ctx) : (s.setCtx c).poison = s.poison := rfl
@[simp] theorem State.setCtx_image (s : State) (c : Ctx) : (s.setCtx c).image = s.image := rfl
@[simp] theorem State.setCtx_recBytes (s : State) (c : Ctx) : (s.setCtx c).recBytes = s.recBytes := rfl
@[simp] theorem State.setCtx_arrange (s : State) (c : Ctx) : (s.setCtx c).arrange = s.arrange := rfl
@[simp] theorem State.setCtx_lpshare (s : State) (c : Ctx) : (s.setCtx c).lpshare = s.lpshare := rfl
@[simp] theorem State.setCtx_envelope (s : State) (c : Ctx) : (s.setCtx c).envelope = s.envelope := rfl
@[simp] theorem State.setCtx_ftimeout (s : State) (c : Ctx) : (s.setCtx c).ftimeout = s.ftimeout := rfl
@[simp] theorem State.setCtx_recSerial (s : State) (c : Ctx) : (s.setCtx c).recSerial = s.recSerial := rfl
@[simp] theorem State.setCtx_recovery (s : State) (c : Ctx) : (s.setCtx c).recovery = s.recovery := rfl
@[simp] theorem State.setCtx_disabled (s : State) (c : Ctx) : (s.setCtx c).disabled = s.disabled := rfl
@[simp] theorem State.setCtx_spares (s : State) (c : Ctx) : (s.setCtx c).spares = s.spares := rfl
@[simp] theorem State.setCtx_fences (s : State) (c : Ctx) : (s.setCtx c).fences = s.fences := rfl
@[simp] theorem State.setCtx_fatal (s : State) (c : Ctx) : (s.setCtx c).fatal = s.fatal := rfl
@[simp] theorem State.setCtx_throttled (s : State) (c : Ctx) : (s.setCtx c).throttled = s.throttled := rfl
@[simp] theorem State.setCtx_avgThrottled (s : State) (c : Ctx) : (s.setCtx c).avgThrottled = s.avgThrottled := rfl
@[simp] theorem State.setCtx_power (s : State) (c : Ctx) : (s.setCtx c).power = s.power := rfl
@[simp] theorem State.setCtx_average (s : State) (c : Ctx) : (s.setCtx c).average = s.average := rfl
@[simp] theorem State.setCtx_celsius (s : State) (c : Ctx) : (s.setCtx c).celsius = s.celsius := rfl
@[simp] theorem State.setCtx_telemetry (s : State) (c : Ctx) : (s.setCtx c).telemetry = s.telemetry := rfl
@[simp] theorem State.setCtx_throttles (s : State) (c : Ctx) : (s.setCtx c).throttles = s.throttles := rfl
@[simp] theorem State.setCtx_corrected (s : State) (c : Ctx) : (s.setCtx c).corrected = s.corrected := rfl
@[simp] theorem State.setCtx_spared (s : State) (c : Ctx) : (s.setCtx c).spared = s.spared := rfl
@[simp] theorem State.setCtx_closing (s : State) (c : Ctx) : (s.setCtx c).closing = s.closing := rfl
@[simp] theorem State.setCtx_firmware (s : State) (c : Ctx) : (s.setCtx c).firmware = s.firmware := rfl
@[simp] theorem State.setCtx_launches (s : State) (c : Ctx) : (s.setCtx c).launches = s.launches := rfl
@[simp] theorem State.setCtx_teams (s : State) (c : Ctx) : (s.setCtx c).teams = s.teams := rfl
@[simp] theorem State.setCtx_groups (s : State) (c : Ctx) : (s.setCtx c).groups = s.groups := rfl
@[simp] theorem State.setCtx_growq (s : State) (c : Ctx) : (s.setCtx c).growq = s.growq := rfl
@[simp] theorem State.setCtx_tags (s : State) (c : Ctx) : (s.setCtx c).tags = s.tags := rfl
@[simp] theorem State.setCtx_tagrefs (s : State) (c : Ctx) : (s.setCtx c).tagrefs = s.tagrefs := rfl
@[simp] theorem State.setCtx_qunits (s : State) (c : Ctx) : (s.setCtx c).qunits = s.qunits := rfl
@[simp] theorem State.setCtx_qloads (s : State) (c : Ctx) : (s.setCtx c).qloads = s.qloads := rfl
@[simp] theorem State.setCtx_hostings (s : State) (c : Ctx) : (s.setCtx c).hostings = s.hostings := rfl
@[simp] theorem State.setCtx_probes (s : State) (c : Ctx) : (s.setCtx c).probes = s.probes := rfl
@[simp] theorem State.setCtx_steals (s : State) (c : Ctx) : (s.setCtx c).steals = s.steals := rfl
@[simp] theorem State.setCtx_l1 (s : State) (c : Ctx) : (s.setCtx c).l1 = s.l1 := rfl
@[simp] theorem State.setCtx_ember (s : State) (c : Ctx) : (s.setCtx c).ember = s.ember := rfl
@[simp] theorem State.setCtx_vlines (s : State) (c : Ctx) : (s.setCtx c).vlines = s.vlines := rfl
@[simp] theorem State.setCtx_counters (s : State) (c : Ctx) : (s.setCtx c).counters = s.counters := rfl
@[simp] theorem State.setCtx_migrations (s : State) (c : Ctx) : (s.setCtx c).migrations = s.migrations := rfl
@[simp] theorem State.setCtx_tiers (s : State) (c : Ctx) : (s.setCtx c).tiers = s.tiers := rfl
@[simp] theorem State.setCtx_ordered (s : State) (c : Ctx) : (s.setCtx c).ordered = s.ordered := rfl
@[simp] theorem State.setCtx_claims (s : State) (c : Ctx) : (s.setCtx c).claims = s.claims := rfl
@[simp] theorem State.setCtx_joins (s : State) (c : Ctx) : (s.setCtx c).joins = s.joins := rfl
@[simp] theorem State.setCtx_late (s : State) (c : Ctx) : (s.setCtx c).late = s.late := rfl
@[simp] theorem State.setCtx_loads (s : State) (c : Ctx) : (s.setCtx c).loads = s.loads := rfl
@[simp] theorem State.setCtx_starts (s : State) (c : Ctx) : (s.setCtx c).starts = s.starts := rfl
@[simp] theorem State.setCtx_copies (s : State) (c : Ctx) : (s.setCtx c).copies = s.copies := rfl
@[simp] theorem State.setCtx_triggers (s : State) (c : Ctx) : (s.setCtx c).triggers = s.triggers := rfl
@[simp] theorem State.setCtx_units (s : State) (c : Ctx) : (s.setCtx c).units = s.units := rfl
@[simp] theorem State.setCtx_savedUnits (s : State) (c : Ctx) : (s.setCtx c).savedUnits = s.savedUnits := rfl
@[simp] theorem State.setCtx_savedTrigs (s : State) (c : Ctx) : (s.setCtx c).savedTrigs = s.savedTrigs := rfl
@[simp] theorem State.setCtx_savedStarts (s : State) (c : Ctx) : (s.setCtx c).savedStarts = s.savedStarts := rfl
@[simp] theorem State.setCtx_places (s : State) (c : Ctx) : (s.setCtx c).places = s.places := rfl
@[simp] theorem State.setCtx_fcopies (s : State) (c : Ctx) : (s.setCtx c).fcopies = s.fcopies := rfl
@[simp] theorem State.setCtx_rounds (s : State) (c : Ctx) : (s.setCtx c).rounds = s.rounds := rfl
@[simp] theorem State.setCtx_redcounts (s : State) (c : Ctx) : (s.setCtx c).redcounts = s.redcounts := rfl
@[simp] theorem State.setCtx_awaits (s : State) (c : Ctx) : (s.setCtx c).awaits = s.awaits := rfl
@[simp] theorem State.setCtx_landings (s : State) (c : Ctx) : (s.setCtx c).landings = s.landings := rfl
@[simp] theorem State.setCtx_segs (s : State) (c : Ctx) : (s.setCtx c).segs = s.segs := rfl
@[simp] theorem State.setCtx_rejoins (s : State) (c : Ctx) : (s.setCtx c).rejoins = s.rejoins := rfl
@[simp] theorem State.setCtx_sent (s : State) (c : Ctx) : (s.setCtx c).sent = s.sent := rfl
@[simp] theorem State.setCtx_allowq (s : State) (c : Ctx) : (s.setCtx c).allowq = s.allowq := rfl
@[simp] theorem State.setCtx_acks (s : State) (c : Ctx) : (s.setCtx c).acks = s.acks := rfl
@[simp] theorem State.setCtx_resps (s : State) (c : Ctx) : (s.setCtx c).resps = s.resps := rfl
@[simp] theorem State.setCtx_links (s : State) (c : Ctx) : (s.setCtx c).links = s.links := rfl
@[simp] theorem State.setCtx_fns (s : State) (c : Ctx) : (s.setCtx c).fns = s.fns := rfl
@[simp] theorem State.setCtx_dump (s : State) (c : Ctx) : (s.setCtx c).dump = s.dump := rfl

/-! updCtx changes ctxs only. -/

@[simp] theorem State.updCtx_agenda (s : State) (n : Nat) (f : Ctx → Ctx) : (s.updCtx n f).agenda = s.agenda := rfl
@[simp] theorem State.updCtx_focus (s : State) (n : Nat) (f : Ctx → Ctx) : (s.updCtx n f).focus = s.focus := rfl
@[simp] theorem State.updCtx_cur (s : State) (n : Nat) (f : Ctx → Ctx) : (s.updCtx n f).cur = s.cur := rfl
@[simp] theorem State.updCtx_tick (s : State) (n : Nat) (f : Ctx → Ctx) : (s.updCtx n f).tick = s.tick := rfl
@[simp] theorem State.updCtx_now (s : State) (n : Nat) (f : Ctx → Ctx) : (s.updCtx n f).now = s.now := rfl
@[simp] theorem State.updCtx_mhz (s : State) (n : Nat) (f : Ctx → Ctx) : (s.updCtx n f).mhz = s.mhz := rfl
@[simp] theorem State.updCtx_mem (s : State) (n : Nat) (f : Ctx → Ctx) : (s.updCtx n f).mem = s.mem := rfl
@[simp] theorem State.updCtx_scratch (s : State) (n : Nat) (f : Ctx → Ctx) : (s.updCtx n f).scratch = s.scratch := rfl
@[simp] theorem State.updCtx_hostMem (s : State) (n : Nat) (f : Ctx → Ctx) : (s.updCtx n f).hostMem = s.hostMem := rfl
@[simp] theorem State.updCtx_poison (s : State) (n : Nat) (f : Ctx → Ctx) : (s.updCtx n f).poison = s.poison := rfl
@[simp] theorem State.updCtx_image (s : State) (n : Nat) (f : Ctx → Ctx) : (s.updCtx n f).image = s.image := rfl
@[simp] theorem State.updCtx_recBytes (s : State) (n : Nat) (f : Ctx → Ctx) : (s.updCtx n f).recBytes = s.recBytes := rfl
@[simp] theorem State.updCtx_arrange (s : State) (n : Nat) (f : Ctx → Ctx) : (s.updCtx n f).arrange = s.arrange := rfl
@[simp] theorem State.updCtx_lpshare (s : State) (n : Nat) (f : Ctx → Ctx) : (s.updCtx n f).lpshare = s.lpshare := rfl
@[simp] theorem State.updCtx_envelope (s : State) (n : Nat) (f : Ctx → Ctx) : (s.updCtx n f).envelope = s.envelope := rfl
@[simp] theorem State.updCtx_ftimeout (s : State) (n : Nat) (f : Ctx → Ctx) : (s.updCtx n f).ftimeout = s.ftimeout := rfl
@[simp] theorem State.updCtx_recSerial (s : State) (n : Nat) (f : Ctx → Ctx) : (s.updCtx n f).recSerial = s.recSerial := rfl
@[simp] theorem State.updCtx_recovery (s : State) (n : Nat) (f : Ctx → Ctx) : (s.updCtx n f).recovery = s.recovery := rfl
@[simp] theorem State.updCtx_disabled (s : State) (n : Nat) (f : Ctx → Ctx) : (s.updCtx n f).disabled = s.disabled := rfl
@[simp] theorem State.updCtx_spares (s : State) (n : Nat) (f : Ctx → Ctx) : (s.updCtx n f).spares = s.spares := rfl
@[simp] theorem State.updCtx_fences (s : State) (n : Nat) (f : Ctx → Ctx) : (s.updCtx n f).fences = s.fences := rfl
@[simp] theorem State.updCtx_fatal (s : State) (n : Nat) (f : Ctx → Ctx) : (s.updCtx n f).fatal = s.fatal := rfl
@[simp] theorem State.updCtx_throttled (s : State) (n : Nat) (f : Ctx → Ctx) : (s.updCtx n f).throttled = s.throttled := rfl
@[simp] theorem State.updCtx_avgThrottled (s : State) (n : Nat) (f : Ctx → Ctx) : (s.updCtx n f).avgThrottled = s.avgThrottled := rfl
@[simp] theorem State.updCtx_power (s : State) (n : Nat) (f : Ctx → Ctx) : (s.updCtx n f).power = s.power := rfl
@[simp] theorem State.updCtx_average (s : State) (n : Nat) (f : Ctx → Ctx) : (s.updCtx n f).average = s.average := rfl
@[simp] theorem State.updCtx_celsius (s : State) (n : Nat) (f : Ctx → Ctx) : (s.updCtx n f).celsius = s.celsius := rfl
@[simp] theorem State.updCtx_telemetry (s : State) (n : Nat) (f : Ctx → Ctx) : (s.updCtx n f).telemetry = s.telemetry := rfl
@[simp] theorem State.updCtx_throttles (s : State) (n : Nat) (f : Ctx → Ctx) : (s.updCtx n f).throttles = s.throttles := rfl
@[simp] theorem State.updCtx_corrected (s : State) (n : Nat) (f : Ctx → Ctx) : (s.updCtx n f).corrected = s.corrected := rfl
@[simp] theorem State.updCtx_spared (s : State) (n : Nat) (f : Ctx → Ctx) : (s.updCtx n f).spared = s.spared := rfl
@[simp] theorem State.updCtx_closing (s : State) (n : Nat) (f : Ctx → Ctx) : (s.updCtx n f).closing = s.closing := rfl
@[simp] theorem State.updCtx_firmware (s : State) (n : Nat) (f : Ctx → Ctx) : (s.updCtx n f).firmware = s.firmware := rfl
@[simp] theorem State.updCtx_launches (s : State) (n : Nat) (f : Ctx → Ctx) : (s.updCtx n f).launches = s.launches := rfl
@[simp] theorem State.updCtx_teams (s : State) (n : Nat) (f : Ctx → Ctx) : (s.updCtx n f).teams = s.teams := rfl
@[simp] theorem State.updCtx_groups (s : State) (n : Nat) (f : Ctx → Ctx) : (s.updCtx n f).groups = s.groups := rfl
@[simp] theorem State.updCtx_growq (s : State) (n : Nat) (f : Ctx → Ctx) : (s.updCtx n f).growq = s.growq := rfl
@[simp] theorem State.updCtx_tags (s : State) (n : Nat) (f : Ctx → Ctx) : (s.updCtx n f).tags = s.tags := rfl
@[simp] theorem State.updCtx_tagrefs (s : State) (n : Nat) (f : Ctx → Ctx) : (s.updCtx n f).tagrefs = s.tagrefs := rfl
@[simp] theorem State.updCtx_qunits (s : State) (n : Nat) (f : Ctx → Ctx) : (s.updCtx n f).qunits = s.qunits := rfl
@[simp] theorem State.updCtx_qloads (s : State) (n : Nat) (f : Ctx → Ctx) : (s.updCtx n f).qloads = s.qloads := rfl
@[simp] theorem State.updCtx_hostings (s : State) (n : Nat) (f : Ctx → Ctx) : (s.updCtx n f).hostings = s.hostings := rfl
@[simp] theorem State.updCtx_probes (s : State) (n : Nat) (f : Ctx → Ctx) : (s.updCtx n f).probes = s.probes := rfl
@[simp] theorem State.updCtx_steals (s : State) (n : Nat) (f : Ctx → Ctx) : (s.updCtx n f).steals = s.steals := rfl
@[simp] theorem State.updCtx_l1 (s : State) (n : Nat) (f : Ctx → Ctx) : (s.updCtx n f).l1 = s.l1 := rfl
@[simp] theorem State.updCtx_ember (s : State) (n : Nat) (f : Ctx → Ctx) : (s.updCtx n f).ember = s.ember := rfl
@[simp] theorem State.updCtx_vlines (s : State) (n : Nat) (f : Ctx → Ctx) : (s.updCtx n f).vlines = s.vlines := rfl
@[simp] theorem State.updCtx_counters (s : State) (n : Nat) (f : Ctx → Ctx) : (s.updCtx n f).counters = s.counters := rfl
@[simp] theorem State.updCtx_migrations (s : State) (n : Nat) (f : Ctx → Ctx) : (s.updCtx n f).migrations = s.migrations := rfl
@[simp] theorem State.updCtx_tiers (s : State) (n : Nat) (f : Ctx → Ctx) : (s.updCtx n f).tiers = s.tiers := rfl
@[simp] theorem State.updCtx_ordered (s : State) (n : Nat) (f : Ctx → Ctx) : (s.updCtx n f).ordered = s.ordered := rfl
@[simp] theorem State.updCtx_claims (s : State) (n : Nat) (f : Ctx → Ctx) : (s.updCtx n f).claims = s.claims := rfl
@[simp] theorem State.updCtx_joins (s : State) (n : Nat) (f : Ctx → Ctx) : (s.updCtx n f).joins = s.joins := rfl
@[simp] theorem State.updCtx_late (s : State) (n : Nat) (f : Ctx → Ctx) : (s.updCtx n f).late = s.late := rfl
@[simp] theorem State.updCtx_loads (s : State) (n : Nat) (f : Ctx → Ctx) : (s.updCtx n f).loads = s.loads := rfl
@[simp] theorem State.updCtx_starts (s : State) (n : Nat) (f : Ctx → Ctx) : (s.updCtx n f).starts = s.starts := rfl
@[simp] theorem State.updCtx_copies (s : State) (n : Nat) (f : Ctx → Ctx) : (s.updCtx n f).copies = s.copies := rfl
@[simp] theorem State.updCtx_triggers (s : State) (n : Nat) (f : Ctx → Ctx) : (s.updCtx n f).triggers = s.triggers := rfl
@[simp] theorem State.updCtx_units (s : State) (n : Nat) (f : Ctx → Ctx) : (s.updCtx n f).units = s.units := rfl
@[simp] theorem State.updCtx_savedUnits (s : State) (n : Nat) (f : Ctx → Ctx) : (s.updCtx n f).savedUnits = s.savedUnits := rfl
@[simp] theorem State.updCtx_savedTrigs (s : State) (n : Nat) (f : Ctx → Ctx) : (s.updCtx n f).savedTrigs = s.savedTrigs := rfl
@[simp] theorem State.updCtx_savedStarts (s : State) (n : Nat) (f : Ctx → Ctx) : (s.updCtx n f).savedStarts = s.savedStarts := rfl
@[simp] theorem State.updCtx_places (s : State) (n : Nat) (f : Ctx → Ctx) : (s.updCtx n f).places = s.places := rfl
@[simp] theorem State.updCtx_fcopies (s : State) (n : Nat) (f : Ctx → Ctx) : (s.updCtx n f).fcopies = s.fcopies := rfl
@[simp] theorem State.updCtx_rounds (s : State) (n : Nat) (f : Ctx → Ctx) : (s.updCtx n f).rounds = s.rounds := rfl
@[simp] theorem State.updCtx_redcounts (s : State) (n : Nat) (f : Ctx → Ctx) : (s.updCtx n f).redcounts = s.redcounts := rfl
@[simp] theorem State.updCtx_awaits (s : State) (n : Nat) (f : Ctx → Ctx) : (s.updCtx n f).awaits = s.awaits := rfl
@[simp] theorem State.updCtx_landings (s : State) (n : Nat) (f : Ctx → Ctx) : (s.updCtx n f).landings = s.landings := rfl
@[simp] theorem State.updCtx_segs (s : State) (n : Nat) (f : Ctx → Ctx) : (s.updCtx n f).segs = s.segs := rfl
@[simp] theorem State.updCtx_rejoins (s : State) (n : Nat) (f : Ctx → Ctx) : (s.updCtx n f).rejoins = s.rejoins := rfl
@[simp] theorem State.updCtx_sent (s : State) (n : Nat) (f : Ctx → Ctx) : (s.updCtx n f).sent = s.sent := rfl
@[simp] theorem State.updCtx_allowq (s : State) (n : Nat) (f : Ctx → Ctx) : (s.updCtx n f).allowq = s.allowq := rfl
@[simp] theorem State.updCtx_acks (s : State) (n : Nat) (f : Ctx → Ctx) : (s.updCtx n f).acks = s.acks := rfl
@[simp] theorem State.updCtx_resps (s : State) (n : Nat) (f : Ctx → Ctx) : (s.updCtx n f).resps = s.resps := rfl
@[simp] theorem State.updCtx_links (s : State) (n : Nat) (f : Ctx → Ctx) : (s.updCtx n f).links = s.links := rfl
@[simp] theorem State.updCtx_fns (s : State) (n : Nat) (f : Ctx → Ctx) : (s.updCtx n f).fns = s.fns := rfl
@[simp] theorem State.updCtx_dump (s : State) (n : Nat) (f : Ctx → Ctx) : (s.updCtx n f).dump = s.dump := rfl

/-! writeMem changes mem and poison only. -/

@[simp] theorem State.writeMem_agenda (s : State) (a : Nat) (bs : List Byte) : (s.writeMem a bs).agenda = s.agenda := rfl
@[simp] theorem State.writeMem_focus (s : State) (a : Nat) (bs : List Byte) : (s.writeMem a bs).focus = s.focus := rfl
@[simp] theorem State.writeMem_cur (s : State) (a : Nat) (bs : List Byte) : (s.writeMem a bs).cur = s.cur := rfl
@[simp] theorem State.writeMem_tick (s : State) (a : Nat) (bs : List Byte) : (s.writeMem a bs).tick = s.tick := rfl
@[simp] theorem State.writeMem_now (s : State) (a : Nat) (bs : List Byte) : (s.writeMem a bs).now = s.now := rfl
@[simp] theorem State.writeMem_mhz (s : State) (a : Nat) (bs : List Byte) : (s.writeMem a bs).mhz = s.mhz := rfl
@[simp] theorem State.writeMem_scratch (s : State) (a : Nat) (bs : List Byte) : (s.writeMem a bs).scratch = s.scratch := rfl
@[simp] theorem State.writeMem_hostMem (s : State) (a : Nat) (bs : List Byte) : (s.writeMem a bs).hostMem = s.hostMem := rfl
@[simp] theorem State.writeMem_image (s : State) (a : Nat) (bs : List Byte) : (s.writeMem a bs).image = s.image := rfl
@[simp] theorem State.writeMem_recBytes (s : State) (a : Nat) (bs : List Byte) : (s.writeMem a bs).recBytes = s.recBytes := rfl
@[simp] theorem State.writeMem_arrange (s : State) (a : Nat) (bs : List Byte) : (s.writeMem a bs).arrange = s.arrange := rfl
@[simp] theorem State.writeMem_lpshare (s : State) (a : Nat) (bs : List Byte) : (s.writeMem a bs).lpshare = s.lpshare := rfl
@[simp] theorem State.writeMem_envelope (s : State) (a : Nat) (bs : List Byte) : (s.writeMem a bs).envelope = s.envelope := rfl
@[simp] theorem State.writeMem_ftimeout (s : State) (a : Nat) (bs : List Byte) : (s.writeMem a bs).ftimeout = s.ftimeout := rfl
@[simp] theorem State.writeMem_recSerial (s : State) (a : Nat) (bs : List Byte) : (s.writeMem a bs).recSerial = s.recSerial := rfl
@[simp] theorem State.writeMem_recovery (s : State) (a : Nat) (bs : List Byte) : (s.writeMem a bs).recovery = s.recovery := rfl
@[simp] theorem State.writeMem_disabled (s : State) (a : Nat) (bs : List Byte) : (s.writeMem a bs).disabled = s.disabled := rfl
@[simp] theorem State.writeMem_spares (s : State) (a : Nat) (bs : List Byte) : (s.writeMem a bs).spares = s.spares := rfl
@[simp] theorem State.writeMem_fences (s : State) (a : Nat) (bs : List Byte) : (s.writeMem a bs).fences = s.fences := rfl
@[simp] theorem State.writeMem_fatal (s : State) (a : Nat) (bs : List Byte) : (s.writeMem a bs).fatal = s.fatal := rfl
@[simp] theorem State.writeMem_throttled (s : State) (a : Nat) (bs : List Byte) : (s.writeMem a bs).throttled = s.throttled := rfl
@[simp] theorem State.writeMem_avgThrottled (s : State) (a : Nat) (bs : List Byte) : (s.writeMem a bs).avgThrottled = s.avgThrottled := rfl
@[simp] theorem State.writeMem_power (s : State) (a : Nat) (bs : List Byte) : (s.writeMem a bs).power = s.power := rfl
@[simp] theorem State.writeMem_average (s : State) (a : Nat) (bs : List Byte) : (s.writeMem a bs).average = s.average := rfl
@[simp] theorem State.writeMem_celsius (s : State) (a : Nat) (bs : List Byte) : (s.writeMem a bs).celsius = s.celsius := rfl
@[simp] theorem State.writeMem_telemetry (s : State) (a : Nat) (bs : List Byte) : (s.writeMem a bs).telemetry = s.telemetry := rfl
@[simp] theorem State.writeMem_throttles (s : State) (a : Nat) (bs : List Byte) : (s.writeMem a bs).throttles = s.throttles := rfl
@[simp] theorem State.writeMem_corrected (s : State) (a : Nat) (bs : List Byte) : (s.writeMem a bs).corrected = s.corrected := rfl
@[simp] theorem State.writeMem_spared (s : State) (a : Nat) (bs : List Byte) : (s.writeMem a bs).spared = s.spared := rfl
@[simp] theorem State.writeMem_closing (s : State) (a : Nat) (bs : List Byte) : (s.writeMem a bs).closing = s.closing := rfl
@[simp] theorem State.writeMem_firmware (s : State) (a : Nat) (bs : List Byte) : (s.writeMem a bs).firmware = s.firmware := rfl
@[simp] theorem State.writeMem_ctxs (s : State) (a : Nat) (bs : List Byte) : (s.writeMem a bs).ctxs = s.ctxs := rfl
@[simp] theorem State.writeMem_launches (s : State) (a : Nat) (bs : List Byte) : (s.writeMem a bs).launches = s.launches := rfl
@[simp] theorem State.writeMem_teams (s : State) (a : Nat) (bs : List Byte) : (s.writeMem a bs).teams = s.teams := rfl
@[simp] theorem State.writeMem_groups (s : State) (a : Nat) (bs : List Byte) : (s.writeMem a bs).groups = s.groups := rfl
@[simp] theorem State.writeMem_growq (s : State) (a : Nat) (bs : List Byte) : (s.writeMem a bs).growq = s.growq := rfl
@[simp] theorem State.writeMem_tags (s : State) (a : Nat) (bs : List Byte) : (s.writeMem a bs).tags = s.tags := rfl
@[simp] theorem State.writeMem_tagrefs (s : State) (a : Nat) (bs : List Byte) : (s.writeMem a bs).tagrefs = s.tagrefs := rfl
@[simp] theorem State.writeMem_qunits (s : State) (a : Nat) (bs : List Byte) : (s.writeMem a bs).qunits = s.qunits := rfl
@[simp] theorem State.writeMem_qloads (s : State) (a : Nat) (bs : List Byte) : (s.writeMem a bs).qloads = s.qloads := rfl
@[simp] theorem State.writeMem_hostings (s : State) (a : Nat) (bs : List Byte) : (s.writeMem a bs).hostings = s.hostings := rfl
@[simp] theorem State.writeMem_probes (s : State) (a : Nat) (bs : List Byte) : (s.writeMem a bs).probes = s.probes := rfl
@[simp] theorem State.writeMem_steals (s : State) (a : Nat) (bs : List Byte) : (s.writeMem a bs).steals = s.steals := rfl
@[simp] theorem State.writeMem_l1 (s : State) (a : Nat) (bs : List Byte) : (s.writeMem a bs).l1 = s.l1 := rfl
@[simp] theorem State.writeMem_ember (s : State) (a : Nat) (bs : List Byte) : (s.writeMem a bs).ember = s.ember := rfl
@[simp] theorem State.writeMem_vlines (s : State) (a : Nat) (bs : List Byte) : (s.writeMem a bs).vlines = s.vlines := rfl
@[simp] theorem State.writeMem_counters (s : State) (a : Nat) (bs : List Byte) : (s.writeMem a bs).counters = s.counters := rfl
@[simp] theorem State.writeMem_migrations (s : State) (a : Nat) (bs : List Byte) : (s.writeMem a bs).migrations = s.migrations := rfl
@[simp] theorem State.writeMem_tiers (s : State) (a : Nat) (bs : List Byte) : (s.writeMem a bs).tiers = s.tiers := rfl
@[simp] theorem State.writeMem_ordered (s : State) (a : Nat) (bs : List Byte) : (s.writeMem a bs).ordered = s.ordered := rfl
@[simp] theorem State.writeMem_claims (s : State) (a : Nat) (bs : List Byte) : (s.writeMem a bs).claims = s.claims := rfl
@[simp] theorem State.writeMem_joins (s : State) (a : Nat) (bs : List Byte) : (s.writeMem a bs).joins = s.joins := rfl
@[simp] theorem State.writeMem_late (s : State) (a : Nat) (bs : List Byte) : (s.writeMem a bs).late = s.late := rfl
@[simp] theorem State.writeMem_loads (s : State) (a : Nat) (bs : List Byte) : (s.writeMem a bs).loads = s.loads := rfl
@[simp] theorem State.writeMem_starts (s : State) (a : Nat) (bs : List Byte) : (s.writeMem a bs).starts = s.starts := rfl
@[simp] theorem State.writeMem_copies (s : State) (a : Nat) (bs : List Byte) : (s.writeMem a bs).copies = s.copies := rfl
@[simp] theorem State.writeMem_triggers (s : State) (a : Nat) (bs : List Byte) : (s.writeMem a bs).triggers = s.triggers := rfl
@[simp] theorem State.writeMem_units (s : State) (a : Nat) (bs : List Byte) : (s.writeMem a bs).units = s.units := rfl
@[simp] theorem State.writeMem_savedUnits (s : State) (a : Nat) (bs : List Byte) : (s.writeMem a bs).savedUnits = s.savedUnits := rfl
@[simp] theorem State.writeMem_savedTrigs (s : State) (a : Nat) (bs : List Byte) : (s.writeMem a bs).savedTrigs = s.savedTrigs := rfl
@[simp] theorem State.writeMem_savedStarts (s : State) (a : Nat) (bs : List Byte) : (s.writeMem a bs).savedStarts = s.savedStarts := rfl
@[simp] theorem State.writeMem_places (s : State) (a : Nat) (bs : List Byte) : (s.writeMem a bs).places = s.places := rfl
@[simp] theorem State.writeMem_fcopies (s : State) (a : Nat) (bs : List Byte) : (s.writeMem a bs).fcopies = s.fcopies := rfl
@[simp] theorem State.writeMem_rounds (s : State) (a : Nat) (bs : List Byte) : (s.writeMem a bs).rounds = s.rounds := rfl
@[simp] theorem State.writeMem_redcounts (s : State) (a : Nat) (bs : List Byte) : (s.writeMem a bs).redcounts = s.redcounts := rfl
@[simp] theorem State.writeMem_awaits (s : State) (a : Nat) (bs : List Byte) : (s.writeMem a bs).awaits = s.awaits := rfl
@[simp] theorem State.writeMem_landings (s : State) (a : Nat) (bs : List Byte) : (s.writeMem a bs).landings = s.landings := rfl
@[simp] theorem State.writeMem_segs (s : State) (a : Nat) (bs : List Byte) : (s.writeMem a bs).segs = s.segs := rfl
@[simp] theorem State.writeMem_rejoins (s : State) (a : Nat) (bs : List Byte) : (s.writeMem a bs).rejoins = s.rejoins := rfl
@[simp] theorem State.writeMem_sent (s : State) (a : Nat) (bs : List Byte) : (s.writeMem a bs).sent = s.sent := rfl
@[simp] theorem State.writeMem_allowq (s : State) (a : Nat) (bs : List Byte) : (s.writeMem a bs).allowq = s.allowq := rfl
@[simp] theorem State.writeMem_acks (s : State) (a : Nat) (bs : List Byte) : (s.writeMem a bs).acks = s.acks := rfl
@[simp] theorem State.writeMem_resps (s : State) (a : Nat) (bs : List Byte) : (s.writeMem a bs).resps = s.resps := rfl
@[simp] theorem State.writeMem_links (s : State) (a : Nat) (bs : List Byte) : (s.writeMem a bs).links = s.links := rfl
@[simp] theorem State.writeMem_fns (s : State) (a : Nat) (bs : List Byte) : (s.writeMem a bs).fns = s.fns := rfl
@[simp] theorem State.writeMem_dump (s : State) (a : Nat) (bs : List Byte) : (s.writeMem a bs).dump = s.dump := rfl

/-! writeScratch changes scratch and poison only. -/

@[simp] theorem State.writeScratch_agenda (s : State) (cl o : Nat) (bs : List Byte) : (s.writeScratch cl o bs).agenda = s.agenda := rfl
@[simp] theorem State.writeScratch_focus (s : State) (cl o : Nat) (bs : List Byte) : (s.writeScratch cl o bs).focus = s.focus := rfl
@[simp] theorem State.writeScratch_cur (s : State) (cl o : Nat) (bs : List Byte) : (s.writeScratch cl o bs).cur = s.cur := rfl
@[simp] theorem State.writeScratch_tick (s : State) (cl o : Nat) (bs : List Byte) : (s.writeScratch cl o bs).tick = s.tick := rfl
@[simp] theorem State.writeScratch_now (s : State) (cl o : Nat) (bs : List Byte) : (s.writeScratch cl o bs).now = s.now := rfl
@[simp] theorem State.writeScratch_mhz (s : State) (cl o : Nat) (bs : List Byte) : (s.writeScratch cl o bs).mhz = s.mhz := rfl
@[simp] theorem State.writeScratch_mem (s : State) (cl o : Nat) (bs : List Byte) : (s.writeScratch cl o bs).mem = s.mem := rfl
@[simp] theorem State.writeScratch_hostMem (s : State) (cl o : Nat) (bs : List Byte) : (s.writeScratch cl o bs).hostMem = s.hostMem := rfl
@[simp] theorem State.writeScratch_image (s : State) (cl o : Nat) (bs : List Byte) : (s.writeScratch cl o bs).image = s.image := rfl
@[simp] theorem State.writeScratch_recBytes (s : State) (cl o : Nat) (bs : List Byte) : (s.writeScratch cl o bs).recBytes = s.recBytes := rfl
@[simp] theorem State.writeScratch_arrange (s : State) (cl o : Nat) (bs : List Byte) : (s.writeScratch cl o bs).arrange = s.arrange := rfl
@[simp] theorem State.writeScratch_lpshare (s : State) (cl o : Nat) (bs : List Byte) : (s.writeScratch cl o bs).lpshare = s.lpshare := rfl
@[simp] theorem State.writeScratch_envelope (s : State) (cl o : Nat) (bs : List Byte) : (s.writeScratch cl o bs).envelope = s.envelope := rfl
@[simp] theorem State.writeScratch_ftimeout (s : State) (cl o : Nat) (bs : List Byte) : (s.writeScratch cl o bs).ftimeout = s.ftimeout := rfl
@[simp] theorem State.writeScratch_recSerial (s : State) (cl o : Nat) (bs : List Byte) : (s.writeScratch cl o bs).recSerial = s.recSerial := rfl
@[simp] theorem State.writeScratch_recovery (s : State) (cl o : Nat) (bs : List Byte) : (s.writeScratch cl o bs).recovery = s.recovery := rfl
@[simp] theorem State.writeScratch_disabled (s : State) (cl o : Nat) (bs : List Byte) : (s.writeScratch cl o bs).disabled = s.disabled := rfl
@[simp] theorem State.writeScratch_spares (s : State) (cl o : Nat) (bs : List Byte) : (s.writeScratch cl o bs).spares = s.spares := rfl
@[simp] theorem State.writeScratch_fences (s : State) (cl o : Nat) (bs : List Byte) : (s.writeScratch cl o bs).fences = s.fences := rfl
@[simp] theorem State.writeScratch_fatal (s : State) (cl o : Nat) (bs : List Byte) : (s.writeScratch cl o bs).fatal = s.fatal := rfl
@[simp] theorem State.writeScratch_throttled (s : State) (cl o : Nat) (bs : List Byte) : (s.writeScratch cl o bs).throttled = s.throttled := rfl
@[simp] theorem State.writeScratch_avgThrottled (s : State) (cl o : Nat) (bs : List Byte) : (s.writeScratch cl o bs).avgThrottled = s.avgThrottled := rfl
@[simp] theorem State.writeScratch_power (s : State) (cl o : Nat) (bs : List Byte) : (s.writeScratch cl o bs).power = s.power := rfl
@[simp] theorem State.writeScratch_average (s : State) (cl o : Nat) (bs : List Byte) : (s.writeScratch cl o bs).average = s.average := rfl
@[simp] theorem State.writeScratch_celsius (s : State) (cl o : Nat) (bs : List Byte) : (s.writeScratch cl o bs).celsius = s.celsius := rfl
@[simp] theorem State.writeScratch_telemetry (s : State) (cl o : Nat) (bs : List Byte) : (s.writeScratch cl o bs).telemetry = s.telemetry := rfl
@[simp] theorem State.writeScratch_throttles (s : State) (cl o : Nat) (bs : List Byte) : (s.writeScratch cl o bs).throttles = s.throttles := rfl
@[simp] theorem State.writeScratch_corrected (s : State) (cl o : Nat) (bs : List Byte) : (s.writeScratch cl o bs).corrected = s.corrected := rfl
@[simp] theorem State.writeScratch_spared (s : State) (cl o : Nat) (bs : List Byte) : (s.writeScratch cl o bs).spared = s.spared := rfl
@[simp] theorem State.writeScratch_closing (s : State) (cl o : Nat) (bs : List Byte) : (s.writeScratch cl o bs).closing = s.closing := rfl
@[simp] theorem State.writeScratch_firmware (s : State) (cl o : Nat) (bs : List Byte) : (s.writeScratch cl o bs).firmware = s.firmware := rfl
@[simp] theorem State.writeScratch_ctxs (s : State) (cl o : Nat) (bs : List Byte) : (s.writeScratch cl o bs).ctxs = s.ctxs := rfl
@[simp] theorem State.writeScratch_launches (s : State) (cl o : Nat) (bs : List Byte) : (s.writeScratch cl o bs).launches = s.launches := rfl
@[simp] theorem State.writeScratch_teams (s : State) (cl o : Nat) (bs : List Byte) : (s.writeScratch cl o bs).teams = s.teams := rfl
@[simp] theorem State.writeScratch_groups (s : State) (cl o : Nat) (bs : List Byte) : (s.writeScratch cl o bs).groups = s.groups := rfl
@[simp] theorem State.writeScratch_growq (s : State) (cl o : Nat) (bs : List Byte) : (s.writeScratch cl o bs).growq = s.growq := rfl
@[simp] theorem State.writeScratch_tags (s : State) (cl o : Nat) (bs : List Byte) : (s.writeScratch cl o bs).tags = s.tags := rfl
@[simp] theorem State.writeScratch_tagrefs (s : State) (cl o : Nat) (bs : List Byte) : (s.writeScratch cl o bs).tagrefs = s.tagrefs := rfl
@[simp] theorem State.writeScratch_qunits (s : State) (cl o : Nat) (bs : List Byte) : (s.writeScratch cl o bs).qunits = s.qunits := rfl
@[simp] theorem State.writeScratch_qloads (s : State) (cl o : Nat) (bs : List Byte) : (s.writeScratch cl o bs).qloads = s.qloads := rfl
@[simp] theorem State.writeScratch_hostings (s : State) (cl o : Nat) (bs : List Byte) : (s.writeScratch cl o bs).hostings = s.hostings := rfl
@[simp] theorem State.writeScratch_probes (s : State) (cl o : Nat) (bs : List Byte) : (s.writeScratch cl o bs).probes = s.probes := rfl
@[simp] theorem State.writeScratch_steals (s : State) (cl o : Nat) (bs : List Byte) : (s.writeScratch cl o bs).steals = s.steals := rfl
@[simp] theorem State.writeScratch_l1 (s : State) (cl o : Nat) (bs : List Byte) : (s.writeScratch cl o bs).l1 = s.l1 := rfl
@[simp] theorem State.writeScratch_ember (s : State) (cl o : Nat) (bs : List Byte) : (s.writeScratch cl o bs).ember = s.ember := rfl
@[simp] theorem State.writeScratch_vlines (s : State) (cl o : Nat) (bs : List Byte) : (s.writeScratch cl o bs).vlines = s.vlines := rfl
@[simp] theorem State.writeScratch_counters (s : State) (cl o : Nat) (bs : List Byte) : (s.writeScratch cl o bs).counters = s.counters := rfl
@[simp] theorem State.writeScratch_migrations (s : State) (cl o : Nat) (bs : List Byte) : (s.writeScratch cl o bs).migrations = s.migrations := rfl
@[simp] theorem State.writeScratch_tiers (s : State) (cl o : Nat) (bs : List Byte) : (s.writeScratch cl o bs).tiers = s.tiers := rfl
@[simp] theorem State.writeScratch_ordered (s : State) (cl o : Nat) (bs : List Byte) : (s.writeScratch cl o bs).ordered = s.ordered := rfl
@[simp] theorem State.writeScratch_claims (s : State) (cl o : Nat) (bs : List Byte) : (s.writeScratch cl o bs).claims = s.claims := rfl
@[simp] theorem State.writeScratch_joins (s : State) (cl o : Nat) (bs : List Byte) : (s.writeScratch cl o bs).joins = s.joins := rfl
@[simp] theorem State.writeScratch_late (s : State) (cl o : Nat) (bs : List Byte) : (s.writeScratch cl o bs).late = s.late := rfl
@[simp] theorem State.writeScratch_loads (s : State) (cl o : Nat) (bs : List Byte) : (s.writeScratch cl o bs).loads = s.loads := rfl
@[simp] theorem State.writeScratch_starts (s : State) (cl o : Nat) (bs : List Byte) : (s.writeScratch cl o bs).starts = s.starts := rfl
@[simp] theorem State.writeScratch_copies (s : State) (cl o : Nat) (bs : List Byte) : (s.writeScratch cl o bs).copies = s.copies := rfl
@[simp] theorem State.writeScratch_triggers (s : State) (cl o : Nat) (bs : List Byte) : (s.writeScratch cl o bs).triggers = s.triggers := rfl
@[simp] theorem State.writeScratch_units (s : State) (cl o : Nat) (bs : List Byte) : (s.writeScratch cl o bs).units = s.units := rfl
@[simp] theorem State.writeScratch_savedUnits (s : State) (cl o : Nat) (bs : List Byte) : (s.writeScratch cl o bs).savedUnits = s.savedUnits := rfl
@[simp] theorem State.writeScratch_savedTrigs (s : State) (cl o : Nat) (bs : List Byte) : (s.writeScratch cl o bs).savedTrigs = s.savedTrigs := rfl
@[simp] theorem State.writeScratch_savedStarts (s : State) (cl o : Nat) (bs : List Byte) : (s.writeScratch cl o bs).savedStarts = s.savedStarts := rfl
@[simp] theorem State.writeScratch_places (s : State) (cl o : Nat) (bs : List Byte) : (s.writeScratch cl o bs).places = s.places := rfl
@[simp] theorem State.writeScratch_fcopies (s : State) (cl o : Nat) (bs : List Byte) : (s.writeScratch cl o bs).fcopies = s.fcopies := rfl
@[simp] theorem State.writeScratch_rounds (s : State) (cl o : Nat) (bs : List Byte) : (s.writeScratch cl o bs).rounds = s.rounds := rfl
@[simp] theorem State.writeScratch_redcounts (s : State) (cl o : Nat) (bs : List Byte) : (s.writeScratch cl o bs).redcounts = s.redcounts := rfl
@[simp] theorem State.writeScratch_awaits (s : State) (cl o : Nat) (bs : List Byte) : (s.writeScratch cl o bs).awaits = s.awaits := rfl
@[simp] theorem State.writeScratch_landings (s : State) (cl o : Nat) (bs : List Byte) : (s.writeScratch cl o bs).landings = s.landings := rfl
@[simp] theorem State.writeScratch_segs (s : State) (cl o : Nat) (bs : List Byte) : (s.writeScratch cl o bs).segs = s.segs := rfl
@[simp] theorem State.writeScratch_rejoins (s : State) (cl o : Nat) (bs : List Byte) : (s.writeScratch cl o bs).rejoins = s.rejoins := rfl
@[simp] theorem State.writeScratch_sent (s : State) (cl o : Nat) (bs : List Byte) : (s.writeScratch cl o bs).sent = s.sent := rfl
@[simp] theorem State.writeScratch_allowq (s : State) (cl o : Nat) (bs : List Byte) : (s.writeScratch cl o bs).allowq = s.allowq := rfl
@[simp] theorem State.writeScratch_acks (s : State) (cl o : Nat) (bs : List Byte) : (s.writeScratch cl o bs).acks = s.acks := rfl
@[simp] theorem State.writeScratch_resps (s : State) (cl o : Nat) (bs : List Byte) : (s.writeScratch cl o bs).resps = s.resps := rfl
@[simp] theorem State.writeScratch_links (s : State) (cl o : Nat) (bs : List Byte) : (s.writeScratch cl o bs).links = s.links := rfl
@[simp] theorem State.writeScratch_fns (s : State) (cl o : Nat) (bs : List Byte) : (s.writeScratch cl o bs).fns = s.fns := rfl
@[simp] theorem State.writeScratch_dump (s : State) (cl o : Nat) (bs : List Byte) : (s.writeScratch cl o bs).dump = s.dump := rfl

/-! Looking up what an update wrote. -/

theorem find?_map_id {α β : Type} [DecidableEq β] (key : α → β) (k : β) (f : α → α) (hf : ∀ x, key (f x) = key x)
    (l : List α) : (l.map f).find? (fun x => key x = k) = (l.find? fun x => key x = k).map f := by
  induction l with
  | nil => rfl
  | cons x t ih =>
    simp only [List.map_cons, List.find?_cons, hf]
    by_cases h : key x = k
    · simp [h]
    · simp [h, ih]

/-- The group that was set is found, where a group of its number was there. -/
theorem State.group?_setGroup (s : State) (g : Group) (h : (s.group? g.id).isSome = true) :
    (s.setGroup g).group? g.id = some g := by
  obtain ⟨x, hx⟩ := Option.isSome_iff_exists.mp h
  have hid : x.id = g.id := by simpa using List.find?_some hx
  unfold State.group? State.setGroup
  rw [find?_map_id (fun y : Group => y.id) g.id (fun y => if y.id = g.id then g else y)]
  · simp only [State.group?] at hx
    rw [hx]; simp [hid]
  · intro y; split <;> simp_all

/-- Every other group is as it was. -/
theorem State.group?_setGroup_ne (s : State) (g : Group) (i : GroupId) (h : i ≠ g.id) :
    (s.setGroup g).group? i = s.group? i := by
  unfold State.group? State.setGroup
  rw [find?_map_id (fun y : Group => y.id) i (fun y => if y.id = g.id then g else y)]
  · cases hx : s.groups.find? fun y => y.id = i with
    | none => rfl
    | some x =>
      have hid : x.id = i := by simpa using List.find?_some hx
      have hn : x.id ≠ g.id := by rw [hid]; exact h
      simp [hn]
  · intro y; split <;> simp_all

/-- The context that was updated. -/
theorem State.ctx?_updCtx (s : State) (n : Nat) (f : Ctx → Ctx) (hf : ∀ c, (f c).no = c.no) (k : Nat) :
    (s.updCtx n f).ctx? k = (s.ctx? k).map fun c => if c.no = n then f c else c := by
  unfold State.ctx? State.updCtx
  rw [find?_map_id (fun c : Ctx => c.no) k (fun c => if c.no = n then f c else c)]
  intro c; split <;> simp_all

end Sys2Proof.Machine
end

