-- ==== Sys2Proof/Laws/Ops.lean ====
section
/-! SUPPORT. What the shared operations can do, said once: the frame of every instruction, retiring, the transfers and the
entry of a trap. -/

namespace Sys2Proof.Machine

/-- What it means that an instruction issues. -/
theorem State.issues_cases {s : State} {i : Instr} {g : Group} (hi : s.issues i g = true) :
    s.cur = some g.id ∧ s.group? g.id = some g ∧ ∃ sh, i.shape = some sh ∧
      (sh.h.g = true → guardQ g sh.h = true) ∧ s.ready g sh = .go := by
  unfold State.issues at hi
  split at hi
  · simp at hi
  · rename_i sh hsh
    simp only [Bool.and_eq_true, decide_eq_true_eq, Bool.or_eq_true, Bool.not_eq_true'] at hi
    refine ⟨hi.1.1, hi.1.2, sh, hsh, ?_, hi.2.2⟩
    intro hg
    rcases hi.2.1 with h | h
    · rw [hg] at h; cases h
    · exact h

/-- The frame of an instruction that issues: its own effect follows. Here and below `hs` is proved by rfl for a
constructor with its fields. -/
theorem State.issue_go {s : State} {i : Instr} {g : Group} {h : Hdr} (hi : s.issues i g = true)
    (hs : i.shape.map (·.h) = some h) (k : Group → Hdr → Out) : s.issue i k = k g h := by
  obtain ⟨hc, hg, sh, hs', hgu, hr⟩ := State.issues_cases hi
  rw [hs'] at hs
  cases hs
  unfold State.issue State.withGroup
  simp only [hc, hg, hs']
  cases hG : sh.h.g
  · simp [hr]
  · simp [hgu hG, hr]

/-- A group-wide form whose guard fails only retires (05 R82). -/
theorem State.issue_off {s : State} {i : Instr} {g : Group} {sh : Shape} (hc : s.cur = some g.id)
    (hg : s.group? g.id = some g) (hs : i.shape = some sh) (hG : sh.h.g = true) (hq : guardQ g sh.h = false)
    (k : Group → Hdr → Out) : s.issue i k = .next (s.retire g sh.h) := by
  unfold State.issue State.withGroup
  simp [hc, hg, hs, hG, hq]

/-- An instruction that a check holds leaves everything as it is (05 R76, R78, R79). -/
theorem State.issue_hold {s : State} {i : Instr} {g : Group} {sh : Shape} (hc : s.cur = some g.id)
    (hg : s.group? g.id = some g) (hs : i.shape = some sh) (hq : sh.h.g = true → guardQ g sh.h = true)
    (hr : s.ready g sh = .hold) (k : Group → Hdr → Out) : s.issue i k = .next s := by
  unfold State.issue State.withGroup
  cases hG : sh.h.g
  · simp [hc, hg, hs, hG, hr]
  · simp [hc, hg, hs, hG, hr, hq hG]

/-- An instruction that a check turns away traps before its effect (05 R94). -/
theorem State.issue_trap {s : State} {i : Instr} {g : Group} {sh : Shape} {c : Cause} (hc : s.cur = some g.id)
    (hg : s.group? g.id = some g) (hs : i.shape = some sh) (hq : sh.h.g = true → guardQ g sh.h = true)
    (hr : s.ready g sh = .trap c) (k : Group → Hdr → Out) : s.issue i k = .next (s.trap g sh.h { cause := c }) := by
  unfold State.issue State.withGroup
  cases hG : sh.h.g
  · simp [hc, hg, hs, hG, hr]
  · simp [hc, hg, hs, hG, hr, hq hG]

/-- Every instruction word answers a next state while a group is issuing, whatever its effect answers in a next state. -/
theorem State.issue_next {s : State} {i : Instr} {g : Group} {sh : Shape} (hc : s.cur = some g.id)
    (hg : s.group? g.id = some g) (hs : i.shape = some sh) {k : Group → Hdr → Out} (hk : ∃ t, k g sh.h = .next t) :
    ∃ t, s.issue i k = .next t := by
  unfold State.issue State.withGroup
  simp only [hc, hg, hs]
  split
  · exact ⟨_, rfl⟩
  · split
    · exact ⟨_, rfl⟩
    · exact ⟨_, rfl⟩
    · exact hk

/-- An instruction of the per-lane frame that issues. -/
theorem State.perLane_go {s : State} {i : Instr} {g : Group} {h : Hdr} (hi : s.issues i g = true)
    (hs : i.shape.map (·.h) = some h) (d : Opd) (w : Nat) (signed : Bool) (f : Group → Hdr → Nat → Nat) :
    s.perLane i d w signed f = s.gives g h d w signed (f g h) := by
  unfold State.perLane State.compute
  rw [State.issue_go hi hs]
  rfl

/-- An instruction that only computes and issues. -/
theorem State.compute_go {s : State} {i : Instr} {g : Group} {h : Hdr} (hi : s.issues i g = true)
    (hs : i.shape.map (·.h) = some h) (f : Group → Hdr → Group) : s.compute i f = s.goes (f g h) h := by
  unfold State.compute
  rw [State.issue_go hi hs]
  rfl

/-- The whole of what retiring an instruction outside a re-issue does to the group (07 R131; 05 R73, R75, R88). -/
theorem Group.retire_fields (g : Group) (len : Nat) (e : Bool) (now : Nat) :
    (g.retire len e now).id = g.id ∧ (g.retire len e now).v = g.v ∧ (g.retire len e now).full = g.full
      ∧ (g.retire len e now).g = g.g ∧ (g.retire len e now).p = g.p ∧ (g.retire len e now).q = g.q
      ∧ (g.retire len e now).exm = g.exm ∧ (g.retire len e now).stack = g.stack
      ∧ (g.retire len e now).ric = g.ric + 1 := by
  unfold Group.retire
  split
  · simp
  · dsimp only
    repeat' split
    all_goals exact ⟨rfl, rfl, rfl, rfl, rfl, rfl, rfl, rfl, rfl⟩

@[simp] theorem Group.endLeg_o (g : Group) (now : Nat) : (g.endLeg now).o = emptyO := rfl
@[simp] theorem Group.endLeg_l (g : Group) (now : Nat) : (g.endLeg now).l = emptyL := rfl
@[simp] theorem Group.endLeg_v (g : Group) (now : Nat) : (g.endLeg now).v = g.v := rfl
@[simp] theorem Group.endLeg_g (g : Group) (now : Nat) : (g.endLeg now).g = g.g := rfl
@[simp] theorem Group.endLeg_st (g : Group) (now : Nat) : (g.endLeg now).st = .ready := rfl

/-- A trap at issue outside a re-issue, in terms of the shared entry (19 R331). -/
theorem State.trap_first (s : State) (g : Group) (h : Hdr) (t : Trap) (hr : g.reissue = []) :
    s.trap g h t = s.trapAt g g.pc (g.pc + BitVec.ofNat 64 (8 * h.len)) none [] t h.e := by
  unfold State.trap State.trapIssued Group.at_
  simp [hr]

/-- Without a handler the trap ends the team (19 R332). -/
theorem State.trapAt_noHandler (s : State) (g : Group) (tpc next : W64) (resume : Option W64) (hops : List W64) (t : Trap)
    (e : Bool) (hm : g.tmask = false) (hh : ∀ l, s.launchOf g.id = some l → l.lrec.handler = 0) :
    s.trapAt g tpc next resume hops t e = s.endTeam g.id.ctx g.id.task (trapRecord 2 g.id t tpc hops) := by
  have hz : s.handlerOf g.id = 0 := by
    unfold State.handlerOf
    split
    · exact hh _ ‹_›
    · rfl
  unfold State.trapAt
  simp [hm, hz]

/-- A trap inside a handler ends the team (19 R332). -/
theorem State.trapAt_nested (s : State) (g : Group) (tpc next : W64) (resume : Option W64) (hops : List W64) (t : Trap)
    (e : Bool) (hm : g.tmask = true) :
    s.trapAt g tpc next resume hops t e = s.endTeam g.id.ctx g.id.task (trapRecord 3 g.id t tpc hops) := by
  unfold State.trapAt
  simp [hm]

/-- A transfer to a target that is not a signpost, or lacks the flag asked for, traps with BRT (07 R107). -/
theorem State.transfer_bad (s : State) (g : Group) (h : Hdr) (a : W64) (need : W64 → Bool) (done : Group → Group)
    (hb : s.target g.id a = .bad) : s.transfer g h a need done = s.trap g h { cause := .brt } := by
  unfold State.transfer
  rw [hb]

/-- A transfer that is taken arrives at its target. -/
theorem State.transfer_ok (s : State) (g : Group) (h : Hdr) (a w : W64) (need : W64 → Bool) (done : Group → Group)
    (hw : s.target g.id a = .ok w) (hn : need w = true) :
    s.transfer g h a need done = s.setGroup ((s.arrive { done g with ric := g.ric + 1 } a w).endLeg s.now) := by
  unfold State.transfer
  simp [hw, hn]

/-! The checks that memory and milestone instructions make before their effect. -/

theorem State.withMs_at {s : State} {g : Group} {r : W64} {l : Loc} (hm : s.msAt g r = some l) (h : Hdr)
    (k : State → Loc → Out) : s.withMs g h r k = k s l := by
  unfold State.msAt at hm
  unfold State.withMs
  cases hr : s.mref g.id.ctx g.site.cluster r with
  | trap c => simp [hr] at hm
  | miss ms => simp [hr] at hm
  | ok l' =>
    simp only [hr] at hm ⊢
    split at hm
    · cases hm
    · cases hm
      simp_all

theorem State.withRead_there {s : State} {l : Loc} {m : Ms} (hm : s.msThere l = some m) (g : Group) (h : Hdr)
    (k : State → Ms → Out) : s.withRead g h l k = k (s.askMs g l) m := by
  unfold State.msThere at hm
  unfold State.withRead
  split at hm
  · cases hm
  · rename_i hb
    simp [hb, hm]

theorem State.withChecked_ok {s : State} {g : Group} {h : Hdr} {sp : Space} {k : AKind} {align w : Nat}
    {addrs : List (Nat × W64)} {accs : List (Nat × W64 × ATgt)} (hc : s.checkLanes g h sp k align w addrs = .ok accs)
    (next : List (Nat × W64 × ATgt) → Out) : s.withChecked g h sp k align w addrs next = next accs := by
  unfold State.withChecked
  rw [hc]

/-- Bytes that lie on no E page need no room for a line. -/
theorem State.roomFor_plain (s : State) (ctx : Nat) (ps : List Piece) (hk : ∀ p ∈ ps, p.leaf.kind ≠ 3) :
    s.roomFor ctx ps = .ok s := by
  induction ps with
  | nil => rfl
  | cons p ps ih =>
    rw [List.forall_mem_cons] at hk
    simp [State.roomFor, State.emberRoom, hk.1, ih hk.2]

/-- A lane's access to NORMAL pages of another kind than E is made in the state as it is. -/
theorem State.place1_plain {s : State} {g : Group} {sp : Space} {k : AKind} {w : Nat} {va : W64} {ps : List Piece}
    (hr : s.resolve g sp k w va = .ok (.pub ps none)) (hk : ∀ p ∈ ps, p.leaf.kind ≠ 3) :
    s.place1 g sp k w va = .ok s (.pub ps none) := by
  simp [State.place1, State.placeRoom, hr, s.roomFor_plain g.id.ctx ps hk]

/-- So is one to a window of scratchpad. -/
theorem State.place1_scr {s : State} {g : Group} {sp : Space} {k : AKind} {w : Nat} {va : W64} {c off : Nat}
    (hr : s.resolve g sp k w va = .ok (.scr c off)) : s.place1 g sp k w va = .ok s (.scr c off) := by
  simp [State.place1, State.placeRoom, hr]

/-- And so is one to the aperture. -/
theorem State.place1_aperture {s : State} {g : Group} {sp : Space} {k : AKind} {w : Nat} {va : W64} {off : Nat}
    (hr : s.resolve g sp k w va = .ok (.aperture off)) : s.place1 g sp k w va = .ok s (.aperture off) := by
  simp [State.place1, State.placeRoom, hr]

/-- Accesses that are made trap on no lane's check and wait for none, and are what the lanes do in order. -/
theorem State.made_lanes {s s1 : State} {g : Group} {h : Hdr} {sp : Space} {k : AKind} {align w : Nat}
    {addrs : List (Nat × W64)} {act : LaneFn} {xs : List (ATgt × Nat × Nat)}
    (hm : s.made g h sp k align w addrs act = .ok xs s1) :
    (∀ t, s.checkLanes g h sp k align w addrs ≠ .trap t) ∧ s.checkLanes g h sp k align w addrs ≠ .wait ∧
      s.eachLane g h sp k w act addrs = .ok xs s1 := by
  unfold State.made at hm
  split at hm
  · cases hm
  · cases hm
  · exact ⟨‹_›, ‹_›, hm⟩

@[simp] theorem Made.out_ok (xs : List (ATgt × Nat × Nat)) (s0 s s1 : State) (g : Group) (h : Hdr)
    (next : List (Nat × Nat) → State → Out) :
    (Made.ok xs s1).out s0 s g h next = next (xs.map (·.2)) (s1.askLines g (xs.map (·.1))) := rfl

@[simp] theorem Made.trap?_ok (xs : List (ATgt × Nat × Nat)) (s1 : State) : (Made.ok xs s1).trap? = none := rfl

theorem State.withRelease_ok {s s1 : State} {g : Group} {scope : Scope} {pub : Bool} {early : State → Option Out}
    (hr : s.released g scope pub = some s1) (he : early s1 = none) (next : State → Out) :
    s.withRelease g scope next pub early = next s1 := by
  unfold State.released at hr
  unfold State.withRelease
  cases hw : pub && decide (2 ≤ scope.code)
  all_goals
    simp only [hw, Bool.false_eq_true, if_false, if_true, Bool.not_false, Bool.not_true, Bool.true_or, Bool.false_or,
      Bool.and_true, Bool.true_and, Bool.false_and] at hr ⊢
    split at hr
    · rename_i hp
      cases hr
      simp only [Bool.and_eq_true, List.isEmpty_nil, true_and] at hp
      simp [hp, he]
    · cases hr

/-- A release that has nothing to wait for ends as `early` says, where it says so. -/
theorem State.withRelease_early {s s1 : State} {g : Group} {scope : Scope} {pub : Bool} {early : State → Option Out} {out : Out}
    (hr : s.released g scope pub = some s1) (he : early s1 = some out) (next : State → Out) :
    s.withRelease g scope next pub early = out := by
  unfold State.released at hr
  unfold State.withRelease
  cases hw : pub && decide (2 ≤ scope.code)
  all_goals
    simp only [hw, Bool.false_eq_true, if_false, if_true, Bool.not_false, Bool.not_true, Bool.true_or, Bool.false_or,
      Bool.and_true, Bool.true_and, Bool.false_and] at hr ⊢
    split at hr
    · rename_i hp
      cases hr
      simp only [Bool.and_eq_true, List.isEmpty_nil, true_and] at hp
      simp [hp, he]
    · cases hr

theorem State.withBinding_at {s : State} {g : Group} {h : Hdr} {o : Opd} {c : Ctx} {p : Place5} {k : Nat} {b : Binding}
    (hs : s.slotAt g h o = some (c, p, k, b)) (f : Ctx → Place5 → Nat → Binding → Out) :
    s.withBinding g h o f = f c p k b := by
  unfold State.slotAt at hs
  unfold State.withBinding State.withSlot
  split at hs
  · cases hs
  · rename_i hk
    simp only [hk]
    cases hc : s.ctx? g.id.ctx with
    | none => simp [hc] at hs
    | some c' =>
      simp only [hc] at hs
      cases hb : c'.binding? (rd32 g h o) with
      | none => simp [hb] at hs
      | some b' =>
        simp only [hb, Option.some.injEq, Prod.mk.injEq] at hs
        obtain ⟨rfl, rfl, rfl, rfl⟩ := hs
        simp [hb]

theorem State.withAllowance_ok {s : State} {g : Group} {c : Ctx} (hc : s.ctx? g.id.ctx = some c)
    (hp : s.portFenced g.site.cluster = false) {k cost : Nat} (ha : cost ≤ c.allowance k) (h : Hdr) (next : State → Out) :
    s.withAllowance g h k cost next = next (s.charge g c k cost) := by
  unfold State.withAllowance State.charge
  simp [hc, hp, Nat.not_lt.mpr ha]

theorem State.withWindow_at {s s1 : State} {g : Group} {h : Hdr} {w : Opd} {c : Ctx} {d : Remap}
    (hw : s.windowAt g h w = some (s1, c, d)) {out : Group → Hdr → Remap → Bool} (ho : out g h d = false)
    (f : State → Ctx → Remap → Out) : s.withWindow g h w out f = f s1 c d := by
  unfold State.windowAt at hw
  unfold State.withWindow
  cases hc : s.ctx? g.id.ctx with
  | none => simp [hc] at hw
  | some c' =>
    simp only [hc] at hw ⊢
    cases hr : s.rangeOf c' (rd64 g h w).toNat with
    | none => simp [hr] at hw
    | some r =>
      simp only [hr] at hw ⊢
      split at hw
      · cases hw
      · rename_i hk
        simp only [hk]
        cases hrel : s.released g .dev with
        | none => simp [hrel] at hw
        | some s2 =>
          simp only [hrel] at hw
          cases hm : s2.remap c' g.site.cluster r with
          | ok d' =>
            simp only [hm, Option.some.injEq, Prod.mk.injEq] at hw
            obtain ⟨rfl, rfl, rfl⟩ := hw
            simp only [if_false]
            rw [State.withRelease_ok hrel (by simp [hm, ho])]
            simp [hm]
          | malformed => simp [hm] at hw
          | miss ms => simp [hm] at hw
          | wait => simp [hm] at hw

end Sys2Proof.Machine
end

