-- ==== Sys2Proof/Laws/Issue.lean ====
section
/-! SUPPORT. Every instruction word begins in the one frame of issue: its guard and its checks come before its effect
(05 R82, R94), and what follows from that for all of them. -/

namespace Sys2Proof.Machine

/-- Executing an instruction word is the frame of issue around an effect of its own. -/
theorem exec_issues (i : Instr) (s : State) (hi : i.shape ≠ none) : ∃ k, exec i s = s.issue i k := by
  cases i
  case nop => rw [exec_nop]; unfold execNop; unfold State.compute; exact ⟨_, rfl⟩
  case bra => rw [exec_bra]; unfold execBra; exact ⟨_, rfl⟩
  case brg => rw [exec_brg]; unfold execBrg; unfold State.goto; exact ⟨_, rfl⟩
  case jmp => rw [exec_jmp]; unfold execJmp; unfold State.goto; exact ⟨_, rfl⟩
  case call => rw [exec_call]; unfold execCall; unfold State.goto; exact ⟨_, rfl⟩
  case ret => rw [exec_ret]; unfold execRet; unfold State.goto; exact ⟨_, rfl⟩
  case loop => rw [exec_loop]; unfold execLoop; exact ⟨_, rfl⟩
  case exit => rw [exec_exit]; unfold execExit; exact ⟨_, rfl⟩
  case exitG => rw [exec_exitG]; unfold execExitG; exact ⟨_, rfl⟩
  case halt => rw [exec_halt]; unfold execHalt; exact ⟨_, rfl⟩
  case bar => rw [exec_bar]; unfold execBar; exact ⟨_, rfl⟩
  case yield => rw [exec_yield]; unfold execYield; exact ⟨_, rfl⟩
  case waitAny => rw [exec_waitAny]; unfold execWaitAny; unfold State.tagWait; exact ⟨_, rfl⟩
  case waitAll => rw [exec_waitAll]; unfold execWaitAll; unfold State.tagWait; exact ⟨_, rfl⟩
  case waitMs => rw [exec_waitMs]; unfold execWaitMs; exact ⟨_, rfl⟩
  case ffr => rw [exec_ffr]; unfold execFfr; exact ⟨_, rfl⟩
  case trapSys => rw [exec_trapSys]; unfold execTrapSys; unfold State.software; exact ⟨_, rfl⟩
  case trapBrk => rw [exec_trapBrk]; unfold execTrapBrk; unfold State.software; exact ⟨_, rfl⟩
  case trapretSame => rw [exec_trapretSame]; unfold execTrapretSame; unfold State.leaveHandler; exact ⟨_, rfl⟩
  case trapretNext => rw [exec_trapretNext]; unfold execTrapretNext; unfold State.leaveHandler; exact ⟨_, rfl⟩
  case abort => rw [exec_abort]; unfold execAbort; exact ⟨_, rfl⟩
  case bsa => rw [exec_bsa]; unfold execBsa; exact ⟨_, rfl⟩
  case iadd => rw [exec_iadd]; unfold execIadd; unfold State.intOp State.perLane State.compute; exact ⟨_, rfl⟩
  case isub => rw [exec_isub]; unfold execIsub; unfold State.intOp State.perLane State.compute; exact ⟨_, rfl⟩
  case imul h m ty d a b =>
    rw [exec_imul]
    cases m <;> (simp only [execImul, State.intOp, State.perLane, State.compute]; exact ⟨_, rfl⟩)
  case imad => rw [exec_imad]; unfold execImad; unfold State.intOp State.perLane State.compute; exact ⟨_, rfl⟩
  case idiv => rw [exec_idiv]; unfold execIdiv; unfold State.intOp State.perLane State.compute; exact ⟨_, rfl⟩
  case imin => rw [exec_imin]; unfold execImin; unfold State.intOp State.perLane State.compute; exact ⟨_, rfl⟩
  case imax => rw [exec_imax]; unfold execImax; unfold State.intOp State.perLane State.compute; exact ⟨_, rfl⟩
  case iabs => rw [exec_iabs]; unfold execIabs; unfold State.intOp State.perLane State.compute; exact ⟨_, rfl⟩
  case ineg => rw [exec_ineg]; unfold execIneg; unfold State.intOp State.perLane State.compute; exact ⟨_, rfl⟩
  case and => rw [exec_and]; unfold execAnd; unfold State.bitOp State.perLane State.compute; exact ⟨_, rfl⟩
  case or => rw [exec_or]; unfold execOr; unfold State.bitOp State.perLane State.compute; exact ⟨_, rfl⟩
  case xor => rw [exec_xor]; unfold execXor; unfold State.bitOp State.perLane State.compute; exact ⟨_, rfl⟩
  case andn => rw [exec_andn]; unfold execAndn; unfold State.bitOp State.perLane State.compute; exact ⟨_, rfl⟩
  case orn => rw [exec_orn]; unfold execOrn; unfold State.bitOp State.perLane State.compute; exact ⟨_, rfl⟩
  case not => rw [exec_not]; unfold execNot; unfold State.bitOp State.perLane State.compute; exact ⟨_, rfl⟩
  case shl => rw [exec_shl]; unfold execShl; unfold State.bitOp State.perLane State.compute; exact ⟨_, rfl⟩
  case shr => rw [exec_shr]; unfold execShr; unfold State.bitOp State.perLane State.compute; exact ⟨_, rfl⟩
  case sar => rw [exec_sar]; unfold execSar; unfold State.bitOp State.perLane State.compute; exact ⟨_, rfl⟩
  case rol => rw [exec_rol]; unfold execRol; unfold State.bitOp State.perLane State.compute; exact ⟨_, rfl⟩
  case popc => rw [exec_popc]; unfold execPopc; unfold State.perLane State.compute; exact ⟨_, rfl⟩
  case clz => rw [exec_clz]; unfold execClz; unfold State.perLane State.compute; exact ⟨_, rfl⟩
  case ctz => rw [exec_ctz]; unfold execCtz; unfold State.perLane State.compute; exact ⟨_, rfl⟩
  case brev => rw [exec_brev]; unfold execBrev; unfold State.bitOp State.perLane State.compute; exact ⟨_, rfl⟩
  case bfx => rw [exec_bfx]; unfold execBfx; unfold State.bitOp State.perLane State.compute; exact ⟨_, rfl⟩
  case bfi => rw [exec_bfi]; unfold execBfi; unfold State.bitOp State.perLane State.compute; exact ⟨_, rfl⟩
  case sel => rw [exec_sel]; unfold execSel; unfold State.bitOp State.perLane State.compute; exact ⟨_, rfl⟩
  case icmp => rw [exec_icmp]; unfold execIcmp; unfold State.perLane State.compute; exact ⟨_, rfl⟩
  case lea => rw [exec_lea]; unfold execLea; unfold State.perLane State.compute; exact ⟨_, rfl⟩
  case mov => rw [exec_mov]; unfold execMov; unfold State.bitOp State.perLane State.compute; exact ⟨_, rfl⟩
  case movl => rw [exec_movl]; unfold execMovl; unfold State.intOp State.perLane State.compute; exact ⟨_, rfl⟩
  case cvt => rw [exec_cvt]; unfold execCvt; unfold State.intOp State.perLane State.compute; exact ⟨_, rfl⟩
  case pack => rw [exec_pack]; unfold execPack; unfold State.perLane State.compute; exact ⟨_, rfl⟩
  case unpk => rw [exec_unpk]; unfold execUnpk; unfold State.perLane State.compute; exact ⟨_, rfl⟩
  case idot4 => rw [exec_idot4]; unfold execIdot4; unfold State.perLane State.compute; exact ⟨_, rfl⟩
  case movsRead => rw [exec_movsRead]; unfold execMovsRead; unfold State.perLane State.compute; exact ⟨_, rfl⟩
  case movsWrite => rw [exec_movsWrite]; unfold execMovsWrite; unfold State.compute; exact ⟨_, rfl⟩
  case tagclrWrite => rw [exec_tagclrWrite]; unfold execTagclrWrite; exact ⟨_, rfl⟩
  case pand => rw [exec_pand]; unfold execPand; unfold State.predOp State.perLane State.compute; exact ⟨_, rfl⟩
  case por => rw [exec_por]; unfold execPor; unfold State.predOp State.perLane State.compute; exact ⟨_, rfl⟩
  case pxor => rw [exec_pxor]; unfold execPxor; unfold State.predOp State.perLane State.compute; exact ⟨_, rfl⟩
  case pnot => rw [exec_pnot]; unfold execPnot; unfold State.predOp State.perLane State.compute; exact ⟨_, rfl⟩
  case pmov => rw [exec_pmov]; unfold execPmov; unfold State.compute; exact ⟨_, rfl⟩
  case vote => rw [exec_vote]; unfold execVote; unfold State.compute; exact ⟨_, rfl⟩
  case shfl => rw [exec_shfl]; unfold execShfl; unfold State.perLane State.compute; exact ⟨_, rfl⟩
  case permb => rw [exec_permb]; unfold execPermb; unfold State.perLane State.compute; exact ⟨_, rfl⟩
  case lscan => rw [exec_lscan]; unfold execLscan; unfold State.perLane State.compute; exact ⟨_, rfl⟩
  case lred => rw [exec_lred]; unfold execLred; unfold State.perLane State.compute; exact ⟨_, rfl⟩
  case lanexGet => rw [exec_lanexGet]; unfold execLanexGet; unfold State.perLane State.compute; exact ⟨_, rfl⟩
  case lanexPut => rw [exec_lanexPut]; unfold execLanexPut; unfold State.compute; exact ⟨_, rfl⟩
  case fadd => rw [exec_fadd]; unfold execFadd; unfold State.fltOp State.perLane State.compute; exact ⟨_, rfl⟩
  case fsub => rw [exec_fsub]; unfold execFsub; unfold State.fltOp State.perLane State.compute; exact ⟨_, rfl⟩
  case fmul => rw [exec_fmul]; unfold execFmul; unfold State.fltOp State.perLane State.compute; exact ⟨_, rfl⟩
  case ffma => rw [exec_ffma]; unfold execFfma; unfold State.fltOp State.perLane State.compute; exact ⟨_, rfl⟩
  case fmin => rw [exec_fmin]; unfold execFmin; unfold State.fltOp State.perLane State.compute; exact ⟨_, rfl⟩
  case fmax => rw [exec_fmax]; unfold execFmax; unfold State.fltOp State.perLane State.compute; exact ⟨_, rfl⟩
  case fcmp => rw [exec_fcmp]; unfold execFcmp; unfold State.perLane State.compute; exact ⟨_, rfl⟩
  case fclass => rw [exec_fclass]; unfold execFclass; unfold State.perLane State.compute; exact ⟨_, rfl⟩
  case frnd => rw [exec_frnd]; unfold execFrnd; unfold State.fltOp State.perLane State.compute; exact ⟨_, rfl⟩
  case fcvt => rw [exec_fcvt]; unfold execFcvt; unfold State.perLane State.compute; exact ⟨_, rfl⟩
  case func => rw [exec_func]; unfold execFunc; exact ⟨_, rfl⟩
  case hfma2 => rw [exec_hfma2]; unfold execHfma2; unfold State.perLane State.compute; exact ⟨_, rfl⟩
  case fdot4 => rw [exec_fdot4]; unfold execFdot4; unfold State.perLane State.compute; exact ⟨_, rfl⟩
  case fabs => rw [exec_fabs]; unfold execFabs; unfold State.fltOp State.perLane State.compute; exact ⟨_, rfl⟩
  case fneg => rw [exec_fneg]; unfold execFneg; unfold State.fltOp State.perLane State.compute; exact ⟨_, rfl⟩
  case fcopysign => rw [exec_fcopysign]; unfold execFcopysign; unfold State.fltOp State.perLane State.compute; exact ⟨_, rfl⟩
  case ld => rw [exec_ld]; unfold execLd; exact ⟨_, rfl⟩
  case st => rw [exec_st]; unfold execSt; exact ⟨_, rfl⟩
  case atom => rw [exec_atom]; unfold execAtom; exact ⟨_, rfl⟩
  case atomo => rw [exec_atomo]; unfold execAtomo; exact ⟨_, rfl⟩
  case fence => rw [exec_fence]; unfold execFence; exact ⟨_, rfl⟩
  case pref => rw [exec_pref]; unfold execPref; exact ⟨_, rfl⟩
  case cmaintInv => rw [exec_cmaintInv]; unfold execCmaintInv; exact ⟨_, rfl⟩
  case cmaintInvall => rw [exec_cmaintInvall]; unfold execCmaintInvall; exact ⟨_, rfl⟩
  case tier => rw [exec_tier]; unfold execTier; exact ⟨_, rfl⟩
  case ersv => rw [exec_ersv]; unfold execErsv; exact ⟨_, rfl⟩
  case erel => rw [exec_erel]; unfold execErel; exact ⟨_, rfl⟩
  case edisc => rw [exec_edisc]; unfold execEdisc; exact ⟨_, rfl⟩
  case emig => rw [exec_emig]; unfold execEmig; exact ⟨_, rfl⟩
  case rmset => rw [exec_rmset]; unfold execRmset; unfold State.rowEntry; exact ⟨_, rfl⟩
  case rmsetGet => rw [exec_rmsetGet]; unfold execRmsetGet; unfold State.rowEntry; exact ⟨_, rfl⟩
  case rmrefInc => rw [exec_rmrefInc]; unfold execRmrefInc; unfold State.refCount; exact ⟨_, rfl⟩
  case rmrefDec => rw [exec_rmrefDec]; unfold execRmrefDec; unfold State.refCount; exact ⟨_, rfl⟩
  case rmrefGet => rw [exec_rmrefGet]; unfold execRmrefGet; unfold State.refCount; exact ⟨_, rfl⟩
  case rmrefSet => rw [exec_rmrefSet]; unfold execRmrefSet; unfold State.refCount; exact ⟨_, rfl⟩
  case msinit => rw [exec_msinit]; unfold execMsinit; exact ⟨_, rfl⟩
  case msarrArr => rw [exec_msarrArr]; unfold execMsarrArr; exact ⟨_, rfl⟩
  case msarrExp => rw [exec_msarrExp]; unfold execMsarrExp; exact ⟨_, rfl⟩
  case msbind => rw [exec_msbind]; unfold execMsbind; exact ⟨_, rfl⟩
  case msbindUnbind => rw [exec_msbindUnbind]; unfold execMsbindUnbind; exact ⟨_, rfl⟩
  case msqry => rw [exec_msqry]; unfold execMsqry; exact ⟨_, rfl⟩
  case trig => rw [exec_trig]; unfold execTrig; exact ⟨_, rfl⟩
  case tdef => rw [exec_tdef]; unfold execTdef; exact ⟨_, rfl⟩
  case tdefClr => rw [exec_tdefClr]; unfold execTdefClr; exact ⟨_, rfl⟩
  case fres => rw [exec_fres]; unfold execFres; exact ⟨_, rfl⟩
  case freg => rw [exec_freg]; unfold execFreg; exact ⟨_, rfl⟩
  case rst => rw [exec_rst]; unfold execRst; exact ⟨_, rfl⟩
  case rred => rw [exec_rred]; unfold execRred; exact ⟨_, rfl⟩
  case ratom => rw [exec_ratom]; unfold execRatom; unfold State.remoteRead; exact ⟨_, rfl⟩
  case rld => rw [exec_rld]; unfold execRld; unfold State.remoteRead; exact ⟨_, rfl⟩
  case rcopy => rw [exec_rcopy]; unfold execRcopy; exact ⟨_, rfl⟩
  case sabind => rw [exec_sabind]; unfold execSabind; exact ⟨_, rfl⟩
  case sabindDst => rw [exec_sabindDst]; unfold execSabindDst; exact ⟨_, rfl⟩
  case sabindClr => rw [exec_sabindClr]; unfold execSabindClr; exact ⟨_, rfl⟩
  case pcnt => rw [exec_pcnt]; unfold execPcnt; exact ⟨_, rfl⟩
  case qld => rw [exec_qld]; unfold execQld; exact ⟨_, rfl⟩
  case qset => rw [exec_qset]; unfold execQset; exact ⟨_, rfl⟩
  case qrs => rw [exec_qrs]; unfold execQrs; exact ⟨_, rfl⟩
  case mma => rw [exec_mma]; unfold execMma; unfold State.mma; exact ⟨_, rfl⟩
  case mmaNew => rw [exec_mmaNew]; unfold execMmaNew; unfold State.mma; exact ⟨_, rfl⟩
  case mmas => rw [exec_mmas]; unfold execMmas; unfold State.mma; exact ⟨_, rfl⟩
  case mmasNew => rw [exec_mmasNew]; unfold execMmasNew; unfold State.mma; exact ⟨_, rfl⟩
  case accrel => rw [exec_accrel]; unfold execAccrel; exact ⟨_, rfl⟩
  case accdr => rw [exec_accdr]; unfold execAccdr; exact ⟨_, rfl⟩
  case cmpsVal => rw [exec_cmpsVal]; unfold execCmpsVal; unfold State.perLane State.compute; exact ⟨_, rfl⟩
  case cmpsMeta => rw [exec_cmpsMeta]; unfold execCmpsMeta; unfold State.perLane State.compute; exact ⟨_, rfl⟩
  case cbdec => rw [exec_cbdec]; unfold execCbdec; unfold State.perLane State.compute; exact ⟨_, rfl⟩
  case strmCnt => rw [exec_strmCnt]; unfold execStrmCnt; exact ⟨_, rfl⟩
  case strmDrop => rw [exec_strmDrop]; unfold execStrmDrop; exact ⟨_, rfl⟩
  case cbld => rw [exec_cbld]; unfold execCbld; exact ⟨_, rfl⟩
  case launch => rw [exec_launch]; unfold execLaunch; exact ⟨_, rfl⟩
  case rgrow => rw [exec_rgrow]; unfold execRgrow; exact ⟨_, rfl⟩
  case rshrk => rw [exec_rshrk]; unfold execRshrk; exact ⟨_, rfl⟩
  case probe => rw [exec_probe]; unfold execProbe; exact ⟨_, rfl⟩
  all_goals exact absurd rfl hi

end Sys2Proof.Machine
end

