-- ==== Sys2Proof/Laws/Lines.lean ====
section
/-! SUPPORT. What asking for lines can change, said once: the request counters, the migrations that they begin, and what the
L1s hold. -/

namespace Sys2Proof.Machine

/-- Nothing but the counters, the migrations and the L1 lines differs. -/
def State.Asks (s t : State) : Prop :=
  ∃ counters migrations l1, t = { s with counters, migrations, l1 }

theorem State.Asks.refl (s : State) : s.Asks s := ⟨s.counters, s.migrations, s.l1, rfl⟩

theorem State.Asks.trans {s t u : State} (h1 : s.Asks t) (h2 : t.Asks u) : s.Asks u := by
  obtain ⟨_, _, _, rfl⟩ := h1
  obtain ⟨a, b, c, rfl⟩ := h2
  exact ⟨a, b, c, rfl⟩

theorem State.Asks.foldl {α : Type} {f : State → α → State} (hf : ∀ (s : State) (x : α), s.Asks (f s x)) :
    ∀ (xs : List α) (s : State), s.Asks (xs.foldl f s)
  | [], s => .refl s
  | x :: xs, s => (hf s x).trans (State.Asks.foldl hf xs (f s x))

theorem State.Asks.groups {s t : State} (h : s.Asks t) : t.groups = s.groups := by
  obtain ⟨_, _, _, rfl⟩ := h; rfl

theorem State.Asks.units {s t : State} (h : s.Asks t) : t.units = s.units := by
  obtain ⟨_, _, _, rfl⟩ := h; rfl

theorem State.Asks.teams {s t : State} (h : s.Asks t) : t.teams = s.teams := by
  obtain ⟨_, _, _, rfl⟩ := h; rfl

theorem State.Asks.ctxs {s t : State} (h : s.Asks t) : t.ctxs = s.ctxs := by
  obtain ⟨_, _, _, rfl⟩ := h; rfl

theorem State.Asks.mem {s t : State} (h : s.Asks t) : t.mem = s.mem := by
  obtain ⟨_, _, _, rfl⟩ := h; rfl

theorem State.Asks.scratch {s t : State} (h : s.Asks t) : t.scratch = s.scratch := by
  obtain ⟨_, _, _, rfl⟩ := h; rfl

theorem State.Asks.hostMem {s t : State} (h : s.Asks t) : t.hostMem = s.hostMem := by
  obtain ⟨_, _, _, rfl⟩ := h; rfl

theorem State.Asks.munit {s t : State} (h : s.Asks t) (u : Nat) : t.munit u = s.munit u := by
  obtain ⟨_, _, _, rfl⟩ := h; rfl

theorem State.Asks.parkedBy {s t : State} (h : s.Asks t) (p : Park → Bool) : t.parkedBy p = s.parkedBy p := by
  obtain ⟨_, _, _, rfl⟩ := h; rfl

theorem State.request_asks (s : State) (c : Ctx) (cluster ia : Nat) (l : Leaf) : s.Asks (s.request c cluster ia l) := by
  unfold State.request
  split
  · exact .refl s
  · dsimp only
    split <;> exact ⟨_, _, s.l1, rfl⟩

theorem State.l1Put_asks (s : State) (core : Nat) (l : L1Line) : s.Asks (s.l1Put core l) :=
  ⟨s.counters, s.migrations, _, rfl⟩

theorem State.evictL1_asks (s : State) : s.Asks s.evictL1 := ⟨s.counters, s.migrations, _, rfl⟩

theorem State.touchLine_asks (s : State) (c : Ctx) (site : Site) (lf : Leaf) (line : Nat) :
    s.Asks (s.touchLine c site lf line) := by
  unfold State.touchLine
  split
  · exact s.request_asks ..
  · split
    · exact s.request_asks ..
    · split
      · exact .refl s
      · exact (s.request_asks ..).trans (State.l1Put_asks ..)

theorem State.noteLines_asks (s : State) (id : GroupId) (code : Bool) (reads : List (W64 × Nat)) :
    s.Asks (s.noteLines id code reads) := by
  unfold State.noteLines
  split
  · exact .refl s
  · exact State.Asks.foldl (fun s _ => s.touchLine_asks ..) _ s

theorem State.askMs_asks (s : State) (g : Group) (l : Loc) : s.Asks (s.askMs g l) := by
  unfold State.askMs
  split
  · exact .refl s
  · exact State.Asks.foldl (fun s _ => s.request_asks ..) _ s

theorem State.noteSpan_asks (s : State) (id : GroupId) (va : W64) (w k : Nat) : s.Asks (s.noteSpan id va w k) :=
  s.noteLines_asks ..

theorem State.noteRef_asks (s : State) (g : Group) (a : W64) (n : Nat) : s.Asks (s.noteRef g a n) := by
  unfold State.noteRef
  split
  · exact .refl s
  · exact s.noteSpan_asks ..

theorem State.noteScales_asks (s : State) (g : Group) (f : FmtBlock) (b : List Byte) (klog : Nat) :
    s.Asks (s.noteScales g f b klog) := by
  unfold State.noteScales
  have one (s : State) (bl off lines : Nat) :
      s.Asks (if bl = 0 then s else s.noteRef g (word64 b off) (lines * (klog / 2 ^ bl))) := by
    split
    · exact .refl s
    · exact s.noteRef_asks ..
  exact (one ..).trans (one ..)

theorem State.noteFetch_asks (s : State) (id : GroupId) (as : List W64) : s.Asks (s.noteFetch id as) :=
  s.noteLines_asks ..

theorem State.touchLines_asks (s : State) (g : Group) (ts : List ATgt) : s.Asks (s.touchLines g ts) := by
  unfold State.touchLines
  split
  · exact .refl s
  · exact State.Asks.foldl (fun s _ => s.touchLine_asks ..) _ s

theorem State.askLines_asks (s : State) (g : Group) (ts : List ATgt) : s.Asks (s.askLines g ts) := by
  unfold State.askLines
  split
  · exact .refl s
  · exact State.Asks.foldl (fun s _ => s.request_asks ..) _ s

end Sys2Proof.Machine
end

