-- ==== Sys2Proof/Laws/Memory.lean ====
section
/-! SUPPORT. The laws of byte lists: every operation keeps the canonical form, a read after a write gives what was
written, and every other address reads as before. -/

namespace Sys2Proof.Machine

theorem cellsAbove_mono {m : List Host.Cell} {a b : Nat} (hab : a ≤ b) (h : cellsAbove (some b) m = true) :
    cellsAbove (some a) m = true := by
  cases m with
  | nil => rfl
  | cons c t =>
    obtain ⟨k, x⟩ := c
    simp only [cellsAbove, Bool.and_eq_true, decide_eq_true_eq] at *
    exact ⟨by omega, h.2⟩

theorem cellsAbove_none {m : List Host.Cell} {a : Nat} (h : cellsAbove (some a) m = true) : cellsAbove none m = true := by
  cases m with
  | nil => rfl
  | cons c t => obtain ⟨k, x⟩ := c; simp_all [cellsAbove]

/-- Below a list's first address there is nothing. -/
theorem cellGet_below {m : List Host.Cell} {lo a : Nat} (h : cellsAbove (some lo) m = true) (ha : a ≤ lo) :
    cellGet m a = blank := by
  induction m generalizing lo with
  | nil => rfl
  | cons c t ih =>
    obtain ⟨k, x⟩ := c
    simp only [cellsAbove, Bool.and_eq_true, decide_eq_true_eq] at h
    have : k ≠ a := by omega
    simp only [cellGet, this, if_false]
    exact ih h.2 (by omega)

/-! Removing an entry. -/

theorem cellDel_above {m : List Host.Cell} {lo : Option Nat} (a : Nat) (h : cellsAbove lo m = true) :
    cellsAbove lo (cellDel m a) = true := by
  induction m generalizing lo with
  | nil => rfl
  | cons c t ih =>
    obtain ⟨k, x⟩ := c
    have ht : cellsAbove (some k) t = true := by
      simp only [cellsAbove, Bool.and_eq_true] at h; exact h.2
    simp only [cellDel]
    split
    · cases lo with
      | none => exact cellsAbove_none ht
      | some n =>
        simp only [cellsAbove, Bool.and_eq_true, decide_eq_true_eq] at h
        exact cellsAbove_mono (by omega) ht
    · split
      · exact h
      · simp only [cellsAbove, Bool.and_eq_true] at h ⊢
        exact ⟨h.1, ih ht⟩

theorem cellDel_all {m : List Host.Cell} {p : Host.Cell → Bool} (a : Nat) (h : m.all p = true) :
    (cellDel m a).all p = true := by
  induction m with
  | nil => rfl
  | cons c t ih =>
    obtain ⟨k, x⟩ := c
    simp only [List.all_cons, Bool.and_eq_true] at h
    simp only [cellDel]
    split
    · exact h.2
    · split <;> simp only [List.all_cons, Bool.and_eq_true]
      · exact h
      · exact ⟨h.1, ih h.2⟩

theorem cellGet_del {m : List Host.Cell} {lo : Option Nat} (a b : Nat) (h : cellsAbove lo m = true) :
    cellGet (cellDel m a) b = if b = a then blank else cellGet m b := by
  induction m generalizing lo with
  | nil => simp [cellDel, cellGet]
  | cons c t ih =>
    obtain ⟨k, x⟩ := c
    have ht : cellsAbove (some k) t = true := by
      simp only [cellsAbove, Bool.and_eq_true] at h; exact h.2
    simp only [cellDel]
    by_cases hka : k = a
    · subst hka
      simp only [if_true, cellGet]
      by_cases hb : b = k
      · subst hb; simp [cellGet_below ht (Nat.le_refl _)]
      · have : k ≠ b := fun e => hb e.symm
        simp [hb, this]
    · simp only [hka, if_false]
      by_cases hlt : a < k
      · simp only [hlt, if_true]
        by_cases hb : b = a
        · subst hb
          simp only [cellGet, hka, if_false, if_true]
          exact cellGet_below ht (by omega)
        · simp [hb]
      · simp only [hlt, if_false, cellGet, ih ht]
        by_cases hkb : k = b
        · subst hkb; simp [hka]
        · simp [hkb]

/-! Putting an entry. -/

theorem cellSet_above {m : List Host.Cell} {lo : Option Nat} (a : Nat) (x : Byte) (h : cellsAbove lo m = true)
    (ha : ∀ n, lo = some n → n < a) : cellsAbove lo (cellSet m a x) = true := by
  induction m generalizing lo with
  | nil => cases lo <;> simp_all [cellSet, cellsAbove]
  | cons c t ih =>
    obtain ⟨k, y⟩ := c
    simp only [cellSet]
    by_cases hka : k = a
    · subst hka; simpa [cellsAbove] using h
    · simp only [hka, if_false]
      by_cases hlt : a < k
      · simp only [hlt, if_true]
        cases lo with
        | none => simp_all [cellsAbove]
        | some n => simp_all [cellsAbove]
      · simp only [hlt, if_false]
        simp only [cellsAbove, Bool.and_eq_true] at h ⊢
        exact ⟨h.1, ih h.2 (by intro n hn; cases hn; omega)⟩

theorem cellSet_all {m : List Host.Cell} {p : Host.Cell → Bool} (a : Nat) (x : Byte) (h : m.all p = true)
    (hx : p (a, x) = true) : (cellSet m a x).all p = true := by
  induction m with
  | nil => simp [cellSet, hx]
  | cons c t ih =>
    obtain ⟨k, y⟩ := c
    simp only [List.all_cons, Bool.and_eq_true] at h
    simp only [cellSet]
    split
    · simp [hx, h.2]
    · split
      · simp [hx, h.1, h.2]
      · simp [h.1, ih h.2]

theorem cellGet_set {m : List Host.Cell} (a b : Nat) (x : Byte) :
    cellGet (cellSet m a x) b = if b = a then x else cellGet m b := by
  induction m with
  | nil =>
    by_cases hb : b = a
    · simp [cellSet, cellGet, hb]
    · have : a ≠ b := fun e => hb e.symm
      simp [cellSet, cellGet, hb, this]
  | cons c t ih =>
    obtain ⟨k, y⟩ := c
    simp only [cellSet]
    by_cases hka : k = a
    · subst hka
      by_cases hb : b = k
      · simp [cellGet, hb]
      · have : k ≠ b := fun e => hb e.symm
        simp [cellGet, hb, this]
    · simp only [hka, if_false]
      by_cases hlt : a < k
      · by_cases hb : b = a
        · simp [hlt, cellGet, hb]
        · have : a ≠ b := fun e => hb e.symm
          simp [hlt, cellGet, hb, this]
      · simp only [hlt, if_false, cellGet, ih]
        by_cases hkb : k = b
        · subst hkb; simp [hka]
        · simp [hkb]

/-! The byte write and the read of one byte. -/

theorem Memory.wf_nil : Memory.wf [] = true := rfl

theorem cellPut_wf {m : List Host.Cell} (a : Nat) (x : Byte) (h : Memory.wf m = true) : Memory.wf (cellPut m a x) = true := by
  simp only [Memory.wf, Bool.and_eq_true] at h ⊢
  unfold cellPut
  split
  · exact ⟨cellDel_above a h.1, cellDel_all a h.2⟩
  · rename_i hx
    exact ⟨cellSet_above a x h.1 (by intro n hn; cases hn), cellSet_all a x h.2 (by simpa using hx)⟩

theorem cellGet_put {m : List Host.Cell} (a b : Nat) (x : Byte) (h : Memory.wf m = true) :
    cellGet (cellPut m a x) b = if b = a then x else cellGet m b := by
  simp only [Memory.wf, Bool.and_eq_true] at h
  unfold cellPut
  split
  · rename_i hx; rw [cellGet_del a b h.1, hx]
  · exact cellGet_set a b x

/-! Writes and reads of several bytes. -/

/-- Every write keeps the canonical form. -/
theorem cellWrite_wf {m : List Host.Cell} (a : Nat) (bs : List Byte) (h : Memory.wf m = true) :
    Memory.wf (cellWrite m a bs) = true := by
  induction bs generalizing m a with
  | nil => exact h
  | cons b bs ih => exact ih (a + 1) (cellPut_wf a b h)

/-- After a write, an address reads what was written there, and every other address reads as before. -/
theorem cellGet_write {m : List Host.Cell} (a b : Nat) (bs : List Byte) (h : Memory.wf m = true) :
    cellGet (cellWrite m a bs) b = if a ≤ b ∧ b < a + bs.length then bs.getD (b - a) 0 else cellGet m b := by
  induction bs generalizing m a with
  | nil =>
    simp only [cellWrite, List.length_nil]; rw [if_neg (by omega)]
  | cons x xs ih =>
    simp only [cellWrite, ih (a + 1) (cellPut_wf a x h), cellGet_put a b x h, List.length_cons]
    by_cases h1 : b = a
    · subst h1
      have n2 : b ≤ b ∧ b < b + (xs.length + 1) := by omega
      simp [n2]
    · by_cases h2 : a + 1 ≤ b ∧ b < a + 1 + xs.length
      · have n2 : a ≤ b ∧ b < a + (xs.length + 1) := by omega
        have n3 : b - a = (b - (a + 1)) + 1 := by omega
        simp only [h2, n2, and_self, if_true, n3, List.getD_cons_succ]
      · have n2 : ¬(a ≤ b ∧ b < a + (xs.length + 1)) := by omega
        rw [if_neg h2, if_neg h1, if_neg n2]

theorem cellRead_length (m : List Host.Cell) (a n : Nat) : (cellRead m a n).length = n := by
  induction n generalizing a with
  | zero => rfl
  | succ n ih => simp [cellRead, ih]

theorem cellRead_getD (m : List Host.Cell) (a n i : Nat) (hi : i < n) : (cellRead m a n).getD i 0 = cellGet m (a + i) := by
  induction n generalizing a i with
  | zero => omega
  | succ n ih =>
    cases i with
    | zero => simp [cellRead]
    | succ i =>
      simp only [cellRead, List.getD_cons_succ]
      rw [ih (a + 1) i (by omega)]; congr 1; omega

/-- A read after a write to the same place gives the bytes written. -/
theorem cellRead_write {m : List Host.Cell} (a : Nat) (bs : List Byte) (h : Memory.wf m = true) :
    cellRead (cellWrite m a bs) a bs.length = bs := by
  apply List.ext_getElem (by simp [cellRead_length])
  intro i h1 h2
  have hr := cellRead_getD (cellWrite m a bs) a bs.length i h2
  rw [cellGet_write a (a + i) bs h] at hr
  have hc : a ≤ a + i ∧ a + i < a + bs.length := by omega
  rw [if_pos hc, show a + i - a = i by omega] at hr
  simpa [List.getD_eq_getElem?_getD, List.getElem?_eq_getElem, h1, h2] using hr

/-- A read that meets none of the written addresses gives what it gave. -/
theorem cellRead_write_apart {m : List Host.Cell} (a b n : Nat) (bs : List Byte) (h : Memory.wf m = true)
    (hab : b + n ≤ a ∨ a + bs.length ≤ b) : cellRead (cellWrite m a bs) b n = cellRead m b n := by
  induction n generalizing b with
  | zero => rfl
  | succ n ih =>
    have hn : ¬(a ≤ b ∧ b < a + bs.length) := by omega
    simp only [cellRead]
    rw [cellGet_write a b bs h, if_neg hn, ih (b + 1) (by omega)]

/-! Physical memory and the scratchpads. -/

theorem State.writeMem_wf (s : State) (a : Nat) (bs : List Byte) (h : Memory.wf s.mem = true) :
    Memory.wf (s.writeMem a bs).mem = true := cellWrite_wf a bs h

/-- A write to published memory keeps the form, whatever the kind of its page. -/
theorem State.pubWrite_wf (s : State) (l : Leaf) (ctx ia : Nat) (bs : List Byte) (h : Memory.wf s.mem = true) :
    Memory.wf (s.pubWrite l ctx ia bs).mem = true := by
  unfold State.pubWrite
  dsimp only
  split
  · split <;> exact h
  · split <;> exact s.writeMem_wf _ _ h

/-- So does a write that its pieces cut. -/
theorem State.writePieces_wf (ctx : Nat) (ps : List Piece) :
    ∀ (s : State) (bs : List Byte), Memory.wf s.mem = true → Memory.wf (s.writePieces ctx ps bs).mem = true := by
  induction ps with
  | nil => exact fun _ _ h => h
  | cons p ps ih => exact fun s bs h => ih _ _ (s.pubWrite_wf _ _ _ _ h)

theorem State.iaWrite_wf (s : State) (c : Ctx) (ia : Nat) (bs : List Byte) (h : Memory.wf s.mem = true) :
    Memory.wf (s.iaWrite c ia bs).mem = true := by
  unfold State.iaWrite
  dsimp only
  split
  · exact State.writePieces_wf _ _ _ _ h
  · exact h

theorem State.writeScratch_wf (s : State) (cluster off : Nat) (bs : List Byte) (h : Memory.wf s.scratch = true) :
    Memory.wf (s.writeScratch cluster off bs).scratch = true := cellWrite_wf _ bs h

/-- The machine after reset has memories in canonical form. -/
theorem State.reset_wf : Memory.wf State.reset.mem = true ∧ Memory.wf State.reset.scratch = true ∧
    Memory.wf State.reset.hostMem = true := ⟨rfl, rfl, rfl⟩

end Sys2Proof.Machine
end

