-- ==== Sys2Proof/Laws/Operands.lean ====
section
/-! SUPPORT. Registers and destinations: what is written is read back, other registers stay, and a write to a destination
leaves every other part of the group as it was (05 R69, R70). -/

namespace Sys2Proof.Machine

/-! Extension to a register. -/

theorem extend_lt (signed : Bool) (w W x : Nat) : extend signed w W x < 2 ^ W := by
  have h : (0 : Int) < (2 ^ W : Nat) := by exact_mod_cast Nat.two_pow_pos W
  have h1 := Int.emod_nonneg (toInt signed w x) (ne_of_gt h)
  have h2 := Int.emod_lt_of_pos (toInt signed w x) h
  unfold extend wrapN
  omega

theorem extend_self64 (signed : Bool) (x : Nat) (h : x < 2 ^ 64) : extend signed 64 64 x = x := by
  simp only [extend, wrapN, toInt]
  split <;> omega

/-! One register. -/

theorem Group.putV_at (g : Group) (n L x : Nat) (res : Nat → Option Nat) (hL : L < 32) (hn : n < g.v.length)
    (hr : res L = some x) : (g.putV n res).vAt n L = x % 2 ^ 32 := by
  simp [Group.putV, Group.vAt, lane, rowPut, lanes32, hn, hL, hr, List.getD]

theorem Group.putV_kept (g : Group) (n L : Nat) (res : Nat → Option Nat) (hL : L < 32) (hn : n < g.v.length)
    (hr : res L = none) : (g.putV n res).vAt n L = g.vAt n L := by
  simp [Group.putV, Group.vAt, lane, rowPut, lanes32, hn, hL, hr, List.getD]

theorem Group.putV_apart (g : Group) (n m L : Nat) (res : Nat → Option Nat) (h : m ≠ n) :
    (g.putV n res).vAt m L = g.vAt m L := by
  simp [Group.putV, Group.vAt, List.getD, h.symm]

theorem Group.putV_length (g : Group) (n : Nat) (res : Nat → Option Nat) : (g.putV n res).v.length = g.v.length := by
  simp [Group.putV]

theorem Group.putO_at (g : Group) (n L x : Nat) (res : Nat → Option Nat) (hL : L < 32) (hn : n < g.o.length)
    (hr : res L = some x) : (g.putO n res).oAt n L = x % 2 ^ 32 := by
  have h : (lanes32.all fun L => (res L).isNone) = false := by
    rw [List.all_eq_false]
    exact ⟨L, by simpa [lanes32] using hL, by simp [hr]⟩
  rw [Group.putO, h]
  simp [Group.oAt, lane, rowPut, lanes32, hn, hL, hr, List.getD]

theorem Group.putO_apart (g : Group) (n m L : Nat) (res : Nat → Option Nat) (h : m ≠ n) :
    (g.putO n res).oAt m L = g.oAt m L := by
  unfold Group.putO
  split
  · rfl
  · simp [Group.oAt, List.getD, h.symm]

theorem Group.putO_kept (g : Group) (n L : Nat) (res : Nat → Option Nat) (hL : L < 32) (hn : n < g.o.length)
    (hr : res L = none) : (g.putO n res).oAt n L = g.oAt n L := by
  unfold Group.putO
  split
  · rfl
  · cases ho : g.o.getD n none with
    | none => simp [Group.oAt, lane, rowPut, lanes32, hn, hL, hr, List.getD] at ho ⊢; simp [ho]
    | some r => simp [Group.oAt, lane, rowPut, lanes32, hn, hL, hr, List.getD] at ho ⊢; simp [ho]

theorem Group.putO_length (g : Group) (n : Nat) (res : Nat → Option Nat) : (g.putO n res).o.length = g.o.length := by
  unfold Group.putO
  split <;> simp

theorem Group.putG_at (g : Group) (n : Nat) (x : W64) (h : n < g.g.length) : (g.putG n x).gAt n = x := by
  simp [Group.putG, Group.gAt, List.getD, h]

theorem Group.putG_apart (g : Group) (n m : Nat) (x : W64) (h : m ≠ n) : (g.putG n x).gAt m = g.gAt m := by
  simp [Group.putG, Group.gAt, List.getD, h.symm]

/-! A result for one lane is the last one. -/

theorem lastRes_only (res : Nat → Option Nat) (L x : Nat) (hL : L < 32) (hr : res L = some x)
    (h : ∀ K, res K ≠ none → K = L) : lastRes res = some x := by
  have hn : ∀ K, K ≠ L → res K = none := fun K hk => by
    by_contra hc; exact hk (h K hc)
  have go : ∀ (ls : List Nat) (a : Option Nat), (L ∈ ls ∨ a = some x) →
      ls.foldl (fun a L => match res L with | some x => some x | none => a) a = some x := by
    intro ls
    induction ls with
    | nil => intro a ha; simpa using ha
    | cons K ls ih =>
      intro a ha
      rw [List.foldl_cons]
      apply ih
      by_cases hk : K = L
      · right; subst hk; simp [hr]
      · rw [hn K hk]
        rcases ha with ha | ha
        · left; simpa [Ne.symm hk] using ha
        · right; simpa using ha
  exact go lanes32 none (Or.inl (by simpa [lanes32] using hL))

/-! A destination: what a write leaves alone. -/

theorem Group.write_frame (g : Group) (d : Opd) (w : Nat) (signed : Bool) (res : Nat → Option Nat) :
    (g.write d w signed res).id = g.id ∧ (g.write d w signed res).site = g.site ∧ (g.write d w signed res).st = g.st ∧
    (g.write d w signed res).full = g.full ∧ (g.write d w signed res).l = g.l ∧ (g.write d w signed res).exm = g.exm ∧
    (g.write d w signed res).stack = g.stack ∧ (g.write d w signed res).pc = g.pc ∧
    (g.write d w signed res).block = g.block ∧ (g.write d w signed res).ric = g.ric := by
  unfold Group.write
  cases d <;> simp only [Group.putV, Group.putO, Group.putP, Group.putG, Group.putQ] <;>
    (repeat' split) <;> simp

theorem Group.write_nothing (g : Group) (w : Nat) (signed : Bool) (res : Nat → Option Nat) :
    g.write .zero w signed res = g ∧ g.write .lit w signed res = g ∧ (∀ n, g.write (.k n) w signed res = g) ∧
    (∀ n, g.write (.kn n) w signed res = g) ∧ ∀ n, g.write (.l n) w signed res = g :=
  ⟨rfl, rfl, fun _ => rfl, fun _ => rfl, fun _ => rfl⟩

end Sys2Proof.Machine
end

