-- ==== Sys2Proof/Laws/PerInstr.lean ====
section
/-! SUPPORT. The round trip of every instruction, one lemma each: the words that the encoder gives a well-formed
instruction decode to it (05 R64, R93). The steps that no word encodes have no words to decode. -/

namespace Sys2Proof.Laws.RoundTrip

set_option linter.unusedSimpArgs false
set_option linter.unnecessarySeqFocus false
set_option linter.unusedTactic false
set_option linter.unreachableTactic false

/-- The words of a well-formed instruction decode to it. -/
def Statement (i : Instr) : Prop :=
  ∀ (w : W64) (lit : Option W64), i.wf = true → encode i = some (w, lit) → decode w lit = some i

theorem noWord (i : Instr) (hs : i.shape = none) : Statement i := by
  intro w lit hw _; simp [Instr.wf, hs] at hw

theorem nop (h : Hdr) : Statement (.nop h) := by
  refine roundTrip_of _ _ rfl ⟨?_, ?_, ?_⟩ ?_ ?_ ?_ ?_ ?_
  · simp [ctl]
  · simp [ctl]
  · simp [ctl]
  · simp [ctl, Fld.clean]
  · simp [ctl, Fld.clean]
  · simp [ctl, Fld.clean]
  · simp [ctl, Fld.clean]
  · intro _; simp [ctl, build, buildCtl, Fld.bits, Opd.ofBits_bits]

theorem bra (h : Hdr) (t : Opd) : Statement (.bra h t) := by
  refine roundTrip_of _ _ rfl ⟨?_, ?_, ?_⟩ ?_ ?_ ?_ ?_ ?_
  · simp [ctl, S]
  · simp [ctl, S]
  · simp [ctl, S]
  · simp [ctl, S, Fld.clean]
  · simp [ctl, S, Fld.clean]
  · simp [ctl, S, Fld.clean]
  · simp [ctl, S, Fld.clean]
  · intro _; simp [ctl, S, build, buildCtl, Fld.bits, Opd.ofBits_bits]

theorem brg (h : Hdr) (t : Opd) : Statement (.brg h t) := by
  refine roundTrip_of _ _ rfl ⟨?_, ?_, ?_⟩ ?_ ?_ ?_ ?_ ?_
  · simp [ctl, S]
  · simp [ctl, S]
  · simp [ctl, S]
  · simp [ctl, S, Fld.clean]
  · simp [ctl, S, Fld.clean]
  · simp [ctl, S, Fld.clean]
  · simp [ctl, S, Fld.clean]
  · intro _; simp [ctl, S, build, buildCtl, Fld.bits, Opd.ofBits_bits]

theorem jmp (h : Hdr) (t : Opd) : Statement (.jmp h t) := by
  refine roundTrip_of _ _ rfl ⟨?_, ?_, ?_⟩ ?_ ?_ ?_ ?_ ?_
  · simp [ctl, S]
  · simp [ctl, S]
  · simp [ctl, S]
  · simp [ctl, S, Fld.clean]
  · simp [ctl, S, Fld.clean]
  · simp [ctl, S, Fld.clean]
  · simp [ctl, S, Fld.clean]
  · intro _; simp [ctl, S, build, buildCtl, Fld.bits, Opd.ofBits_bits]

theorem call (h : Hdr) (d : Opd) (t : Opd) : Statement (.call h d t) := by
  refine roundTrip_of _ _ rfl ⟨?_, ?_, ?_⟩ ?_ ?_ ?_ ?_ ?_
  · simp [ctl, S, D]
  · simp [ctl, S, D]
  · simp [ctl, S, D]
  · cases d <;> simp [ctl, S, D, Fld.ok, Fld.clean, Opd.isG]
  · simp [ctl, S, D, Fld.clean]
  · simp [ctl, S, D, Fld.clean]
  · simp [ctl, S, D, Fld.clean]
  · intro _; simp [ctl, S, D, build, buildCtl, Fld.bits, Opd.ofBits_bits]

theorem ret (h : Hdr) (a : Opd) : Statement (.ret h a) := by
  refine roundTrip_of _ _ rfl ⟨?_, ?_, ?_⟩ ?_ ?_ ?_ ?_ ?_
  · simp [ctl, S]
  · simp [ctl, S]
  · simp [ctl, S]
  · simp [ctl, S, Fld.clean]
  · simp [ctl, S, Fld.clean]
  · simp [ctl, S, Fld.clean]
  · simp [ctl, S, Fld.clean]
  · intro _; simp [ctl, S, build, buildCtl, Fld.bits, Opd.ofBits_bits]

theorem loop (h : Hdr) (d : Opd) (t : Opd) : Statement (.loop h d t) := by
  refine roundTrip_of _ _ rfl ⟨?_, ?_, ?_⟩ ?_ ?_ ?_ ?_ ?_
  · simp [ctl, S, D]
  · simp [ctl, S, D]
  · simp [ctl, S, D]
  · cases d <;> simp [ctl, S, D, Fld.ok, Fld.clean, Opd.isG]
  · simp [ctl, S, D, Fld.clean]
  · simp [ctl, S, D, Fld.clean]
  · simp [ctl, S, D, Fld.clean]
  · intro _; simp [ctl, S, D, build, buildCtl, Fld.bits, Opd.ofBits_bits]

theorem exit (h : Hdr) : Statement (.exit h) := by
  refine roundTrip_of _ _ rfl ⟨by simp [ctl], by simp [ctl], by simp [ctl]⟩ ?_ trivial trivial trivial ?_
  · simp [ctl, Fld.clean]
  · intro hw
    have hg : h.g = false := by
      simp only [Instr.wf, Instr.shape, Shape.formOk, ctl, Bool.and_eq_true] at hw
      have := hw.1.1.1.2
      revert this; cases h.g <;> simp
    simp [ctl, build, buildCtl, hg]

theorem exitG (h : Hdr) : Statement (.exitG h) := by
  refine roundTrip_of _ _ rfl ⟨by simp [ctl], by simp [ctl], by simp [ctl]⟩ ?_ trivial trivial trivial ?_
  · simp [ctl, Fld.clean]
  · intro hw
    have hg : h.g = true := by
      simp only [Instr.wf, Instr.shape, Shape.formOk, ctl, Bool.and_eq_true] at hw
      have := hw.1.1.1.2
      revert this; cases h.g <;> simp
    simp [ctl, build, buildCtl, hg]

theorem halt (h : Hdr) : Statement (.halt h) := by
  refine roundTrip_of _ _ rfl ⟨?_, ?_, ?_⟩ ?_ ?_ ?_ ?_ ?_
  · simp [ctl]
  · simp [ctl]
  · simp [ctl]
  · simp [ctl, Fld.clean]
  · simp [ctl, Fld.clean]
  · simp [ctl, Fld.clean]
  · simp [ctl, Fld.clean]
  · intro _; simp [ctl, build, buildInt, Fld.bits, Opd.ofBits_bits]

theorem bar (h : Hdr) (n : Opd) : Statement (.bar h n) := by
  refine roundTrip_of _ _ rfl ⟨?_, ?_, ?_⟩ ?_ ?_ ?_ ?_ ?_
  · simp [ctl, S]
  · simp [ctl, S]
  · simp [ctl, S]
  · simp [ctl, S, Fld.clean]
  · simp [ctl, S, Fld.clean]
  · simp [ctl, S, Fld.clean]
  · simp [ctl, S, Fld.clean]
  · intro _; simp [ctl, S, build, buildCtl, Fld.bits, Opd.ofBits_bits]

theorem yield (h : Hdr) : Statement (.yield h) := by
  refine roundTrip_of _ _ rfl ⟨?_, ?_, ?_⟩ ?_ ?_ ?_ ?_ ?_
  · simp [ctl]
  · simp [ctl]
  · simp [ctl]
  · simp [ctl, Fld.clean]
  · simp [ctl, Fld.clean]
  · simp [ctl, Fld.clean]
  · simp [ctl, Fld.clean]
  · intro _; simp [ctl, build, buildCtl, Fld.bits, Opd.ofBits_bits]

theorem waitAny (h : Hdr) (c : Bool) (d : Opd) (m : Opd) : Statement (.waitAny h c d m) := by
  refine roundTrip_of _ _ rfl ⟨?_, ?_, ?_⟩ ?_ ?_ ?_ ?_ ?_
  · simp [ctl, satFn, S, D]
  · cases c <;> simp [ctl, satFn, S, D]
  · simp [ctl, satFn, S, D]
  · cases d <;> simp [ctl, satFn, S, D, Fld.ok, Fld.clean, Opd.isGZ, Opd.isG, Opd.isZ]
  · cases c <;> simp [ctl, satFn, S, D, Fld.clean]
  · cases c <;> simp [ctl, satFn, S, D, Fld.clean]
  · cases c <;> simp [ctl, satFn, S, D, Fld.clean]
  · intro _; cases c <;> simp [ctl, satFn, S, D, build, buildCtl, Fld.bits, Opd.ofBits_bits]

theorem waitAll (h : Hdr) (c : Bool) (m : Opd) : Statement (.waitAll h c m) := by
  refine roundTrip_of _ _ rfl ⟨?_, ?_, ?_⟩ ?_ ?_ ?_ ?_ ?_
  · simp [ctl, satFn, S]
  · cases c <;> simp [ctl, satFn, S]
  · simp [ctl, satFn, S]
  · simp [ctl, satFn, S, Fld.clean]
  · cases c <;> simp [ctl, satFn, S, Fld.clean]
  · cases c <;> simp [ctl, satFn, S, Fld.clean]
  · cases c <;> simp [ctl, satFn, S, Fld.clean]
  · intro _; cases c <;> simp [ctl, satFn, S, build, buildCtl, Fld.bits, Opd.ofBits_bits]

theorem waitMs (h : Hdr) (a : Opd) (ph : Opd) : Statement (.waitMs h a ph) := by
  refine roundTrip_of _ _ rfl ⟨?_, ?_, ?_⟩ ?_ ?_ ?_ ?_ ?_
  · simp [ctl, S]
  · simp [ctl, S]
  · simp [ctl, S]
  · simp [ctl, S, Fld.clean]
  · simp [ctl, S, Fld.clean]
  · simp [ctl, S, Fld.clean]
  · simp [ctl, S, Fld.clean]
  · intro _; simp [ctl, S, build, buildCtl, Fld.bits, Opd.ofBits_bits]

theorem ffr (h : Hdr) (c : Bool) (d : Opd) (m : Opd) : Statement (.ffr h c d m) := by
  refine roundTrip_of _ _ rfl ⟨?_, ?_, ?_⟩ ?_ ?_ ?_ ?_ ?_
  · simp [ctl, satFn, S, D]
  · cases c <;> simp [ctl, satFn, S, D]
  · simp [ctl, satFn, S, D]
  · cases d <;> simp [ctl, satFn, S, D, Fld.ok, Fld.clean, Opd.isG]
  · cases c <;> simp [ctl, satFn, S, D, Fld.clean]
  · cases c <;> simp [ctl, satFn, S, D, Fld.clean]
  · cases c <;> simp [ctl, satFn, S, D, Fld.clean]
  · intro _; cases c <;> simp [ctl, satFn, S, D, build, buildCtl, Fld.bits, Opd.ofBits_bits]

theorem trapSys (h : Hdr) (code : Opd) : Statement (.trapSys h code) := by
  refine roundTrip_of _ _ rfl ⟨?_, ?_, ?_⟩ ?_ ?_ ?_ ?_ ?_
  · simp [ctl, S]
  · simp [ctl, S]
  · simp [ctl, S]
  · simp [ctl, S, Fld.clean]
  · simp [ctl, S, Fld.clean]
  · simp [ctl, S, Fld.clean]
  · simp [ctl, S, Fld.clean]
  · intro _; simp [ctl, S, build, buildCtl, Fld.bits, Opd.ofBits_bits]

theorem trapBrk (h : Hdr) (code : Opd) : Statement (.trapBrk h code) := by
  refine roundTrip_of _ _ rfl ⟨?_, ?_, ?_⟩ ?_ ?_ ?_ ?_ ?_
  · simp [ctl, S]
  · simp [ctl, S]
  · simp [ctl, S]
  · simp [ctl, S, Fld.clean]
  · simp [ctl, S, Fld.clean]
  · simp [ctl, S, Fld.clean]
  · simp [ctl, S, Fld.clean]
  · intro _; simp [ctl, S, build, buildCtl, Fld.bits, Opd.ofBits_bits]

theorem trapretSame (h : Hdr) : Statement (.trapretSame h) := by
  refine roundTrip_of _ _ rfl ⟨?_, ?_, ?_⟩ ?_ ?_ ?_ ?_ ?_
  · simp [ctl]
  · simp [ctl]
  · simp [ctl]
  · simp [ctl, Fld.clean]
  · simp [ctl, Fld.clean]
  · simp [ctl, Fld.clean]
  · simp [ctl, Fld.clean]
  · intro _; simp [ctl, build, buildCtl, Fld.bits, Opd.ofBits_bits]

theorem trapretNext (h : Hdr) : Statement (.trapretNext h) := by
  refine roundTrip_of _ _ rfl ⟨?_, ?_, ?_⟩ ?_ ?_ ?_ ?_ ?_
  · simp [ctl]
  · simp [ctl]
  · simp [ctl]
  · simp [ctl, Fld.clean]
  · simp [ctl, Fld.clean]
  · simp [ctl, Fld.clean]
  · simp [ctl, Fld.clean]
  · intro _; simp [ctl, build, buildCtl, Fld.bits, Opd.ofBits_bits]

theorem abort (h : Hdr) : Statement (.abort h) := by
  refine roundTrip_of _ _ rfl ⟨?_, ?_, ?_⟩ ?_ ?_ ?_ ?_ ?_
  · simp [ctl]
  · simp [ctl]
  · simp [ctl]
  · simp [ctl, Fld.clean]
  · simp [ctl, Fld.clean]
  · simp [ctl, Fld.clean]
  · simp [ctl, Fld.clean]
  · intro _; simp [ctl, build, buildCtl, Fld.bits, Opd.ofBits_bits]

theorem bsa (h : Hdr) (lt : Bool) (slot : Opd) (thr : Opd) (t : Opd) : Statement (.bsa h lt slot thr t) := by
  refine roundTrip_of _ _ rfl ⟨?_, ?_, ?_⟩ ?_ ?_ ?_ ?_ ?_
  · simp [gw, fnBit, S, slotS]
  · cases lt <;> simp [gw, fnBit, S, slotS]
  · simp [gw, fnBit, S, slotS]
  · simp [gw, fnBit, S, slotS, Fld.clean]
  · cases lt <;> simp [gw, fnBit, S, slotS, Fld.clean]
  · cases lt <;> simp [gw, fnBit, S, slotS, Fld.clean]
  · cases lt <;> simp [gw, fnBit, S, slotS, Fld.clean]
  · intro _; cases lt <;> simp [gw, fnBit, S, slotS, build, buildCtl, Fld.bits, Opd.ofBits_bits]

theorem iadd (h : Hdr) (sat : Bool) (ty : Ty) (d : Opd) (a : Opd) (b : Opd) : Statement (.iadd h sat ty d a b) := by
  refine roundTrip_of _ _ rfl ⟨?_, ?_, ?_⟩ ?_ ?_ ?_ ?_ ?_
  · simp [int2, intg, anyD, anyS, fnBit]
  · cases sat <;> simp [int2, intg, anyD, anyS, fnBit]
  · simp [int2, intg, anyD, anyS, fnBit, Ty.code_lt]
  · cases d <;> simp [int2, intg, anyD, anyS, fnBit, Fld.ok, Fld.clean, Opd.anyDst]
  · cases sat <;> simp [int2, intg, anyD, anyS, fnBit, Fld.clean]
  · cases sat <;> simp [int2, intg, anyD, anyS, fnBit, Fld.clean]
  · cases sat <;> simp [int2, intg, anyD, anyS, fnBit, Fld.clean]
  · intro _; cases sat <;> simp [int2, intg, anyD, anyS, fnBit, build, buildInt, Fld.bits, Opd.ofBits_bits, Ty.ofCode_code]

theorem isub (h : Hdr) (sat : Bool) (ty : Ty) (d : Opd) (a : Opd) (b : Opd) : Statement (.isub h sat ty d a b) := by
  refine roundTrip_of _ _ rfl ⟨?_, ?_, ?_⟩ ?_ ?_ ?_ ?_ ?_
  · simp [int2, intg, anyD, anyS, fnBit]
  · cases sat <;> simp [int2, intg, anyD, anyS, fnBit]
  · simp [int2, intg, anyD, anyS, fnBit, Ty.code_lt]
  · cases d <;> simp [int2, intg, anyD, anyS, fnBit, Fld.ok, Fld.clean, Opd.anyDst]
  · cases sat <;> simp [int2, intg, anyD, anyS, fnBit, Fld.clean]
  · cases sat <;> simp [int2, intg, anyD, anyS, fnBit, Fld.clean]
  · cases sat <;> simp [int2, intg, anyD, anyS, fnBit, Fld.clean]
  · intro _; cases sat <;> simp [int2, intg, anyD, anyS, fnBit, build, buildInt, Fld.bits, Opd.ofBits_bits, Ty.ofCode_code]

theorem imul (h : Hdr) (fn : MulFn) (ty : Ty) (d : Opd) (a : Opd) (b : Opd) : Statement (.imul h fn ty d a b) := by
  refine roundTrip_of _ _ rfl ⟨?_, ?_, ?_⟩ ?_ ?_ ?_ ?_ ?_
  · simp [intg, anyD, anyS]
  · cases fn <;> simp [intg, anyD, anyS, MulFn.code]
  · simp [intg, anyD, anyS, Ty.code_lt]
  · cases d <;> simp [intg, anyD, anyS, Fld.ok, Fld.clean, Opd.anyDst]
  · cases fn <;> simp [intg, anyD, anyS, Fld.clean]
  · cases fn <;> simp [intg, anyD, anyS, Fld.clean]
  · cases fn <;> simp [intg, anyD, anyS, Fld.clean]
  · intro _; cases fn <;> simp [intg, anyD, anyS, build, buildInt, Fld.bits, Opd.ofBits_bits, Ty.ofCode_code, MulFn.code,
      MulFn.ofCode]

theorem imad (h : Hdr) (ty : Ty) (d : Opd) (a : Opd) (b : Opd) (c : Opd) : Statement (.imad h ty d a b c) := by
  refine roundTrip_of _ _ rfl ⟨?_, ?_, ?_⟩ ?_ ?_ ?_ ?_ ?_
  · simp [intg, anyD, anyS]
  · simp [intg, anyD, anyS]
  · simp [intg, anyD, anyS, Ty.code_lt]
  · cases d <;> simp [intg, anyD, anyS, Fld.ok, Fld.clean, Opd.anyDst]
  · simp [intg, anyD, anyS, Fld.clean]
  · simp [intg, anyD, anyS, Fld.clean]
  · simp [intg, anyD, anyS, Fld.clean]
  · intro _; simp [intg, anyD, anyS, build, buildInt, Fld.bits, Opd.ofBits_bits, Ty.ofCode_code]

theorem idiv (h : Hdr) (rem : Bool) (ty : Ty) (d : Opd) (a : Opd) (b : Opd) : Statement (.idiv h rem ty d a b) := by
  refine roundTrip_of _ _ rfl ⟨?_, ?_, ?_⟩ ?_ ?_ ?_ ?_ ?_
  · simp [int2, intg, anyD, anyS, fnBit]
  · cases rem <;> simp [int2, intg, anyD, anyS, fnBit]
  · simp [int2, intg, anyD, anyS, fnBit, Ty.code_lt]
  · cases d <;> simp [int2, intg, anyD, anyS, fnBit, Fld.ok, Fld.clean, Opd.anyDst]
  · cases rem <;> simp [int2, intg, anyD, anyS, fnBit, Fld.clean]
  · cases rem <;> simp [int2, intg, anyD, anyS, fnBit, Fld.clean]
  · cases rem <;> simp [int2, intg, anyD, anyS, fnBit, Fld.clean]
  · intro _; cases rem <;> simp [int2, intg, anyD, anyS, fnBit, build, buildInt, Fld.bits, Opd.ofBits_bits, Ty.ofCode_code]

theorem imin (h : Hdr) (ty : Ty) (d : Opd) (a : Opd) (b : Opd) : Statement (.imin h ty d a b) := by
  refine roundTrip_of _ _ rfl ⟨?_, ?_, ?_⟩ ?_ ?_ ?_ ?_ ?_
  · simp [int2, intg, anyD, anyS]
  · simp [int2, intg, anyD, anyS]
  · simp [int2, intg, anyD, anyS, Ty.code_lt]
  · cases d <;> simp [int2, intg, anyD, anyS, Fld.ok, Fld.clean, Opd.anyDst]
  · simp [int2, intg, anyD, anyS, Fld.clean]
  · simp [int2, intg, anyD, anyS, Fld.clean]
  · simp [int2, intg, anyD, anyS, Fld.clean]
  · intro _; simp [int2, intg, anyD, anyS, build, buildInt, Fld.bits, Opd.ofBits_bits, Ty.ofCode_code]

theorem imax (h : Hdr) (ty : Ty) (d : Opd) (a : Opd) (b : Opd) : Statement (.imax h ty d a b) := by
  refine roundTrip_of _ _ rfl ⟨?_, ?_, ?_⟩ ?_ ?_ ?_ ?_ ?_
  · simp [int2, intg, anyD, anyS]
  · simp [int2, intg, anyD, anyS]
  · simp [int2, intg, anyD, anyS, Ty.code_lt]
  · cases d <;> simp [int2, intg, anyD, anyS, Fld.ok, Fld.clean, Opd.anyDst]
  · simp [int2, intg, anyD, anyS, Fld.clean]
  · simp [int2, intg, anyD, anyS, Fld.clean]
  · simp [int2, intg, anyD, anyS, Fld.clean]
  · intro _; simp [int2, intg, anyD, anyS, build, buildInt, Fld.bits, Opd.ofBits_bits, Ty.ofCode_code]

theorem iabs (h : Hdr) (ty : Ty) (d : Opd) (a : Opd) : Statement (.iabs h ty d a) := by
  refine roundTrip_of _ _ rfl ⟨?_, ?_, ?_⟩ ?_ ?_ ?_ ?_ ?_
  · simp [int1, intg, anyD, anyS]
  · simp [int1, intg, anyD, anyS]
  · simp [int1, intg, anyD, anyS, Ty.code_lt]
  · cases d <;> simp [int1, intg, anyD, anyS, Fld.ok, Fld.clean, Opd.anyDst]
  · simp [int1, intg, anyD, anyS, Fld.clean]
  · simp [int1, intg, anyD, anyS, Fld.clean]
  · simp [int1, intg, anyD, anyS, Fld.clean]
  · intro _; simp [int1, intg, anyD, anyS, build, buildInt, Fld.bits, Opd.ofBits_bits, Ty.ofCode_code]

theorem ineg (h : Hdr) (ty : Ty) (d : Opd) (a : Opd) : Statement (.ineg h ty d a) := by
  refine roundTrip_of _ _ rfl ⟨?_, ?_, ?_⟩ ?_ ?_ ?_ ?_ ?_
  · simp [int1, intg, anyD, anyS]
  · simp [int1, intg, anyD, anyS]
  · simp [int1, intg, anyD, anyS, Ty.code_lt]
  · cases d <;> simp [int1, intg, anyD, anyS, Fld.ok, Fld.clean, Opd.anyDst]
  · simp [int1, intg, anyD, anyS, Fld.clean]
  · simp [int1, intg, anyD, anyS, Fld.clean]
  · simp [int1, intg, anyD, anyS, Fld.clean]
  · intro _; simp [int1, intg, anyD, anyS, build, buildInt, Fld.bits, Opd.ofBits_bits, Ty.ofCode_code]

theorem and (h : Hdr) (ty : Ty) (d : Opd) (a : Opd) (b : Opd) : Statement (.and h ty d a b) := by
  refine roundTrip_of _ _ rfl ⟨?_, ?_, ?_⟩ ?_ ?_ ?_ ?_ ?_
  · simp [int2, intg, anyD, anyS]
  · simp [int2, intg, anyD, anyS]
  · simp [int2, intg, anyD, anyS, Ty.code_lt]
  · cases d <;> simp [int2, intg, anyD, anyS, Fld.ok, Fld.clean, Opd.anyDst]
  · simp [int2, intg, anyD, anyS, Fld.clean]
  · simp [int2, intg, anyD, anyS, Fld.clean]
  · simp [int2, intg, anyD, anyS, Fld.clean]
  · intro _; simp [int2, intg, anyD, anyS, build, buildInt, Fld.bits, Opd.ofBits_bits, Ty.ofCode_code]

theorem or (h : Hdr) (ty : Ty) (d : Opd) (a : Opd) (b : Opd) : Statement (.or h ty d a b) := by
  refine roundTrip_of _ _ rfl ⟨?_, ?_, ?_⟩ ?_ ?_ ?_ ?_ ?_
  · simp [int2, intg, anyD, anyS]
  · simp [int2, intg, anyD, anyS]
  · simp [int2, intg, anyD, anyS, Ty.code_lt]
  · cases d <;> simp [int2, intg, anyD, anyS, Fld.ok, Fld.clean, Opd.anyDst]
  · simp [int2, intg, anyD, anyS, Fld.clean]
  · simp [int2, intg, anyD, anyS, Fld.clean]
  · simp [int2, intg, anyD, anyS, Fld.clean]
  · intro _; simp [int2, intg, anyD, anyS, build, buildInt, Fld.bits, Opd.ofBits_bits, Ty.ofCode_code]

theorem xor (h : Hdr) (ty : Ty) (d : Opd) (a : Opd) (b : Opd) : Statement (.xor h ty d a b) := by
  refine roundTrip_of _ _ rfl ⟨?_, ?_, ?_⟩ ?_ ?_ ?_ ?_ ?_
  · simp [int2, intg, anyD, anyS]
  · simp [int2, intg, anyD, anyS]
  · simp [int2, intg, anyD, anyS, Ty.code_lt]
  · cases d <;> simp [int2, intg, anyD, anyS, Fld.ok, Fld.clean, Opd.anyDst]
  · simp [int2, intg, anyD, anyS, Fld.clean]
  · simp [int2, intg, anyD, anyS, Fld.clean]
  · simp [int2, intg, anyD, anyS, Fld.clean]
  · intro _; simp [int2, intg, anyD, anyS, build, buildInt, Fld.bits, Opd.ofBits_bits, Ty.ofCode_code]

theorem andn (h : Hdr) (ty : Ty) (d : Opd) (a : Opd) (b : Opd) : Statement (.andn h ty d a b) := by
  refine roundTrip_of _ _ rfl ⟨?_, ?_, ?_⟩ ?_ ?_ ?_ ?_ ?_
  · simp [int2, intg, anyD, anyS]
  · simp [int2, intg, anyD, anyS]
  · simp [int2, intg, anyD, anyS, Ty.code_lt]
  · cases d <;> simp [int2, intg, anyD, anyS, Fld.ok, Fld.clean, Opd.anyDst]
  · simp [int2, intg, anyD, anyS, Fld.clean]
  · simp [int2, intg, anyD, anyS, Fld.clean]
  · simp [int2, intg, anyD, anyS, Fld.clean]
  · intro _; simp [int2, intg, anyD, anyS, build, buildInt, Fld.bits, Opd.ofBits_bits, Ty.ofCode_code]

theorem orn (h : Hdr) (ty : Ty) (d : Opd) (a : Opd) (b : Opd) : Statement (.orn h ty d a b) := by
  refine roundTrip_of _ _ rfl ⟨?_, ?_, ?_⟩ ?_ ?_ ?_ ?_ ?_
  · simp [int2, intg, anyD, anyS]
  · simp [int2, intg, anyD, anyS]
  · simp [int2, intg, anyD, anyS, Ty.code_lt]
  · cases d <;> simp [int2, intg, anyD, anyS, Fld.ok, Fld.clean, Opd.anyDst]
  · simp [int2, intg, anyD, anyS, Fld.clean]
  · simp [int2, intg, anyD, anyS, Fld.clean]
  · simp [int2, intg, anyD, anyS, Fld.clean]
  · intro _; simp [int2, intg, anyD, anyS, build, buildInt, Fld.bits, Opd.ofBits_bits, Ty.ofCode_code]

theorem not (h : Hdr) (ty : Ty) (d : Opd) (a : Opd) : Statement (.not h ty d a) := by
  refine roundTrip_of _ _ rfl ⟨?_, ?_, ?_⟩ ?_ ?_ ?_ ?_ ?_
  · simp [int1, intg, anyD, anyS]
  · simp [int1, intg, anyD, anyS]
  · simp [int1, intg, anyD, anyS, Ty.code_lt]
  · cases d <;> simp [int1, intg, anyD, anyS, Fld.ok, Fld.clean, Opd.anyDst]
  · simp [int1, intg, anyD, anyS, Fld.clean]
  · simp [int1, intg, anyD, anyS, Fld.clean]
  · simp [int1, intg, anyD, anyS, Fld.clean]
  · intro _; simp [int1, intg, anyD, anyS, build, buildInt, Fld.bits, Opd.ofBits_bits, Ty.ofCode_code]

theorem shl (h : Hdr) (ty : Ty) (d : Opd) (a : Opd) (b : Opd) : Statement (.shl h ty d a b) := by
  refine roundTrip_of _ _ rfl ⟨?_, ?_, ?_⟩ ?_ ?_ ?_ ?_ ?_
  · simp [intg, anyD, anyS]
  · simp [intg, anyD, anyS]
  · simp [intg, anyD, anyS, Ty.code_lt]
  · cases d <;> simp [intg, anyD, anyS, Fld.ok, Fld.clean, Opd.anyDst]
  · simp [intg, anyD, anyS, Fld.clean]
  · simp [intg, anyD, anyS, Fld.clean]
  · simp [intg, anyD, anyS, Fld.clean]
  · intro _; simp [intg, anyD, anyS, build, buildInt, Fld.bits, Opd.ofBits_bits, Ty.ofCode_code]

theorem shr (h : Hdr) (ty : Ty) (d : Opd) (a : Opd) (b : Opd) : Statement (.shr h ty d a b) := by
  refine roundTrip_of _ _ rfl ⟨?_, ?_, ?_⟩ ?_ ?_ ?_ ?_ ?_
  · simp [intg, anyD, anyS]
  · simp [intg, anyD, anyS]
  · simp [intg, anyD, anyS, Ty.code_lt]
  · cases d <;> simp [intg, anyD, anyS, Fld.ok, Fld.clean, Opd.anyDst]
  · simp [intg, anyD, anyS, Fld.clean]
  · simp [intg, anyD, anyS, Fld.clean]
  · simp [intg, anyD, anyS, Fld.clean]
  · intro _; simp [intg, anyD, anyS, build, buildInt, Fld.bits, Opd.ofBits_bits, Ty.ofCode_code]

theorem sar (h : Hdr) (ty : Ty) (d : Opd) (a : Opd) (b : Opd) : Statement (.sar h ty d a b) := by
  refine roundTrip_of _ _ rfl ⟨?_, ?_, ?_⟩ ?_ ?_ ?_ ?_ ?_
  · simp [intg, anyD, anyS]
  · simp [intg, anyD, anyS]
  · simp [intg, anyD, anyS, Ty.code_lt]
  · cases d <;> simp [intg, anyD, anyS, Fld.ok, Fld.clean, Opd.anyDst]
  · simp [intg, anyD, anyS, Fld.clean]
  · simp [intg, anyD, anyS, Fld.clean]
  · simp [intg, anyD, anyS, Fld.clean]
  · intro _; simp [intg, anyD, anyS, build, buildInt, Fld.bits, Opd.ofBits_bits, Ty.ofCode_code]

theorem rol (h : Hdr) (ty : Ty) (d : Opd) (a : Opd) (b : Opd) : Statement (.rol h ty d a b) := by
  refine roundTrip_of _ _ rfl ⟨?_, ?_, ?_⟩ ?_ ?_ ?_ ?_ ?_
  · simp [intg, anyD, anyS]
  · simp [intg, anyD, anyS]
  · simp [intg, anyD, anyS, Ty.code_lt]
  · cases d <;> simp [intg, anyD, anyS, Fld.ok, Fld.clean, Opd.anyDst]
  · simp [intg, anyD, anyS, Fld.clean]
  · simp [intg, anyD, anyS, Fld.clean]
  · simp [intg, anyD, anyS, Fld.clean]
  · intro _; simp [intg, anyD, anyS, build, buildInt, Fld.bits, Opd.ofBits_bits, Ty.ofCode_code]

theorem popc (h : Hdr) (ty : Ty) (d : Opd) (a : Opd) : Statement (.popc h ty d a) := by
  refine roundTrip_of _ _ rfl ⟨?_, ?_, ?_⟩ ?_ ?_ ?_ ?_ ?_
  · simp [int1, intg, anyD, anyS]
  · simp [int1, intg, anyD, anyS]
  · simp [int1, intg, anyD, anyS, Ty.code_lt]
  · cases d <;> simp [int1, intg, anyD, anyS, Fld.ok, Fld.clean, Opd.anyDst]
  · simp [int1, intg, anyD, anyS, Fld.clean]
  · simp [int1, intg, anyD, anyS, Fld.clean]
  · simp [int1, intg, anyD, anyS, Fld.clean]
  · intro _; simp [int1, intg, anyD, anyS, build, buildInt, Fld.bits, Opd.ofBits_bits, Ty.ofCode_code]

theorem clz (h : Hdr) (ty : Ty) (d : Opd) (a : Opd) : Statement (.clz h ty d a) := by
  refine roundTrip_of _ _ rfl ⟨?_, ?_, ?_⟩ ?_ ?_ ?_ ?_ ?_
  · simp [int1, intg, anyD, anyS]
  · simp [int1, intg, anyD, anyS]
  · simp [int1, intg, anyD, anyS, Ty.code_lt]
  · cases d <;> simp [int1, intg, anyD, anyS, Fld.ok, Fld.clean, Opd.anyDst]
  · simp [int1, intg, anyD, anyS, Fld.clean]
  · simp [int1, intg, anyD, anyS, Fld.clean]
  · simp [int1, intg, anyD, anyS, Fld.clean]
  · intro _; simp [int1, intg, anyD, anyS, build, buildInt, Fld.bits, Opd.ofBits_bits, Ty.ofCode_code]

theorem ctz (h : Hdr) (ty : Ty) (d : Opd) (a : Opd) : Statement (.ctz h ty d a) := by
  refine roundTrip_of _ _ rfl ⟨?_, ?_, ?_⟩ ?_ ?_ ?_ ?_ ?_
  · simp [int1, intg, anyD, anyS]
  · simp [int1, intg, anyD, anyS]
  · simp [int1, intg, anyD, anyS, Ty.code_lt]
  · cases d <;> simp [int1, intg, anyD, anyS, Fld.ok, Fld.clean, Opd.anyDst]
  · simp [int1, intg, anyD, anyS, Fld.clean]
  · simp [int1, intg, anyD, anyS, Fld.clean]
  · simp [int1, intg, anyD, anyS, Fld.clean]
  · intro _; simp [int1, intg, anyD, anyS, build, buildInt, Fld.bits, Opd.ofBits_bits, Ty.ofCode_code]

theorem brev (h : Hdr) (ty : Ty) (d : Opd) (a : Opd) : Statement (.brev h ty d a) := by
  refine roundTrip_of _ _ rfl ⟨?_, ?_, ?_⟩ ?_ ?_ ?_ ?_ ?_
  · simp [int1, intg, anyD, anyS]
  · simp [int1, intg, anyD, anyS]
  · simp [int1, intg, anyD, anyS, Ty.code_lt]
  · cases d <;> simp [int1, intg, anyD, anyS, Fld.ok, Fld.clean, Opd.anyDst]
  · simp [int1, intg, anyD, anyS, Fld.clean]
  · simp [int1, intg, anyD, anyS, Fld.clean]
  · simp [int1, intg, anyD, anyS, Fld.clean]
  · intro _; simp [int1, intg, anyD, anyS, build, buildInt, Fld.bits, Opd.ofBits_bits, Ty.ofCode_code]

theorem bfx (h : Hdr) (ty : Ty) (d : Opd) (a : Opd) (b : Opd) (c : Opd) : Statement (.bfx h ty d a b c) := by
  refine roundTrip_of _ _ rfl ⟨?_, ?_, ?_⟩ ?_ ?_ ?_ ?_ ?_
  · simp [intg, anyD, anyS]
  · simp [intg, anyD, anyS]
  · simp [intg, anyD, anyS, Ty.code_lt]
  · cases d <;> simp [intg, anyD, anyS, Fld.ok, Fld.clean, Opd.anyDst]
  · simp [intg, anyD, anyS, Fld.clean]
  · simp [intg, anyD, anyS, Fld.clean]
  · simp [intg, anyD, anyS, Fld.clean]
  · intro _; simp [intg, anyD, anyS, build, buildInt, Fld.bits, Opd.ofBits_bits, Ty.ofCode_code]

theorem bfi (h : Hdr) (ty : Ty) (d : Opd) (a : Opd) (b : Opd) (c : Opd) : Statement (.bfi h ty d a b c) := by
  refine roundTrip_of _ _ rfl ⟨?_, ?_, ?_⟩ ?_ ?_ ?_ ?_ ?_
  · simp [intg, anyD, anyS]
  · simp [intg, anyD, anyS]
  · simp [intg, anyD, anyS, Ty.code_lt]
  · cases d <;> simp [intg, anyD, anyS, Fld.ok, Fld.clean, Opd.anyDst]
  · simp [intg, anyD, anyS, Fld.clean]
  · simp [intg, anyD, anyS, Fld.clean]
  · simp [intg, anyD, anyS, Fld.clean]
  · intro _; simp [intg, anyD, anyS, build, buildInt, Fld.bits, Opd.ofBits_bits, Ty.ofCode_code]

theorem sel (h : Hdr) (ty : Ty) (d : Opd) (a : Opd) (b : Opd) (c : Opd) : Statement (.sel h ty d a b c) := by
  refine roundTrip_of _ _ rfl ⟨?_, ?_, ?_⟩ ?_ ?_ ?_ ?_ ?_
  · simp [intg, anyD, anyS]
  · simp [intg, anyD, anyS]
  · simp [intg, anyD, anyS, Ty.code_lt]
  · cases d <;> simp [intg, anyD, anyS, Fld.ok, Fld.clean, Opd.anyDst]
  · simp [intg, anyD, anyS, Fld.clean]
  · simp [intg, anyD, anyS, Fld.clean]
  · simp [intg, anyD, anyS, Fld.clean]
  · intro _; simp [intg, anyD, anyS, build, buildInt, Fld.bits, Opd.ofBits_bits, Ty.ofCode_code]

theorem icmp (h : Hdr) (fn : Cmp) (ty : Ty) (d : Opd) (a : Opd) (b : Opd) : Statement (.icmp h fn ty d a b) := by
  refine roundTrip_of _ _ rfl ⟨?_, ?_, ?_⟩ ?_ ?_ ?_ ?_ ?_
  · simp [intg, anyD, anyS]
  · cases fn <;> simp [intg, anyD, anyS, Cmp.code]
  · simp [intg, anyD, anyS, Ty.code_lt]
  · cases d <;> simp [intg, anyD, anyS, Fld.ok, Fld.clean, Opd.anyDst]
  · cases fn <;> simp [intg, anyD, anyS, Fld.clean]
  · cases fn <;> simp [intg, anyD, anyS, Fld.clean]
  · cases fn <;> simp [intg, anyD, anyS, Fld.clean]
  · intro _; cases fn <;> simp [intg, anyD, anyS, build, buildInt, Fld.bits, Opd.ofBits_bits, Ty.ofCode_code, Cmp.code,
      Cmp.ofCode]

theorem lea (h : Hdr) (ty : Ty) (d : Opd) (a : Opd) (b : Opd) (c : Opd) : Statement (.lea h ty d a b c) := by
  refine roundTrip_of _ _ rfl ⟨?_, ?_, ?_⟩ ?_ ?_ ?_ ?_ ?_
  · simp [intg, S, anyD, anyS]
  · simp [intg, S, anyD, anyS]
  · simp [intg, S, anyD, anyS, Ty.code_lt]
  · cases d <;> simp [intg, S, anyD, anyS, Fld.ok, Fld.clean, Opd.anyDst]
  · simp [intg, S, anyD, anyS, Fld.clean]
  · simp [intg, S, anyD, anyS, Fld.clean]
  · simp [intg, S, anyD, anyS, Fld.clean]
  · intro _; simp [intg, S, anyD, anyS, build, buildInt, Fld.bits, Opd.ofBits_bits, Ty.ofCode_code]

theorem mov (h : Hdr) (ty : Ty) (d : Opd) (a : Opd) : Statement (.mov h ty d a) := by
  refine roundTrip_of _ _ rfl ⟨?_, ?_, ?_⟩ ?_ ?_ ?_ ?_ ?_
  · simp [int1, intg, anyD, anyS]
  · simp [int1, intg, anyD, anyS]
  · simp [int1, intg, anyD, anyS, Ty.code_lt]
  · cases d <;> simp [int1, intg, anyD, anyS, Fld.ok, Fld.clean, Opd.anyDst]
  · simp [int1, intg, anyD, anyS, Fld.clean]
  · simp [int1, intg, anyD, anyS, Fld.clean]
  · simp [int1, intg, anyD, anyS, Fld.clean]
  · intro _; simp [int1, intg, anyD, anyS, build, buildInt, Fld.bits, Opd.ofBits_bits, Ty.ofCode_code]

theorem movl (h : Hdr) (ty : Ty) (d : Opd) (a : Opd) (b : Opd) : Statement (.movl h ty d a b) := by
  refine roundTrip_of _ _ rfl ⟨?_, ?_, ?_⟩ ?_ ?_ ?_ ?_ ?_
  · simp [int2, intg, anyD, anyS]
  · simp [int2, intg, anyD, anyS]
  · simp [int2, intg, anyD, anyS, Ty.code_lt]
  · cases d <;> simp [int2, intg, anyD, anyS, Fld.ok, Fld.clean, Opd.anyDst]
  · simp [int2, intg, anyD, anyS, Fld.clean]
  · simp [int2, intg, anyD, anyS, Fld.clean]
  · simp [int2, intg, anyD, anyS, Fld.clean]
  · intro _; simp [int2, intg, anyD, anyS, build, buildInt, Fld.bits, Opd.ofBits_bits, Ty.ofCode_code]

theorem cvt (h : Hdr) (sat : Bool) (ty : Ty) (sty : Ty) (d : Opd) (a : Opd) : Statement (.cvt h sat ty sty d a) := by
  refine roundTrip_of _ _ rfl ⟨by simp [intg], by cases sat <;> simp [intg, satFn] <;> omega, by simp [intg, Ty.code_lt]⟩
    ?_ trivial trivial trivial ?_
  · cases d <;> simp [intg, anyD, Fld.ok, Fld.clean, Opd.anyDst]
  · intro hw
    simp only [Instr.wf, Instr.shape, intg, Bool.and_eq_true] at hw
    have hs : sty.code % 8 = sty.code := by
      have := hw.1.1.1.1.2; simp only [Ty.isI, decide_eq_true_eq] at this; omega
    have hl : sty.code < 8 := by omega
    cases sat
    · simp [intg, anyD, anyS, build, buildInt, Fld.bits, Opd.ofBits_bits, Ty.ofCode_code, satFn, hs, hl]
    · simp [intg, anyD, anyS, build, buildInt, Fld.bits, Opd.ofBits_bits, Ty.ofCode_code, satFn, hs, Nat.add_mod_right,
        Nat.mod_eq_of_lt hl]

theorem pack (h : Hdr) (ty : Ty) (d : Opd) (a : Opd) (b : Opd) (c : Opd) : Statement (.pack h ty d a b c) := by
  refine roundTrip_of _ _ rfl ⟨?_, ?_, ?_⟩ ?_ ?_ ?_ ?_ ?_
  · simp [intg, anyD, anyS]
  · simp [intg, anyD, anyS]
  · simp [intg, anyD, anyS, Ty.code_lt]
  · cases d <;> simp [intg, anyD, anyS, Fld.ok, Fld.clean, Opd.anyDst]
  · simp [intg, anyD, anyS, Fld.clean]
  · simp [intg, anyD, anyS, Fld.clean]
  · simp [intg, anyD, anyS, Fld.clean]
  · intro _; simp [intg, anyD, anyS, build, buildInt, Fld.bits, Opd.ofBits_bits, Ty.ofCode_code]

theorem unpk (h : Hdr) (ty : Ty) (d : Opd) (a : Opd) (b : Opd) : Statement (.unpk h ty d a b) := by
  refine roundTrip_of _ _ rfl ⟨?_, ?_, ?_⟩ ?_ ?_ ?_ ?_ ?_
  · simp [intg, anyD, anyS]
  · simp [intg, anyD, anyS]
  · simp [intg, anyD, anyS, Ty.code_lt]
  · cases d <;> simp [intg, anyD, anyS, Fld.ok, Fld.clean, Opd.anyDst]
  · simp [intg, anyD, anyS, Fld.clean]
  · simp [intg, anyD, anyS, Fld.clean]
  · simp [intg, anyD, anyS, Fld.clean]
  · intro _; simp [intg, anyD, anyS, build, buildInt, Fld.bits, Opd.ofBits_bits, Ty.ofCode_code]

theorem idot4 (h : Hdr) (sat : Bool) (ty : Ty) (d : Opd) (a : Opd) (b : Opd) (c : Opd) :
    Statement (.idot4 h sat ty d a b c) := by
  refine roundTrip_of _ _ rfl ⟨?_, ?_, ?_⟩ ?_ ?_ ?_ ?_ ?_
  · simp [fnBit, anyD, anyS]
  · cases sat <;> simp [fnBit, anyD, anyS]
  · simp [fnBit, anyD, anyS, Ty.code_lt]
  · cases d <;> simp [fnBit, anyD, anyS, Fld.ok, Fld.clean, Opd.anyDst]
  · cases sat <;> simp [fnBit, anyD, anyS, Fld.clean]
  · cases sat <;> simp [fnBit, anyD, anyS, Fld.clean]
  · cases sat <;> simp [fnBit, anyD, anyS, Fld.clean]
  · intro _; cases sat <;> simp [fnBit, anyD, anyS, build, buildInt, Fld.bits, Opd.ofBits_bits, Ty.ofCode_code]

theorem movsRead (h : Hdr) (r : SReg) (d : Opd) : Statement (.movsRead h r d) := by
  refine roundTrip_of _ _ rfl ⟨by simp [movsShape], by simp [movsShape, fnBit]; omega, by simp [movsShape]⟩ ?_ ?_
    trivial trivial ?_
  · cases d <;> cases hg : h.g <;> simp [movsShape, D, Fld.ok, Fld.clean, Opd.isVO, Opd.isZ, Opd.isGZ, Opd.isG, hg]
  · have := SReg.code_clean r
    simpa [movsShape, Fld.clean] using this
  · intro hw
    have e : r.code / 1024 % 4 * 4 / 4 = r.code / 1024 % 4 := by omega
    have e2 : ¬(r.code / 1024 % 4 * 4 % 2 = 1) := by omega
    simp [movsShape, S, D, anyS, build, buildInt, buildInt.buildMovs, Fld.bits, Opd.ofBits_bits, fnBit, e, SReg.ofCode_code, e2]

theorem movsWrite (h : Hdr) (r : SReg) (a : Opd) : Statement (.movsWrite h r a) := by
  refine roundTrip_of _ _ rfl ⟨by simp [movsShape], by simp [movsShape, fnBit]; omega, by simp [movsShape]⟩ ?_ ?_
    trivial trivial ?_
  · simp [movsShape, Fld.clean]
  · have := SReg.code_clean r
    simpa [movsShape, Fld.clean] using this
  · intro hw
    have e : (r.code / 1024 % 4 * 4 + 1) / 4 = r.code / 1024 % 4 := by omega
    have hr : r ≠ .tagclr := by
      rintro rfl; simp [Instr.wf, Instr.shape, movsShape, Shape.formOk] at hw
    simp [movsShape, S, D, anyS, build, buildInt, buildInt.buildMovs, Fld.bits, Opd.ofBits_bits, fnBit, e, SReg.ofCode_code, hr, Nat.add_mod, Nat.mul_mod]

theorem tagclrWrite (h : Hdr) (a : Opd) : Statement (.tagclrWrite h a) := by
  refine roundTrip_of _ _ rfl ⟨by simp [movsShape], by simp [movsShape, fnBit]; omega, by simp [movsShape]⟩ ?_ ?_
    trivial trivial ?_
  · simp [movsShape, Fld.clean]
  · have := SReg.code_clean .tagclr
    simpa [movsShape, Fld.clean] using this
  · intro hw
    have e : (SReg.tagclr.code / 1024 % 4 * 4 + 1) / 4 = SReg.tagclr.code / 1024 % 4 := by omega
    simp [movsShape, S, D, anyS, build, buildInt, buildInt.buildMovs, Fld.bits, Opd.ofBits_bits, fnBit, e, SReg.ofCode_code, Nat.add_mod, Nat.mul_mod]

theorem pand (h : Hdr) (d : Opd) (a : Opd) (b : Opd) : Statement (.pand h d a b) := by
  refine roundTrip_of _ _ rfl ⟨?_, ?_, ?_⟩ ?_ ?_ ?_ ?_ ?_
  · simp [ctl, Instr.shape.pq, Instr.shape.pqs]
  · simp [ctl, Instr.shape.pq, Instr.shape.pqs]
  · simp [ctl, Instr.shape.pq, Instr.shape.pqs]
  · cases d <;> simp [ctl, Instr.shape.pq, Instr.shape.pqs, Fld.ok, Fld.clean, Opd.isP, Opd.isQ]
  · simp [ctl, Instr.shape.pq, Instr.shape.pqs, Fld.clean]
  · simp [ctl, Instr.shape.pq, Instr.shape.pqs, Fld.clean]
  · simp [ctl, Instr.shape.pq, Instr.shape.pqs, Fld.clean]
  · intro _; simp [ctl, Instr.shape.pq, Instr.shape.pqs, build, buildLaneFloat, Fld.bits, Opd.ofBits_bits]

theorem por (h : Hdr) (d : Opd) (a : Opd) (b : Opd) : Statement (.por h d a b) := by
  refine roundTrip_of _ _ rfl ⟨?_, ?_, ?_⟩ ?_ ?_ ?_ ?_ ?_
  · simp [ctl, Instr.shape.pq, Instr.shape.pqs]
  · simp [ctl, Instr.shape.pq, Instr.shape.pqs]
  · simp [ctl, Instr.shape.pq, Instr.shape.pqs]
  · cases d <;> simp [ctl, Instr.shape.pq, Instr.shape.pqs, Fld.ok, Fld.clean, Opd.isP, Opd.isQ]
  · simp [ctl, Instr.shape.pq, Instr.shape.pqs, Fld.clean]
  · simp [ctl, Instr.shape.pq, Instr.shape.pqs, Fld.clean]
  · simp [ctl, Instr.shape.pq, Instr.shape.pqs, Fld.clean]
  · intro _; simp [ctl, Instr.shape.pq, Instr.shape.pqs, build, buildLaneFloat, Fld.bits, Opd.ofBits_bits]

theorem pxor (h : Hdr) (d : Opd) (a : Opd) (b : Opd) : Statement (.pxor h d a b) := by
  refine roundTrip_of _ _ rfl ⟨?_, ?_, ?_⟩ ?_ ?_ ?_ ?_ ?_
  · simp [ctl, Instr.shape.pq, Instr.shape.pqs]
  · simp [ctl, Instr.shape.pq, Instr.shape.pqs]
  · simp [ctl, Instr.shape.pq, Instr.shape.pqs]
  · cases d <;> simp [ctl, Instr.shape.pq, Instr.shape.pqs, Fld.ok, Fld.clean, Opd.isP, Opd.isQ]
  · simp [ctl, Instr.shape.pq, Instr.shape.pqs, Fld.clean]
  · simp [ctl, Instr.shape.pq, Instr.shape.pqs, Fld.clean]
  · simp [ctl, Instr.shape.pq, Instr.shape.pqs, Fld.clean]
  · intro _; simp [ctl, Instr.shape.pq, Instr.shape.pqs, build, buildLaneFloat, Fld.bits, Opd.ofBits_bits]

theorem pnot (h : Hdr) (d : Opd) (a : Opd) : Statement (.pnot h d a) := by
  refine roundTrip_of _ _ rfl ⟨?_, ?_, ?_⟩ ?_ ?_ ?_ ?_ ?_
  · simp [ctl, Instr.shape.pq, Instr.shape.pqs]
  · simp [ctl, Instr.shape.pq, Instr.shape.pqs]
  · simp [ctl, Instr.shape.pq, Instr.shape.pqs]
  · cases d <;> simp [ctl, Instr.shape.pq, Instr.shape.pqs, Fld.ok, Fld.clean, Opd.isP, Opd.isQ]
  · simp [ctl, Instr.shape.pq, Instr.shape.pqs, Fld.clean]
  · simp [ctl, Instr.shape.pq, Instr.shape.pqs, Fld.clean]
  · simp [ctl, Instr.shape.pq, Instr.shape.pqs, Fld.clean]
  · intro _; simp [ctl, Instr.shape.pq, Instr.shape.pqs, build, buildLaneFloat, Fld.bits, Opd.ofBits_bits]

theorem pmov (h : Hdr) (d : Opd) (a : Opd) : Statement (.pmov h d a) := by
  refine roundTrip_of _ _ rfl ⟨?_, ?_, ?_⟩ ?_ ?_ ?_ ?_ ?_
  · simp [ctl, S, D]
  · simp [ctl, S, D]
  · simp [ctl, S, D]
  · cases d <;> simp [ctl, S, D, Fld.ok, Fld.clean, Opd.isG, Opd.isP, Opd.isQ]
  · simp [ctl, S, D, Fld.clean]
  · simp [ctl, S, D, Fld.clean]
  · simp [ctl, S, D, Fld.clean]
  · intro _; simp [ctl, S, D, build, buildLaneFloat, Fld.bits, Opd.ofBits_bits]

theorem vote (h : Hdr) (fn : VoteFn) (d : Opd) (a : Opd) : Statement (.vote h fn d a) := by
  refine roundTrip_of _ _ rfl ⟨?_, ?_, ?_⟩ ?_ ?_ ?_ ?_ ?_
  · simp [D, anyS]
  · cases fn <;> simp [D, anyS, VoteFn.code]
  · simp [D, anyS]
  · cases d <;> simp [D, anyS, Fld.ok, Fld.clean, Opd.isVO, Opd.isG, Opd.isP, Opd.isQ]
  · cases fn <;> simp [D, anyS, Fld.clean]
  · cases fn <;> simp [D, anyS, Fld.clean]
  · cases fn <;> simp [D, anyS, Fld.clean]
  · intro _; cases fn <;> simp [D, anyS, build, buildLaneFloat, Fld.bits, Opd.ofBits_bits, VoteFn.code, VoteFn.ofCode]

theorem shfl (h : Hdr) (fn : ShflFn) (ty : Ty) (d : Opd) (a : Opd) (b : Opd) (c : Opd) :
    Statement (.shfl h fn ty d a b c) := by
  refine roundTrip_of _ _ rfl ⟨?_, ?_, ?_⟩ ?_ ?_ ?_ ?_ ?_
  · simp [S, D, anyS]
  · cases fn <;> simp [S, D, anyS, ShflFn.code]
  · simp [S, D, anyS, Ty.code_lt]
  · cases d <;> simp [S, D, anyS, Fld.ok, Fld.clean, Opd.isVO]
  · cases fn <;> simp [S, D, anyS, Fld.clean]
  · cases fn <;> simp [S, D, anyS, Fld.clean]
  · cases fn <;> simp [S, D, anyS, Fld.clean]
  · intro _; cases fn <;> simp [S, D, anyS, build, buildLaneFloat, Fld.bits, Opd.ofBits_bits, Ty.ofCode_code, ShflFn.code,
      ShflFn.ofCode]

theorem permb (h : Hdr) (tbl : Bool) (d : Opd) (a : Opd) (b : Opd) (c : Opd) : Statement (.permb h tbl d a b c) := by
  refine roundTrip_of _ _ rfl ⟨?_, ?_, ?_⟩ ?_ ?_ ?_ ?_ ?_
  · simp [fnBit, S, D, anyS]
  · cases tbl <;> simp [fnBit, S, D, anyS]
  · simp [fnBit, S, D, anyS]
  · cases d <;> simp [fnBit, S, D, anyS, Fld.ok, Fld.clean, Opd.isVO]
  · cases tbl <;> simp [fnBit, S, D, anyS, Fld.clean]
  · cases tbl <;> simp [fnBit, S, D, anyS, Fld.clean]
  · cases tbl <;> simp [fnBit, S, D, anyS, Fld.clean]
  · intro _; cases tbl <;> simp [fnBit, S, D, anyS, build, buildLaneFloat, Fld.bits, Opd.ofBits_bits]

theorem lscan (h : Hdr) (fn : FoldFn) (excl : Bool) (ty : Ty) (d : Opd) (a : Opd) :
    Statement (.lscan h fn excl ty d a) := by
  refine roundTrip_of _ _ rfl ⟨?_, ?_, ?_⟩ ?_ ?_ ?_ ?_ ?_
  · simp [satFn, D, anyS]
  · cases fn <;> cases excl <;> simp [satFn, D, anyS, FoldFn.code]
  · simp [satFn, D, anyS, Ty.code_lt]
  · cases d <;> simp [satFn, D, anyS, Fld.ok, Fld.clean, Opd.isVO]
  · cases fn <;> cases excl <;> simp [satFn, D, anyS, Fld.clean]
  · cases fn <;> cases excl <;> simp [satFn, D, anyS, Fld.clean]
  · cases fn <;> cases excl <;> simp [satFn, D, anyS, Fld.clean]
  · intro _; cases fn <;> cases excl <;> simp [satFn, D, anyS, build, buildLaneFloat, Fld.bits, Opd.ofBits_bits,
      Ty.ofCode_code, FoldFn.code, FoldFn.ofCode]

theorem lred (h : Hdr) (fn : FoldFn) (ty : Ty) (d : Opd) (a : Opd) : Statement (.lred h fn ty d a) := by
  refine roundTrip_of _ _ rfl ⟨?_, ?_, ?_⟩ ?_ ?_ ?_ ?_ ?_
  · simp [D, anyS]
  · cases fn <;> simp [D, anyS, FoldFn.code]
  · simp [D, anyS, Ty.code_lt]
  · cases d <;> simp [D, anyS, Fld.ok, Fld.clean, Opd.isVO, Opd.isG]
  · cases fn <;> simp [D, anyS, Fld.clean]
  · cases fn <;> simp [D, anyS, Fld.clean]
  · cases fn <;> simp [D, anyS, Fld.clean]
  · intro _; cases fn <;> simp [D, anyS, build, buildLaneFloat, Fld.bits, Opd.ofBits_bits, Ty.ofCode_code, FoldFn.code,
      FoldFn.ofCode]

theorem lanexGet (h : Hdr) (ty : Ty) (d : Opd) (a : Opd) (b : Opd) : Statement (.lanexGet h ty d a b) := by
  refine roundTrip_of _ _ rfl ⟨?_, ?_, ?_⟩ ?_ ?_ ?_ ?_ ?_
  · simp [S, D]
  · simp [S, D]
  · simp [S, D, Ty.code_lt]
  · cases d <;> simp [S, D, Fld.ok, Fld.clean, Opd.isG]
  · simp [S, D, Fld.clean]
  · simp [S, D, Fld.clean]
  · simp [S, D, Fld.clean]
  · intro _; simp [S, D, build, buildLaneFloat, Fld.bits, Opd.ofBits_bits, Ty.ofCode_code]

theorem lanexPut (h : Hdr) (ty : Ty) (d : Opd) (a : Opd) (b : Opd) : Statement (.lanexPut h ty d a b) := by
  refine roundTrip_of _ _ rfl ⟨?_, ?_, ?_⟩ ?_ ?_ ?_ ?_ ?_
  · simp [S, D]
  · simp [S, D]
  · simp [S, D, Ty.code_lt]
  · cases d <;> simp [S, D, Fld.ok, Fld.clean, Opd.isVO]
  · simp [S, D, Fld.clean]
  · simp [S, D, Fld.clean]
  · simp [S, D, Fld.clean]
  · intro _; simp [S, D, build, buildLaneFloat, Fld.bits, Opd.ofBits_bits, Ty.ofCode_code]

theorem fadd (h : Hdr) (rm : Rm) (sat : Bool) (ty : Ty) (d : Opd) (a : Opd) (b : Opd) :
    Statement (.fadd h rm sat ty d a b) := by
  refine roundTrip_of _ _ rfl ⟨?_, ?_, ?_⟩ ?_ ?_ ?_ ?_ ?_
  · simp [Instr.shape.flt2, flt, anyD, anyS, satFn]
  · cases rm <;> cases sat <;> simp [Instr.shape.flt2, flt, anyD, anyS, satFn, Rm.code]
  · simp [Instr.shape.flt2, flt, anyD, anyS, satFn, Ty.code_lt]
  · cases d <;> simp [Instr.shape.flt2, flt, anyD, anyS, satFn, Fld.ok, Fld.clean, Opd.anyDst]
  · cases rm <;> cases sat <;> simp [Instr.shape.flt2, flt, anyD, anyS, satFn, Fld.clean]
  · cases rm <;> cases sat <;> simp [Instr.shape.flt2, flt, anyD, anyS, satFn, Fld.clean]
  · cases rm <;> cases sat <;> simp [Instr.shape.flt2, flt, anyD, anyS, satFn, Fld.clean]
  · intro _; cases rm <;> cases sat <;> simp [Instr.shape.flt2, flt, anyD, anyS, satFn, build, buildLaneFloat, Fld.bits,
      Opd.ofBits_bits, Ty.ofCode_code, Rm.code, Rm.ofCode]

theorem fsub (h : Hdr) (rm : Rm) (sat : Bool) (ty : Ty) (d : Opd) (a : Opd) (b : Opd) :
    Statement (.fsub h rm sat ty d a b) := by
  refine roundTrip_of _ _ rfl ⟨?_, ?_, ?_⟩ ?_ ?_ ?_ ?_ ?_
  · simp [Instr.shape.flt2, flt, anyD, anyS, satFn]
  · cases rm <;> cases sat <;> simp [Instr.shape.flt2, flt, anyD, anyS, satFn, Rm.code]
  · simp [Instr.shape.flt2, flt, anyD, anyS, satFn, Ty.code_lt]
  · cases d <;> simp [Instr.shape.flt2, flt, anyD, anyS, satFn, Fld.ok, Fld.clean, Opd.anyDst]
  · cases rm <;> cases sat <;> simp [Instr.shape.flt2, flt, anyD, anyS, satFn, Fld.clean]
  · cases rm <;> cases sat <;> simp [Instr.shape.flt2, flt, anyD, anyS, satFn, Fld.clean]
  · cases rm <;> cases sat <;> simp [Instr.shape.flt2, flt, anyD, anyS, satFn, Fld.clean]
  · intro _; cases rm <;> cases sat <;> simp [Instr.shape.flt2, flt, anyD, anyS, satFn, build, buildLaneFloat, Fld.bits,
      Opd.ofBits_bits, Ty.ofCode_code, Rm.code, Rm.ofCode]

theorem fmul (h : Hdr) (rm : Rm) (sat : Bool) (ty : Ty) (d : Opd) (a : Opd) (b : Opd) :
    Statement (.fmul h rm sat ty d a b) := by
  refine roundTrip_of _ _ rfl ⟨?_, ?_, ?_⟩ ?_ ?_ ?_ ?_ ?_
  · simp [Instr.shape.flt2, flt, anyD, anyS, satFn]
  · cases rm <;> cases sat <;> simp [Instr.shape.flt2, flt, anyD, anyS, satFn, Rm.code]
  · simp [Instr.shape.flt2, flt, anyD, anyS, satFn, Ty.code_lt]
  · cases d <;> simp [Instr.shape.flt2, flt, anyD, anyS, satFn, Fld.ok, Fld.clean, Opd.anyDst]
  · cases rm <;> cases sat <;> simp [Instr.shape.flt2, flt, anyD, anyS, satFn, Fld.clean]
  · cases rm <;> cases sat <;> simp [Instr.shape.flt2, flt, anyD, anyS, satFn, Fld.clean]
  · cases rm <;> cases sat <;> simp [Instr.shape.flt2, flt, anyD, anyS, satFn, Fld.clean]
  · intro _; cases rm <;> cases sat <;> simp [Instr.shape.flt2, flt, anyD, anyS, satFn, build, buildLaneFloat, Fld.bits,
      Opd.ofBits_bits, Ty.ofCode_code, Rm.code, Rm.ofCode]

theorem ffma (h : Hdr) (rm : Rm) (sat : Bool) (ty : Ty) (d : Opd) (a : Opd) (b : Opd) (c : Opd) :
    Statement (.ffma h rm sat ty d a b c) := by
  refine roundTrip_of _ _ rfl ⟨?_, ?_, ?_⟩ ?_ ?_ ?_ ?_ ?_
  · simp [flt, satFn, anyD, anyS]
  · cases rm <;> cases sat <;> simp [flt, satFn, anyD, anyS, Rm.code]
  · simp [flt, satFn, anyD, anyS, Ty.code_lt]
  · cases d <;> simp [flt, satFn, anyD, anyS, Fld.ok, Fld.clean, Opd.anyDst]
  · cases rm <;> cases sat <;> simp [flt, satFn, anyD, anyS, Fld.clean]
  · cases rm <;> cases sat <;> simp [flt, satFn, anyD, anyS, Fld.clean]
  · cases rm <;> cases sat <;> simp [flt, satFn, anyD, anyS, Fld.clean]
  · intro _; cases rm <;> cases sat <;> simp [flt, satFn, anyD, anyS, build, buildLaneFloat, Fld.bits, Opd.ofBits_bits,
      Ty.ofCode_code, Rm.code, Rm.ofCode]

theorem fmin (h : Hdr) (ty : Ty) (d : Opd) (a : Opd) (b : Opd) : Statement (.fmin h ty d a b) := by
  refine roundTrip_of _ _ rfl ⟨?_, ?_, ?_⟩ ?_ ?_ ?_ ?_ ?_
  · simp [flt, anyD, anyS]
  · simp [flt, anyD, anyS]
  · simp [flt, anyD, anyS, Ty.code_lt]
  · cases d <;> simp [flt, anyD, anyS, Fld.ok, Fld.clean, Opd.anyDst]
  · simp [flt, anyD, anyS, Fld.clean]
  · simp [flt, anyD, anyS, Fld.clean]
  · simp [flt, anyD, anyS, Fld.clean]
  · intro _; simp [flt, anyD, anyS, build, buildLaneFloat, Fld.bits, Opd.ofBits_bits, Ty.ofCode_code]

theorem fmax (h : Hdr) (ty : Ty) (d : Opd) (a : Opd) (b : Opd) : Statement (.fmax h ty d a b) := by
  refine roundTrip_of _ _ rfl ⟨?_, ?_, ?_⟩ ?_ ?_ ?_ ?_ ?_
  · simp [flt, anyD, anyS]
  · simp [flt, anyD, anyS]
  · simp [flt, anyD, anyS, Ty.code_lt]
  · cases d <;> simp [flt, anyD, anyS, Fld.ok, Fld.clean, Opd.anyDst]
  · simp [flt, anyD, anyS, Fld.clean]
  · simp [flt, anyD, anyS, Fld.clean]
  · simp [flt, anyD, anyS, Fld.clean]
  · intro _; simp [flt, anyD, anyS, build, buildLaneFloat, Fld.bits, Opd.ofBits_bits, Ty.ofCode_code]

theorem fcmp (h : Hdr) (fn : FCmp) (ty : Ty) (d : Opd) (a : Opd) (b : Opd) : Statement (.fcmp h fn ty d a b) := by
  refine roundTrip_of _ _ rfl ⟨?_, ?_, ?_⟩ ?_ ?_ ?_ ?_ ?_
  · simp [flt, D, anyS]
  · cases fn <;> simp [flt, D, anyS, FCmp.code]
  · simp [flt, D, anyS, Ty.code_lt]
  · cases d <;> simp [flt, D, anyS, Fld.ok, Fld.clean, Opd.isG, Opd.anyDst]
  · cases fn <;> simp [flt, D, anyS, Fld.clean]
  · cases fn <;> simp [flt, D, anyS, Fld.clean]
  · cases fn <;> simp [flt, D, anyS, Fld.clean]
  · intro _; cases fn <;> simp [flt, D, anyS, build, buildLaneFloat, Fld.bits, Opd.ofBits_bits, Ty.ofCode_code, FCmp.code,
      FCmp.ofCode]

theorem fclass (h : Hdr) (ty : Ty) (d : Opd) (a : Opd) : Statement (.fclass h ty d a) := by
  refine roundTrip_of _ _ rfl ⟨?_, ?_, ?_⟩ ?_ ?_ ?_ ?_ ?_
  · simp [flt, anyD, anyS]
  · simp [flt, anyD, anyS]
  · simp [flt, anyD, anyS, Ty.code_lt]
  · cases d <;> simp [flt, anyD, anyS, Fld.ok, Fld.clean, Opd.anyDst]
  · simp [flt, anyD, anyS, Fld.clean]
  · simp [flt, anyD, anyS, Fld.clean]
  · simp [flt, anyD, anyS, Fld.clean]
  · intro _; simp [flt, anyD, anyS, build, buildLaneFloat, Fld.bits, Opd.ofBits_bits, Ty.ofCode_code]

theorem frnd (h : Hdr) (rm : Rm) (ty : Ty) (d : Opd) (a : Opd) : Statement (.frnd h rm ty d a) := by
  refine roundTrip_of _ _ rfl ⟨?_, ?_, ?_⟩ ?_ ?_ ?_ ?_ ?_
  · simp [flt, anyD, anyS]
  · cases rm <;> simp [flt, anyD, anyS, Rm.code]
  · simp [flt, anyD, anyS, Ty.code_lt]
  · cases d <;> simp [flt, anyD, anyS, Fld.ok, Fld.clean, Opd.anyDst]
  · cases rm <;> simp [flt, anyD, anyS, Fld.clean]
  · cases rm <;> simp [flt, anyD, anyS, Fld.clean]
  · cases rm <;> simp [flt, anyD, anyS, Fld.clean]
  · intro _; cases rm <;> simp [flt, anyD, anyS, build, buildLaneFloat, Fld.bits, Opd.ofBits_bits, Ty.ofCode_code, Rm.code,
      Rm.ofCode]

theorem fcvt (h : Hdr) (rm : Rm) (sat : Bool) (ty : Ty) (sty : Ty) (d : Opd) (a : Opd) (b : Opd) : Statement (.fcvt h rm sat ty sty d a b) := by
  refine roundTrip_of _ _ rfl ⟨by simp [flt], by cases rm <;> cases sat <;> simp [flt, satFn, Rm.code],
    by simp [flt, Ty.code_lt]⟩ ?_ ?_ trivial trivial ?_
  · cases d <;> simp [flt, anyD, Fld.ok, Fld.clean, Opd.anyDst]
  · have := sty.code_lt
    simp only [flt, Fld.clean, BitVec.toNat_ofNat]; omega
  · intro hw
    have hs : sty.code % 1024 = sty.code := by have := sty.code_lt; omega
    cases rm <;> cases sat <;>
      simp [flt, anyD, anyS, S, build, buildLaneFloat, Fld.bits, Opd.ofBits_bits, Ty.ofCode_code, satFn, Rm.code,
        Rm.ofCode, hs]

theorem func (h : Hdr) (fn : FuncFn) (ty : Ty) (d : Opd) (a : Opd) : Statement (.func h fn ty d a) := by
  refine roundTrip_of _ _ rfl ⟨?_, ?_, ?_⟩ ?_ ?_ ?_ ?_ ?_
  · simp [anyD, anyS]
  · cases fn <;> simp [anyD, anyS, FuncFn.code]
  · simp [anyD, anyS, Ty.code_lt]
  · cases d <;> simp [anyD, anyS, Fld.ok, Fld.clean, Opd.anyDst]
  · cases fn <;> simp [anyD, anyS, Fld.clean]
  · cases fn <;> simp [anyD, anyS, Fld.clean]
  · cases fn <;> simp [anyD, anyS, Fld.clean]
  · intro _; cases fn <;> simp [anyD, anyS, build, buildLaneFloat, Fld.bits, Opd.ofBits_bits, Ty.ofCode_code, FuncFn.code,
      FuncFn.ofCode]

theorem hfma2 (h : Hdr) (rm : Rm) (sat : Bool) (ty : Ty) (d : Opd) (a : Opd) (b : Opd) (c : Opd) :
    Statement (.hfma2 h rm sat ty d a b c) := by
  refine roundTrip_of _ _ rfl ⟨?_, ?_, ?_⟩ ?_ ?_ ?_ ?_ ?_
  · simp [satFn, anyD, anyS]
  · cases rm <;> cases sat <;> simp [satFn, anyD, anyS, Rm.code]
  · simp [satFn, anyD, anyS, Ty.code_lt]
  · cases d <;> simp [satFn, anyD, anyS, Fld.ok, Fld.clean, Opd.anyDst]
  · cases rm <;> cases sat <;> simp [satFn, anyD, anyS, Fld.clean]
  · cases rm <;> cases sat <;> simp [satFn, anyD, anyS, Fld.clean]
  · cases rm <;> cases sat <;> simp [satFn, anyD, anyS, Fld.clean]
  · intro _; cases rm <;> cases sat <;> simp [satFn, anyD, anyS, build, buildLaneFloat, Fld.bits, Opd.ofBits_bits,
      Ty.ofCode_code, Rm.code, Rm.ofCode]

theorem fdot4 (h : Hdr) (rm : Rm) (sat : Bool) (ty : Ty) (d : Opd) (a : Opd) (b : Opd) (c : Opd) :
    Statement (.fdot4 h rm sat ty d a b c) := by
  refine roundTrip_of _ _ rfl ⟨?_, ?_, ?_⟩ ?_ ?_ ?_ ?_ ?_
  · simp [satFn, anyD, anyS]
  · cases rm <;> cases sat <;> simp [satFn, anyD, anyS, Rm.code]
  · simp [satFn, anyD, anyS, Ty.code_lt]
  · cases d <;> simp [satFn, anyD, anyS, Fld.ok, Fld.clean, Opd.anyDst]
  · cases rm <;> cases sat <;> simp [satFn, anyD, anyS, Fld.clean]
  · cases rm <;> cases sat <;> simp [satFn, anyD, anyS, Fld.clean]
  · cases rm <;> cases sat <;> simp [satFn, anyD, anyS, Fld.clean]
  · intro _; cases rm <;> cases sat <;> simp [satFn, anyD, anyS, build, buildLaneFloat, Fld.bits, Opd.ofBits_bits,
      Ty.ofCode_code, Rm.code, Rm.ofCode]

theorem fabs (h : Hdr) (ty : Ty) (d : Opd) (a : Opd) : Statement (.fabs h ty d a) := by
  refine roundTrip_of _ _ rfl ⟨?_, ?_, ?_⟩ ?_ ?_ ?_ ?_ ?_
  · simp [flt, anyD, anyS]
  · simp [flt, anyD, anyS]
  · simp [flt, anyD, anyS, Ty.code_lt]
  · cases d <;> simp [flt, anyD, anyS, Fld.ok, Fld.clean, Opd.anyDst]
  · simp [flt, anyD, anyS, Fld.clean]
  · simp [flt, anyD, anyS, Fld.clean]
  · simp [flt, anyD, anyS, Fld.clean]
  · intro _; simp [flt, anyD, anyS, build, buildLaneFloat, Fld.bits, Opd.ofBits_bits, Ty.ofCode_code]

theorem fneg (h : Hdr) (ty : Ty) (d : Opd) (a : Opd) : Statement (.fneg h ty d a) := by
  refine roundTrip_of _ _ rfl ⟨?_, ?_, ?_⟩ ?_ ?_ ?_ ?_ ?_
  · simp [flt, anyD, anyS]
  · simp [flt, anyD, anyS]
  · simp [flt, anyD, anyS, Ty.code_lt]
  · cases d <;> simp [flt, anyD, anyS, Fld.ok, Fld.clean, Opd.anyDst]
  · simp [flt, anyD, anyS, Fld.clean]
  · simp [flt, anyD, anyS, Fld.clean]
  · simp [flt, anyD, anyS, Fld.clean]
  · intro _; simp [flt, anyD, anyS, build, buildLaneFloat, Fld.bits, Opd.ofBits_bits, Ty.ofCode_code]

theorem fcopysign (h : Hdr) (ty : Ty) (d : Opd) (a : Opd) (b : Opd) : Statement (.fcopysign h ty d a b) := by
  refine roundTrip_of _ _ rfl ⟨?_, ?_, ?_⟩ ?_ ?_ ?_ ?_ ?_
  · simp [flt, anyD, anyS]
  · simp [flt, anyD, anyS]
  · simp [flt, anyD, anyS, Ty.code_lt]
  · cases d <;> simp [flt, anyD, anyS, Fld.ok, Fld.clean, Opd.anyDst]
  · simp [flt, anyD, anyS, Fld.clean]
  · simp [flt, anyD, anyS, Fld.clean]
  · simp [flt, anyD, anyS, Fld.clean]
  · intro _; simp [flt, anyD, anyS, build, buildLaneFloat, Fld.bits, Opd.ofBits_bits, Ty.ofCode_code]

theorem ld (h : Hdr) (ord : Order) (sp : Space) (ty : Ty) (d : Opd) (a : Opd) (b : Opd) (scope : Scope) : Statement (.ld h ord sp ty d a b scope) := by
  refine roundTrip_of _ _ rfl
    ⟨by simp, by cases ord <;> cases sp <;> simp [Order.code, Space.code], by simp [Ty.code_lt]⟩ ?_ ?_ trivial trivial ?_
  · cases d <;> simp [loadD, anyS, Fld.ok, Fld.clean, Opd.isG, Opd.isV, Opd.isZ, Opd.isGZ]
  · cases ord <;> cases scope <;> simp [scopeS, Scope.code, Fld.clean]
  · intro hw
    have hs : decide (ord ≠ .rlx) = true ∨ scope = .grp := by
      simp only [Instr.wf, Instr.shape, Bool.and_eq_true, Bool.or_eq_true, decide_eq_true_eq] at hw
      simpa using hw.1.1.1.1.2
    have hb := scope_back _ _ hs
    cases ord <;> cases sp <;>
      simp_all [build, buildMem, Fld.bits, Opd.ofBits_bits, Ty.ofCode_code, Order.code, Order.ofCode, Space.code,
        Space.ofCode, loadD, anyS, baseS, offS]

theorem st (h : Hdr) (ord : Order) (sp : Space) (ty : Ty) (d : Opd) (a : Opd) (b : Opd) (scope : Scope) : Statement (.st h ord sp ty d a b scope) := by
  refine roundTrip_of _ _ rfl
    ⟨by simp, by cases ord <;> cases sp <;> simp [Order.code, Space.code], by simp [Ty.code_lt]⟩ ?_ ?_ trivial trivial ?_
  · cases d <;> simp [anyS, Fld.ok, Fld.clean, Opd.isG, Opd.isV, Opd.isZ, Opd.isGZ]
  · cases ord <;> cases scope <;> simp [scopeS, Scope.code, Fld.clean]
  · intro hw
    have hs : decide (ord ≠ .rlx) = true ∨ scope = .grp := by
      simp only [Instr.wf, Instr.shape, Bool.and_eq_true, Bool.or_eq_true, decide_eq_true_eq] at hw
      simpa using hw.1.1.1.1.2
    have hb := scope_back _ _ hs
    cases ord <;> cases sp <;>
      simp_all [build, buildMem, Fld.bits, Opd.ofBits_bits, Ty.ofCode_code, Order.code, Order.ofCode, Space.code,
        Space.ofCode, loadD, anyS, baseS, offS]

theorem atom (h : Hdr) (fn : AtomFn) (ord : Order) (scope : Scope) (sp : Space) (ty : Ty) (d : Opd) (a : Opd) (b : Opd) : Statement (.atom h fn ord scope sp ty d a b) := by
  refine roundTrip_of _ _ rfl ⟨by simp, by cases fn <;> simp [AtomFn.code], by simp [Ty.code_lt]⟩ ?_ ?_ trivial ?_ ?_
  · cases d <;> simp [loadD, Fld.ok, Fld.clean, Opd.isG, Opd.isV, Opd.isZ, Opd.isGZ]
  · cases ord <;> cases scope <;> cases sp <;> simp [atomCtl, Order.code, Space.code, Scope.code, Fld.clean]
  · cases fn <;> simp only [atomOpd] <;> (try split) <;> trivial
  · intro hw
    have hb : (atomOpd h fn ty b).bits = b.bits := by cases fn <;> simp only [atomOpd] <;> (try split) <;> rfl
    simp only [Fld.bits, BitVec.ofNat_eq_ofNat] at hb
    have h3 : (atomCtl ord scope sp).toNat = sp.code * 32 + scope.code * 4 + ord.code := by
      cases ord <;> cases scope <;> cases sp <;> rfl
    have ho : Order.ofCode ((sp.code * 32 + scope.code * 4 + ord.code) % 4) = ord := by
      cases ord <;> cases scope <;> cases sp <;> rfl
    have hc : Scope.ofCode ((sp.code * 32 + scope.code * 4 + ord.code) / 4 % 8) = scope := by
      cases ord <;> cases scope <;> cases sp <;> rfl
    have hp : Space.ofCode ((sp.code * 32 + scope.code * 4 + ord.code) / 32 % 4) = sp := by
      cases ord <;> cases scope <;> cases sp <;> rfl
    have hf : AtomFn.ofCode fn.code = fn := by cases fn <;> rfl
    simp [build, buildMem, Fld.bits, hb, h3, ho, hc, hp, hf, Opd.ofBits_bits, Ty.ofCode_code, loadD, atomAddr]

theorem atomo (h : Hdr) (fn : FoldFn) (ty : Ty) (a : Opd) (b : Opd) (c : Opd) : Statement (.atomo h fn ty a b c) := by
  refine roundTrip_of _ _ rfl ⟨?_, ?_, ?_⟩ ?_ ?_ ?_ ?_ ?_
  · simp [anyS, atomAddr]
  · cases fn <;> simp [anyS, atomAddr, FoldFn.code]
  · simp [anyS, atomAddr, Ty.code_lt]
  · simp [anyS, atomAddr, Fld.clean]
  · cases fn <;> simp [anyS, atomAddr, Fld.clean]
  · cases fn <;> simp [anyS, atomAddr, Fld.clean]
  · cases fn <;> simp [anyS, atomAddr, Fld.clean]
  · intro _; cases fn <;> simp [anyS, atomAddr, build, buildMem, Fld.bits, Opd.ofBits_bits, Ty.ofCode_code, FoldFn.code,
      FoldFn.ofCode]

theorem fence (h : Hdr) (ord : Order) (scope : Scope) : Statement (.fence h ord scope) := by
  refine roundTrip_of _ _ rfl ⟨by simp [gw], by cases ord <;> simp [gw, Order.code], by simp [gw]⟩ ?_ ?_ trivial trivial ?_
  · simp [gw, Fld.clean]
  · cases scope <;> simp [gw, scopeS, Scope.code, Fld.clean]
  · intro hw
    have hb := scope_back true scope (Or.inl rfl)
    cases ord <;> simp_all [gw, build, buildMem, Fld.bits, Order.code, Order.ofCode]

theorem pref (h : Hdr) (llc : Bool) (a : Opd) (b : Opd) : Statement (.pref h llc a b) := by
  refine roundTrip_of _ _ rfl ⟨?_, ?_, ?_⟩ ?_ ?_ ?_ ?_ ?_
  · simp [fnBit, baseS, offS]
  · cases llc <;> simp [fnBit, baseS, offS]
  · simp [fnBit, baseS, offS]
  · simp [fnBit, baseS, offS, Fld.clean]
  · cases llc <;> simp [fnBit, baseS, offS, Fld.clean]
  · cases llc <;> simp [fnBit, baseS, offS, Fld.clean]
  · cases llc <;> simp [fnBit, baseS, offS, Fld.clean]
  · intro _; cases llc <;> simp [fnBit, baseS, offS, build, buildMem, Fld.bits, Opd.ofBits_bits]

theorem cmaintInv (h : Hdr) (a : Opd) (b : Opd) : Statement (.cmaintInv h a b) := by
  refine roundTrip_of _ _ rfl ⟨?_, ?_, ?_⟩ ?_ ?_ ?_ ?_ ?_
  · simp [gw, S]
  · simp [gw, S]
  · simp [gw, S]
  · simp [gw, S, Fld.clean]
  · simp [gw, S, Fld.clean]
  · simp [gw, S, Fld.clean]
  · simp [gw, S, Fld.clean]
  · intro _; simp [gw, S, build, buildMem, Fld.bits, Opd.ofBits_bits]

theorem cmaintInvall (h : Hdr) : Statement (.cmaintInvall h) := by
  refine roundTrip_of _ _ rfl ⟨?_, ?_, ?_⟩ ?_ ?_ ?_ ?_ ?_
  · simp [gw]
  · simp [gw]
  · simp [gw]
  · simp [gw, Fld.clean]
  · simp [gw, Fld.clean]
  · simp [gw, Fld.clean]
  · simp [gw, Fld.clean]
  · intro _; simp [gw, build, buildMem, Fld.bits, Opd.ofBits_bits]

theorem tier (h : Hdr) (lp : Bool) (a : Opd) (b : Opd) (c : Opd) : Statement (.tier h lp a b c) := by
  refine roundTrip_of _ _ rfl ⟨?_, ?_, ?_⟩ ?_ ?_ ?_ ?_ ?_
  · simp [gw, fnBit, S]
  · cases lp <;> simp [gw, fnBit, S]
  · simp [gw, fnBit, S]
  · simp [gw, fnBit, S, Fld.clean]
  · cases lp <;> simp [gw, fnBit, S, Fld.clean]
  · cases lp <;> simp [gw, fnBit, S, Fld.clean]
  · cases lp <;> simp [gw, fnBit, S, Fld.clean]
  · intro _; cases lp <;> simp [gw, fnBit, S, build, buildMem, Fld.bits, Opd.ofBits_bits]

theorem ersv (h : Hdr) (d : Opd) (a : Opd) (b : Opd) : Statement (.ersv h d a b) := by
  refine roundTrip_of _ _ rfl ⟨?_, ?_, ?_⟩ ?_ ?_ ?_ ?_ ?_
  · simp [gw, S, D]
  · simp [gw, S, D]
  · simp [gw, S, D]
  · cases d <;> simp [gw, S, D, Fld.ok, Fld.clean, Opd.isQZ, Opd.isQ, Opd.isZ]
  · simp [gw, S, D, Fld.clean]
  · simp [gw, S, D, Fld.clean]
  · simp [gw, S, D, Fld.clean]
  · intro _; simp [gw, S, D, build, buildMem, Fld.bits, Opd.ofBits_bits]

theorem erel (h : Hdr) (a : Opd) : Statement (.erel h a) := by
  refine roundTrip_of _ _ rfl ⟨?_, ?_, ?_⟩ ?_ ?_ ?_ ?_ ?_
  · simp [gw, S]
  · simp [gw, S]
  · simp [gw, S]
  · simp [gw, S, Fld.clean]
  · simp [gw, S, Fld.clean]
  · simp [gw, S, Fld.clean]
  · simp [gw, S, Fld.clean]
  · intro _; simp [gw, S, build, buildMem, Fld.bits, Opd.ofBits_bits]

theorem edisc (h : Hdr) (a : Opd) (b : Opd) : Statement (.edisc h a b) := by
  refine roundTrip_of _ _ rfl ⟨?_, ?_, ?_⟩ ?_ ?_ ?_ ?_ ?_
  · simp [gw, S]
  · simp [gw, S]
  · simp [gw, S]
  · simp [gw, S, Fld.clean]
  · simp [gw, S, Fld.clean]
  · simp [gw, S, Fld.clean]
  · simp [gw, S, Fld.clean]
  · intro _; simp [gw, S, build, buildMem, Fld.bits, Opd.ofBits_bits]

theorem emig (h : Hdr) (a : Opd) (b : Opd) (c : Opd) : Statement (.emig h a b c) := by
  refine roundTrip_of _ _ rfl ⟨?_, ?_, ?_⟩ ?_ ?_ ?_ ?_ ?_
  · simp [gw, S]
  · simp [gw, S]
  · simp [gw, S]
  · simp [gw, S, Fld.clean]
  · simp [gw, S, Fld.clean]
  · simp [gw, S, Fld.clean]
  · simp [gw, S, Fld.clean]
  · intro _; simp [gw, S, build, buildMem, Fld.bits, Opd.ofBits_bits]

theorem rmset (h : Hdr) (d : Opd) (a : Opd) (b : Opd) (c : Opd) : Statement (.rmset h d a b c) := by
  refine roundTrip_of _ _ rfl ⟨?_, ?_, ?_⟩ ?_ ?_ ?_ ?_ ?_
  · simp [gw, S, D]
  · simp [gw, S, D]
  · simp [gw, S, D]
  · cases d <;> simp [gw, S, D, Fld.ok, Fld.clean, Opd.isGZ, Opd.isG, Opd.isZ]
  · simp [gw, S, D, Fld.clean]
  · simp [gw, S, D, Fld.clean]
  · simp [gw, S, D, Fld.clean]
  · intro _; simp [gw, S, D, build, buildSys, Fld.bits, Opd.ofBits_bits]

theorem rmsetGet (h : Hdr) (d : Opd) (a : Opd) (b : Opd) : Statement (.rmsetGet h d a b) := by
  refine roundTrip_of _ _ rfl ⟨?_, ?_, ?_⟩ ?_ ?_ ?_ ?_ ?_
  · simp [gw, S, D]
  · simp [gw, S, D]
  · simp [gw, S, D]
  · cases d <;> simp [gw, S, D, Fld.ok, Fld.clean, Opd.isGZ, Opd.isG, Opd.isZ]
  · simp [gw, S, D, Fld.clean]
  · simp [gw, S, D, Fld.clean]
  · simp [gw, S, D, Fld.clean]
  · intro _; simp [gw, S, D, build, buildSys, Fld.bits, Opd.ofBits_bits]

theorem rmrefInc (h : Hdr) (d : Opd) (a : Opd) (b : Opd) : Statement (.rmrefInc h d a b) := by
  refine roundTrip_of _ _ rfl ⟨?_, ?_, ?_⟩ ?_ ?_ ?_ ?_ ?_
  · simp [gw, S, D]
  · simp [gw, S, D]
  · simp [gw, S, D]
  · cases d <;> simp [gw, S, D, Fld.ok, Fld.clean, Opd.isGZ, Opd.isG, Opd.isZ]
  · simp [gw, S, D, Fld.clean]
  · simp [gw, S, D, Fld.clean]
  · simp [gw, S, D, Fld.clean]
  · intro _; simp [gw, S, D, build, buildSys, Fld.bits, Opd.ofBits_bits]

theorem rmrefDec (h : Hdr) (d : Opd) (a : Opd) (b : Opd) : Statement (.rmrefDec h d a b) := by
  refine roundTrip_of _ _ rfl ⟨?_, ?_, ?_⟩ ?_ ?_ ?_ ?_ ?_
  · simp [gw, S, D]
  · simp [gw, S, D]
  · simp [gw, S, D]
  · cases d <;> simp [gw, S, D, Fld.ok, Fld.clean, Opd.isGZ, Opd.isG, Opd.isZ]
  · simp [gw, S, D, Fld.clean]
  · simp [gw, S, D, Fld.clean]
  · simp [gw, S, D, Fld.clean]
  · intro _; simp [gw, S, D, build, buildSys, Fld.bits, Opd.ofBits_bits]

theorem rmrefGet (h : Hdr) (d : Opd) (a : Opd) (b : Opd) : Statement (.rmrefGet h d a b) := by
  refine roundTrip_of _ _ rfl ⟨?_, ?_, ?_⟩ ?_ ?_ ?_ ?_ ?_
  · simp [gw, S, D]
  · simp [gw, S, D]
  · simp [gw, S, D]
  · cases d <;> simp [gw, S, D, Fld.ok, Fld.clean, Opd.isGZ, Opd.isG, Opd.isZ]
  · simp [gw, S, D, Fld.clean]
  · simp [gw, S, D, Fld.clean]
  · simp [gw, S, D, Fld.clean]
  · intro _; simp [gw, S, D, build, buildSys, Fld.bits, Opd.ofBits_bits]

theorem rmrefSet (h : Hdr) (d : Opd) (a : Opd) (b : Opd) (c : Opd) : Statement (.rmrefSet h d a b c) := by
  refine roundTrip_of _ _ rfl ⟨?_, ?_, ?_⟩ ?_ ?_ ?_ ?_ ?_
  · simp [gw, S, D]
  · simp [gw, S, D]
  · simp [gw, S, D]
  · cases d <;> simp [gw, S, D, Fld.ok, Fld.clean, Opd.isGZ, Opd.isG, Opd.isZ]
  · simp [gw, S, D, Fld.clean]
  · simp [gw, S, D, Fld.clean]
  · simp [gw, S, D, Fld.clean]
  · intro _; simp [gw, S, D, build, buildSys, Fld.bits, Opd.ofBits_bits]

theorem msinit (h : Hdr) (kind : MsKind) (rearm : Bool) (chunk : Bool) (d : Opd) (a : Opd) (b : Opd) (c : Opd) :
    Statement (.msinit h kind rearm chunk d a b c) := by
  refine roundTrip_of _ _ rfl ⟨?_, ?_, ?_⟩ ?_ ?_ ?_ ?_ ?_
  · simp [gw, fnBit, S]
  · cases kind <;> cases rearm <;> cases chunk <;> simp [gw, fnBit, S, MsKind.code]
  · simp [gw, fnBit, S]
  · simp [gw, fnBit, S, Fld.clean]
  · cases kind <;> cases rearm <;> cases chunk <;> simp [gw, fnBit, S, Fld.clean]
  · cases kind <;> cases rearm <;> cases chunk <;> simp [gw, fnBit, S, Fld.clean]
  · cases kind <;> cases rearm <;> cases chunk <;> simp [gw, fnBit, S, Fld.clean]
  · intro _; cases kind <;> cases rearm <;> cases chunk <;> simp [gw, fnBit, S, build, buildMem, Fld.bits, Opd.ofBits_bits,
      MsKind.code, MsKind.ofCode]

theorem msarrArr (h : Hdr) (rel : Bool) (d : Opd) (a : Opd) (b : Opd) (scope : Scope) : Statement (.msarrArr h rel d a b scope) := by
  refine roundTrip_of _ _ rfl ⟨by simp [gw], by cases rel <;> simp [gw, fnBit], by simp [gw]⟩ ?_ ?_ trivial trivial ?_
  · cases d <;> simp [gw, D, Fld.ok, Fld.clean, Opd.isGZ, Opd.isG, Opd.isZ]
  · cases rel <;> cases scope <;> simp [gw, scopeS, Scope.code, Fld.clean]
  · intro hw
    have hs : rel = true ∨ scope = .grp := by
      simp only [Instr.wf, Instr.shape, gw, Bool.and_eq_true, Bool.or_eq_true, decide_eq_true_eq] at hw
      exact hw.1.1.1.1
    have hb := scope_back _ _ hs
    cases rel <;> simp_all [gw, S, D, build, buildMem, Fld.bits, Opd.ofBits_bits, fnBit]

theorem msarrExp (h : Hdr) (d : Opd) (a : Opd) (b : Opd) : Statement (.msarrExp h d a b) := by
  refine roundTrip_of _ _ rfl ⟨?_, ?_, ?_⟩ ?_ ?_ ?_ ?_ ?_
  · simp [gw, S, D]
  · simp [gw, S, D]
  · simp [gw, S, D]
  · cases d <;> simp [gw, S, D, Fld.ok, Fld.clean, Opd.isGZ, Opd.isG, Opd.isZ]
  · simp [gw, S, D, Fld.clean]
  · simp [gw, S, D, Fld.clean]
  · simp [gw, S, D, Fld.clean]
  · intro _; simp [gw, S, D, build, buildMem, Fld.bits, Opd.ofBits_bits]

theorem msbind (h : Hdr) (a : Opd) (b : Opd) : Statement (.msbind h a b) := by
  refine roundTrip_of _ _ rfl ⟨?_, ?_, ?_⟩ ?_ ?_ ?_ ?_ ?_
  · simp [gw, S]
  · simp [gw, S]
  · simp [gw, S]
  · simp [gw, S, Fld.clean]
  · simp [gw, S, Fld.clean]
  · simp [gw, S, Fld.clean]
  · simp [gw, S, Fld.clean]
  · intro _; simp [gw, S, build, buildMem, Fld.bits, Opd.ofBits_bits]

theorem msbindUnbind (h : Hdr) (a : Opd) : Statement (.msbindUnbind h a) := by
  refine roundTrip_of _ _ rfl ⟨?_, ?_, ?_⟩ ?_ ?_ ?_ ?_ ?_
  · simp [gw, S]
  · simp [gw, S]
  · simp [gw, S]
  · simp [gw, S, Fld.clean]
  · simp [gw, S, Fld.clean]
  · simp [gw, S, Fld.clean]
  · simp [gw, S, Fld.clean]
  · intro _; simp [gw, S, build, buildMem, Fld.bits, Opd.ofBits_bits]

theorem msqry (h : Hdr) (field : MsField) (acq : Bool) (d : Opd) (a : Opd) : Statement (.msqry h field acq d a) := by
  refine roundTrip_of _ _ rfl ⟨?_, ?_, ?_⟩ ?_ ?_ ?_ ?_ ?_
  · simp [gw, satFn, S, D]
  · cases field <;> cases acq <;> simp [gw, satFn, S, D, MsField.code]
  · simp [gw, satFn, S, D]
  · cases d <;> simp [gw, satFn, S, D, Fld.ok, Fld.clean, Opd.isG]
  · cases field <;> cases acq <;> simp [gw, satFn, S, D, Fld.clean]
  · cases field <;> cases acq <;> simp [gw, satFn, S, D, Fld.clean]
  · cases field <;> cases acq <;> simp [gw, satFn, S, D, Fld.clean]
  · intro _; cases field <;> cases acq <;> simp [gw, satFn, S, D, build, buildMem, Fld.bits, Opd.ofBits_bits, MsField.code,
      MsField.ofCode]

theorem trig (h : Hdr) (a : Opd) (b : Opd) (c : Opd) : Statement (.trig h a b c) := by
  refine roundTrip_of _ _ rfl ⟨?_, ?_, ?_⟩ ?_ ?_ ?_ ?_ ?_
  · simp [gw, S]
  · simp [gw, S]
  · simp [gw, S]
  · simp [gw, S, Fld.clean]
  · simp [gw, S, Fld.clean]
  · simp [gw, S, Fld.clean]
  · simp [gw, S, Fld.clean]
  · intro _; simp [gw, S, build, buildMem, Fld.bits, Opd.ofBits_bits]

theorem tdef (h : Hdr) (a : Opd) (b : Opd) : Statement (.tdef h a b) := by
  refine roundTrip_of _ _ rfl ⟨?_, ?_, ?_⟩ ?_ ?_ ?_ ?_ ?_
  · simp [gw, S]
  · simp [gw, S]
  · simp [gw, S]
  · simp [gw, S, Fld.clean]
  · simp [gw, S, Fld.clean]
  · simp [gw, S, Fld.clean]
  · simp [gw, S, Fld.clean]
  · intro _; simp [gw, S, build, buildMem, Fld.bits, Opd.ofBits_bits]

theorem tdefClr (h : Hdr) (b : Opd) : Statement (.tdefClr h b) := by
  refine roundTrip_of _ _ rfl ⟨?_, ?_, ?_⟩ ?_ ?_ ?_ ?_ ?_
  · simp [gw, S]
  · simp [gw, S]
  · simp [gw, S]
  · simp [gw, S, Fld.clean]
  · simp [gw, S, Fld.clean]
  · simp [gw, S, Fld.clean]
  · simp [gw, S, Fld.clean]
  · intro _; simp [gw, S, build, buildMem, Fld.bits, Opd.ofBits_bits]

theorem fres (h : Hdr) (a : Opd) (b : Opd) : Statement (.fres h a b) := by
  refine roundTrip_of _ _ rfl ⟨?_, ?_, ?_⟩ ?_ ?_ ?_ ?_ ?_
  · simp [gw, S]
  · simp [gw, S]
  · simp [gw, S]
  · simp [gw, S, Fld.clean]
  · simp [gw, S, Fld.clean]
  · simp [gw, S, Fld.clean]
  · simp [gw, S, Fld.clean]
  · intro _; simp [gw, S, build, buildMem, Fld.bits, Opd.ofBits_bits]

theorem freg (h : Hdr) (d : Opd) (a : Opd) (b : Opd) : Statement (.freg h d a b) := by
  refine roundTrip_of _ _ rfl ⟨?_, ?_, ?_⟩ ?_ ?_ ?_ ?_ ?_
  · simp [gw, S, D]
  · simp [gw, S, D]
  · simp [gw, S, D]
  · cases d <;> simp [gw, S, D, Fld.ok, Fld.clean, Opd.isQZ, Opd.isQ, Opd.isZ]
  · simp [gw, S, D, Fld.clean]
  · simp [gw, S, D, Fld.clean]
  · simp [gw, S, D, Fld.clean]
  · intro _; simp [gw, S, D, build, buildMem, Fld.bits, Opd.ofBits_bits]

theorem rst (h : Hdr) (ty : Ty) (d : Opd) (a : Opd) (b : Opd) : Statement (.rst h ty d a b) := by
  refine roundTrip_of _ _ rfl ⟨?_, ?_, ?_⟩ ?_ ?_ ?_ ?_ ?_
  · simp [anyS, remAddr, slotS]
  · simp [anyS, remAddr, slotS]
  · simp [anyS, remAddr, slotS, Ty.code_lt]
  · simp [anyS, remAddr, slotS, Fld.clean]
  · simp [anyS, remAddr, slotS, Fld.clean]
  · simp [anyS, remAddr, slotS, Fld.clean]
  · simp [anyS, remAddr, slotS, Fld.clean]
  · intro _; simp [anyS, remAddr, slotS, build, buildSys, Fld.bits, Opd.ofBits_bits, Ty.ofCode_code]

theorem rred (h : Hdr) (fn : FoldFn) (ty : Ty) (d : Opd) (a : Opd) (b : Opd) (c : Opd) :
    Statement (.rred h fn ty d a b c) := by
  refine roundTrip_of _ _ rfl ⟨?_, ?_, ?_⟩ ?_ ?_ ?_ ?_ ?_
  · simp [S, anyS, slotS]
  · cases fn <;> simp [S, anyS, slotS, FoldFn.code]
  · simp [S, anyS, slotS, Ty.code_lt]
  · simp [S, anyS, slotS, Fld.clean]
  · cases fn <;> simp [S, anyS, slotS, Fld.clean]
  · cases fn <;> simp [S, anyS, slotS, Fld.clean]
  · cases fn <;> simp [S, anyS, slotS, Fld.clean]
  · intro _; cases fn <;> simp [S, anyS, slotS, build, buildSys, Fld.bits, Opd.ofBits_bits, Ty.ofCode_code, FoldFn.code,
      FoldFn.ofCode]

theorem ratom (h : Hdr) (fn : AtomFn) (ty : Ty) (d : Opd) (a : Opd) (b : Opd) (c : Opd) : Statement (.ratom h fn ty d a b c) := by
  refine roundTrip_of _ _ rfl ⟨by simp, by cases fn <;> simp [AtomFn.code], by simp [Ty.code_lt]⟩ ?_ trivial trivial ?_ ?_
  · cases d <;> simp [loadD, Fld.ok, Fld.clean, Opd.isG, Opd.isV, Opd.isZ, Opd.isGZ]
  · cases fn <;> simp only [atomOpd] <;> (try split) <;> trivial
  · intro hw
    have hb : (atomOpd h fn ty b).bits = b.bits := by cases fn <;> simp only [atomOpd] <;> (try split) <;> rfl
    simp only [Fld.bits, BitVec.ofNat_eq_ofNat] at hb
    have hf : AtomFn.ofCode fn.code = fn := by cases fn <;> rfl
    simp [build, buildSys, Fld.bits, hb, hf, Opd.ofBits_bits, Ty.ofCode_code, loadD, remAddr, slotS]

theorem rld (h : Hdr) (ty : Ty) (d : Opd) (a : Opd) (b : Opd) : Statement (.rld h ty d a b) := by
  refine roundTrip_of _ _ rfl ⟨?_, ?_, ?_⟩ ?_ ?_ ?_ ?_ ?_
  · simp [D, remAddr, slotS]
  · simp [D, remAddr, slotS]
  · simp [D, remAddr, slotS, Ty.code_lt]
  · cases d <;> simp [D, remAddr, slotS, Fld.ok, Fld.clean, Opd.isV, Opd.isG]
  · simp [D, remAddr, slotS, Fld.clean]
  · simp [D, remAddr, slotS, Fld.clean]
  · simp [D, remAddr, slotS, Fld.clean]
  · intro _; simp [D, remAddr, slotS, build, buildSys, Fld.bits, Opd.ofBits_bits, Ty.ofCode_code]

theorem rcopy (h : Hdr) (a : Opd) (b : Opd) : Statement (.rcopy h a b) := by
  refine roundTrip_of _ _ rfl ⟨?_, ?_, ?_⟩ ?_ ?_ ?_ ?_ ?_
  · simp [gw, S, slotS]
  · simp [gw, S, slotS]
  · simp [gw, S, slotS]
  · simp [gw, S, slotS, Fld.clean]
  · simp [gw, S, slotS, Fld.clean]
  · simp [gw, S, slotS, Fld.clean]
  · simp [gw, S, slotS, Fld.clean]
  · intro _; simp [gw, S, slotS, build, buildSys, Fld.bits, Opd.ofBits_bits]

theorem sabind (h : Hdr) (a : Opd) (b : Opd) (c : Opd) : Statement (.sabind h a b c) := by
  refine roundTrip_of _ _ rfl ⟨?_, ?_, ?_⟩ ?_ ?_ ?_ ?_ ?_
  · simp [gw, S, slotS]
  · simp [gw, S, slotS]
  · simp [gw, S, slotS]
  · simp [gw, S, slotS, Fld.clean]
  · simp [gw, S, slotS, Fld.clean]
  · simp [gw, S, slotS, Fld.clean]
  · simp [gw, S, slotS, Fld.clean]
  · intro _; simp [gw, S, slotS, build, buildSys, Fld.bits, Opd.ofBits_bits]

theorem sabindDst (h : Hdr) (a : Opd) (b : Opd) : Statement (.sabindDst h a b) := by
  refine roundTrip_of _ _ rfl ⟨?_, ?_, ?_⟩ ?_ ?_ ?_ ?_ ?_
  · simp [gw, S, slotS]
  · simp [gw, S, slotS]
  · simp [gw, S, slotS]
  · simp [gw, S, slotS, Fld.clean]
  · simp [gw, S, slotS, Fld.clean]
  · simp [gw, S, slotS, Fld.clean]
  · simp [gw, S, slotS, Fld.clean]
  · intro _; simp [gw, S, slotS, build, buildSys, Fld.bits, Opd.ofBits_bits]

theorem sabindClr (h : Hdr) (a : Opd) : Statement (.sabindClr h a) := by
  refine roundTrip_of _ _ rfl ⟨?_, ?_, ?_⟩ ?_ ?_ ?_ ?_ ?_
  · simp [gw, slotS]
  · simp [gw, slotS]
  · simp [gw, slotS]
  · simp [gw, slotS, Fld.clean]
  · simp [gw, slotS, Fld.clean]
  · simp [gw, slotS, Fld.clean]
  · simp [gw, slotS, Fld.clean]
  · intro _; simp [gw, slotS, build, buildSys, Fld.bits, Opd.ofBits_bits]

theorem pcnt (h : Hdr) (d : Opd) (a : Opd) : Statement (.pcnt h d a) := by
  refine roundTrip_of _ _ rfl ⟨?_, ?_, ?_⟩ ?_ ?_ ?_ ?_ ?_
  · simp [gw, S, D]
  · simp [gw, S, D]
  · simp [gw, S, D]
  · cases d <;> simp [gw, S, D, Fld.ok, Fld.clean, Opd.isG]
  · simp [gw, S, D, Fld.clean]
  · simp [gw, S, D, Fld.clean]
  · simp [gw, S, D, Fld.clean]
  · intro _; simp [gw, S, D, build, buildSys, Fld.bits, Opd.ofBits_bits]

theorem qld (h : Hdr) (a : Opd) (b : Opd) (c : Opd) : Statement (.qld h a b c) := by
  refine roundTrip_of _ _ rfl ⟨?_, ?_, ?_⟩ ?_ ?_ ?_ ?_ ?_
  · simp [gw, S]
  · simp [gw, S]
  · simp [gw, S]
  · simp [gw, S, Fld.clean]
  · simp [gw, S, Fld.clean]
  · simp [gw, S, Fld.clean]
  · simp [gw, S, Fld.clean]
  · intro _; simp [gw, S, build, buildSys, Fld.bits, Opd.ofBits_bits]

theorem qset (h : Hdr) (a : Opd) : Statement (.qset h a) := by
  refine roundTrip_of _ _ rfl ⟨?_, ?_, ?_⟩ ?_ ?_ ?_ ?_ ?_
  · simp [gw, S]
  · simp [gw, S]
  · simp [gw, S]
  · simp [gw, S, Fld.clean]
  · simp [gw, S, Fld.clean]
  · simp [gw, S, Fld.clean]
  · simp [gw, S, Fld.clean]
  · intro _; simp [gw, S, build, buildSys, Fld.bits, Opd.ofBits_bits]

theorem qrs (h : Hdr) (ty : Ty) (d : Opd) (a : Opd) (b : Opd) : Statement (.qrs h ty d a b) := by
  refine roundTrip_of _ _ rfl ⟨?_, ?_, ?_⟩ ?_ ?_ ?_ ?_ ?_
  · simp [D, anyS]
  · simp [D, anyS]
  · simp [D, anyS, Ty.code_lt]
  · cases d <;> simp [D, anyS, Fld.ok, Fld.clean, Opd.isVO]
  · simp [D, anyS, Fld.clean]
  · simp [D, anyS, Fld.clean]
  · simp [D, anyS, Fld.clean]
  · intro _; simp [D, anyS, build, buildSys, Fld.bits, Opd.ofBits_bits, Ty.ofCode_code]

theorem mma (h : Hdr) (a : Opd) (b : Opd) : Statement (.mma h a b) := by
  refine roundTrip_of _ _ rfl ⟨?_, ?_, ?_⟩ ?_ ?_ ?_ ?_ ?_
  · simp [gw, S]
  · simp [gw, S]
  · simp [gw, S]
  · simp [gw, S, Fld.clean]
  · simp [gw, S, Fld.clean]
  · simp [gw, S, Fld.clean]
  · simp [gw, S, Fld.clean]
  · intro _; simp [gw, S, build, buildSys, Fld.bits, Opd.ofBits_bits]

theorem mmaNew (h : Hdr) (d : Opd) (a : Opd) (b : Opd) : Statement (.mmaNew h d a b) := by
  refine roundTrip_of _ _ rfl ⟨?_, ?_, ?_⟩ ?_ ?_ ?_ ?_ ?_
  · simp [gw, S, D]
  · simp [gw, S, D]
  · simp [gw, S, D]
  · cases d <;> simp [gw, S, D, Fld.ok, Fld.clean, Opd.isG]
  · simp [gw, S, D, Fld.clean]
  · simp [gw, S, D, Fld.clean]
  · simp [gw, S, D, Fld.clean]
  · intro _; simp [gw, S, D, build, buildSys, Fld.bits, Opd.ofBits_bits]

theorem mmas (h : Hdr) (a : Opd) (b : Opd) (c : Opd) : Statement (.mmas h a b c) := by
  refine roundTrip_of _ _ rfl ⟨?_, ?_, ?_⟩ ?_ ?_ ?_ ?_ ?_
  · simp [gw, S]
  · simp [gw, S]
  · simp [gw, S]
  · simp [gw, S, Fld.clean]
  · simp [gw, S, Fld.clean]
  · simp [gw, S, Fld.clean]
  · simp [gw, S, Fld.clean]
  · intro _; simp [gw, S, build, buildSys, Fld.bits, Opd.ofBits_bits]

theorem mmasNew (h : Hdr) (d : Opd) (a : Opd) (b : Opd) (c : Opd) : Statement (.mmasNew h d a b c) := by
  refine roundTrip_of _ _ rfl ⟨?_, ?_, ?_⟩ ?_ ?_ ?_ ?_ ?_
  · simp [gw, S, D]
  · simp [gw, S, D]
  · simp [gw, S, D]
  · cases d <;> simp [gw, S, D, Fld.ok, Fld.clean, Opd.isG]
  · simp [gw, S, D, Fld.clean]
  · simp [gw, S, D, Fld.clean]
  · simp [gw, S, D, Fld.clean]
  · intro _; simp [gw, S, D, build, buildSys, Fld.bits, Opd.ofBits_bits]

theorem accrel (h : Hdr) (a : Opd) : Statement (.accrel h a) := by
  refine roundTrip_of _ _ rfl ⟨?_, ?_, ?_⟩ ?_ ?_ ?_ ?_ ?_
  · simp [gw, S]
  · simp [gw, S]
  · simp [gw, S]
  · simp [gw, S, Fld.clean]
  · simp [gw, S, Fld.clean]
  · simp [gw, S, Fld.clean]
  · simp [gw, S, Fld.clean]
  · intro _; simp [gw, S, build, buildSys, Fld.bits, Opd.ofBits_bits]

theorem accdr (h : Hdr) (ty : Ty) (d : Opd) (a : Opd) (b : Opd) : Statement (.accdr h ty d a b) := by
  refine roundTrip_of _ _ rfl ⟨?_, ?_, ?_⟩ ?_ ?_ ?_ ?_ ?_
  · simp [S, D]
  · simp [S, D]
  · simp [S, D, Ty.code_lt]
  · cases d <;> simp [S, D, Fld.ok, Fld.clean, Opd.isV]
  · simp [S, D, Fld.clean]
  · simp [S, D, Fld.clean]
  · simp [S, D, Fld.clean]
  · intro _; simp [S, D, build, buildSys, Fld.bits, Opd.ofBits_bits, Ty.ofCode_code]

theorem cmpsVal (h : Hdr) (ty : Ty) (d : Opd) (a : Opd) : Statement (.cmpsVal h ty d a) := by
  refine roundTrip_of _ _ rfl ⟨?_, ?_, ?_⟩ ?_ ?_ ?_ ?_ ?_
  · simp [S, D]
  · simp [S, D]
  · simp [S, D, Ty.code_lt]
  · cases d <;> simp [S, D, Fld.ok, Fld.clean, Opd.isVO]
  · simp [S, D, Fld.clean]
  · simp [S, D, Fld.clean]
  · simp [S, D, Fld.clean]
  · intro _; simp [S, D, build, buildSys, Fld.bits, Opd.ofBits_bits, Ty.ofCode_code]

theorem cmpsMeta (h : Hdr) (ty : Ty) (d : Opd) (a : Opd) : Statement (.cmpsMeta h ty d a) := by
  refine roundTrip_of _ _ rfl ⟨?_, ?_, ?_⟩ ?_ ?_ ?_ ?_ ?_
  · simp [S, D]
  · simp [S, D]
  · simp [S, D, Ty.code_lt]
  · cases d <;> simp [S, D, Fld.ok, Fld.clean, Opd.isVO]
  · simp [S, D, Fld.clean]
  · simp [S, D, Fld.clean]
  · simp [S, D, Fld.clean]
  · intro _; simp [S, D, build, buildSys, Fld.bits, Opd.ofBits_bits, Ty.ofCode_code]

theorem cbdec (h : Hdr) (ty : Ty) (d : Opd) (a : Opd) (b : Opd) : Statement (.cbdec h ty d a b) := by
  refine roundTrip_of _ _ rfl ⟨?_, ?_, ?_⟩ ?_ ?_ ?_ ?_ ?_
  · simp [D, anyS]
  · simp [D, anyS]
  · simp [D, anyS, Ty.code_lt]
  · cases d <;> simp [D, anyS, Fld.ok, Fld.clean, Opd.isVO]
  · simp [D, anyS, Fld.clean]
  · simp [D, anyS, Fld.clean]
  · simp [D, anyS, Fld.clean]
  · intro _; simp [D, anyS, build, buildSys, Fld.bits, Opd.ofBits_bits, Ty.ofCode_code]

theorem strmCnt (h : Hdr) (d : Opd) (a : Opd) : Statement (.strmCnt h d a) := by
  refine roundTrip_of _ _ rfl ⟨?_, ?_, ?_⟩ ?_ ?_ ?_ ?_ ?_
  · simp [gw, S, D]
  · simp [gw, S, D]
  · simp [gw, S, D]
  · cases d <;> simp [gw, S, D, Fld.ok, Fld.clean, Opd.isG]
  · simp [gw, S, D, Fld.clean]
  · simp [gw, S, D, Fld.clean]
  · simp [gw, S, D, Fld.clean]
  · intro _; simp [gw, S, D, build, buildSys, Fld.bits, Opd.ofBits_bits]

theorem strmDrop (h : Hdr) (d : Opd) (a : Opd) (b : Opd) : Statement (.strmDrop h d a b) := by
  refine roundTrip_of _ _ rfl ⟨?_, ?_, ?_⟩ ?_ ?_ ?_ ?_ ?_
  · simp [gw, S, D]
  · simp [gw, S, D]
  · simp [gw, S, D]
  · cases d <;> simp [gw, S, D, Fld.ok, Fld.clean, Opd.isGZ, Opd.isG, Opd.isZ]
  · simp [gw, S, D, Fld.clean]
  · simp [gw, S, D, Fld.clean]
  · simp [gw, S, D, Fld.clean]
  · intro _; simp [gw, S, D, build, buildSys, Fld.bits, Opd.ofBits_bits]

theorem cbld (h : Hdr) (a : Opd) : Statement (.cbld h a) := by
  refine roundTrip_of _ _ rfl ⟨?_, ?_, ?_⟩ ?_ ?_ ?_ ?_ ?_
  · simp [gw, S]
  · simp [gw, S]
  · simp [gw, S]
  · simp [gw, S, Fld.clean]
  · simp [gw, S, Fld.clean]
  · simp [gw, S, Fld.clean]
  · simp [gw, S, Fld.clean]
  · intro _; simp [gw, S, build, buildSys, Fld.bits, Opd.ofBits_bits]

theorem launch (h : Hdr) (d : Opd) (a : Opd) : Statement (.launch h d a) := by
  refine roundTrip_of _ _ rfl ⟨?_, ?_, ?_⟩ ?_ ?_ ?_ ?_ ?_
  · simp [gw, S, D]
  · simp [gw, S, D]
  · simp [gw, S, D]
  · cases d <;> simp [gw, S, D, Fld.ok, Fld.clean, Opd.isGZ, Opd.isG, Opd.isZ]
  · simp [gw, S, D, Fld.clean]
  · simp [gw, S, D, Fld.clean]
  · simp [gw, S, D, Fld.clean]
  · intro _; simp [gw, S, D, build, buildSys, Fld.bits, Opd.ofBits_bits]

theorem rgrow (h : Hdr) (a : Opd) : Statement (.rgrow h a) := by
  refine roundTrip_of _ _ rfl ⟨?_, ?_, ?_⟩ ?_ ?_ ?_ ?_ ?_
  · simp [gw, S]
  · simp [gw, S]
  · simp [gw, S]
  · simp [gw, S, Fld.clean]
  · simp [gw, S, Fld.clean]
  · simp [gw, S, Fld.clean]
  · simp [gw, S, Fld.clean]
  · intro _; simp [gw, S, build, buildSys, Fld.bits, Opd.ofBits_bits]

theorem rshrk (h : Hdr) (a : Opd) : Statement (.rshrk h a) := by
  refine roundTrip_of _ _ rfl ⟨?_, ?_, ?_⟩ ?_ ?_ ?_ ?_ ?_
  · simp [gw, S]
  · simp [gw, S]
  · simp [gw, S]
  · simp [gw, S, Fld.clean]
  · simp [gw, S, Fld.clean]
  · simp [gw, S, Fld.clean]
  · simp [gw, S, Fld.clean]
  · intro _; simp [gw, S, build, buildSys, Fld.bits, Opd.ofBits_bits]

theorem probe (h : Hdr) (a : Opd) : Statement (.probe h a) := by
  refine roundTrip_of _ _ rfl ⟨?_, ?_, ?_⟩ ?_ ?_ ?_ ?_ ?_
  · simp [gw, S]
  · simp [gw, S]
  · simp [gw, S]
  · simp [gw, S, Fld.clean]
  · simp [gw, S, Fld.clean]
  · simp [gw, S, Fld.clean]
  · simp [gw, S, Fld.clean]
  · intro _; simp [gw, S, build, buildSys, Fld.bits, Opd.ofBits_bits]

theorem qrsStateLoad (core : Nat) : Statement (.qrsStateLoad core) := noWord _ rfl

theorem accdrRead (n : Nat) : Statement (.accdrRead n) := noWord _ rfl

theorem legIssue (site : Site) (slot : Nat) : Statement (.legIssue site slot) := noWord _ rfl

theorem dmodeTimeshareSwitch (core : Nat) : Statement (.dmodeTimeshareSwitch core) := noWord _ rfl

theorem loadDataLands (n : Nat) : Statement (.loadDataLands n) := noWord _ rfl

theorem probeTimer (gid : GroupId) : Statement (.probeTimer gid) := noWord _ rfl

theorem probeHop (n : Nat) : Statement (.probeHop n) := noWord _ rfl

theorem teamAdmit (cluster : Nat) : Statement (.teamAdmit cluster) := noWord _ rfl

theorem stealMessage (n : Nat) : Statement (.stealMessage n) := noWord _ rfl

theorem stealHandover (n : Nat) : Statement (.stealHandover n) := noWord _ rfl

theorem groupRelease (gid : GroupId) : Statement (.groupRelease gid) := noWord _ rfl

theorem teamRetire (ctx : Nat) (task : W64) : Statement (.teamRetire ctx task) := noWord _ rfl

theorem launchRetire (ctx : Nat) (serial : W32) : Statement (.launchRetire ctx serial) := noWord _ rfl

theorem abortDiscardDone (ctx : Nat) (task : W64) : Statement (.abortDiscardDone ctx task) := noWord _ rfl

theorem switchOutComplete (ctx : Nat) (task : W64) : Statement (.switchOutComplete ctx task) := noWord _ rfl

theorem pageMigration (n : Nat) : Statement (.pageMigration n) := noWord _ rfl

theorem tierPageMove (n : Nat) : Statement (.tierPageMove n) := noWord _ rfl

theorem tierComplete (n : Nat) : Statement (.tierComplete n) := noWord _ rfl

theorem emberLineEvict (n : Nat) : Statement (.emberLineEvict n) := noWord _ rfl

theorem atomoArrival (n : Nat) : Statement (.atomoArrival n) := noWord _ rfl

theorem atomoResend (n : Nat) : Statement (.atomoResend n) := noWord _ rfl

theorem startResend (n : Nat) : Statement (.startResend n) := noWord _ rfl

theorem copyBegin (cluster : Nat) (channel : Nat) : Statement (.copyBegin cluster channel) := noWord _ rfl

theorem copyComplete (n : Nat) : Statement (.copyComplete n) := noWord _ rfl

theorem tostreamTileEnter (unit : Nat) (b : Bool) : Statement (.tostreamTileEnter unit b) := noWord _ rfl

theorem matrixStepBegin (unit : Nat) : Statement (.matrixStepBegin unit) := noWord _ rfl

theorem matrixStepComplete (unit : Nat) : Statement (.matrixStepComplete unit) := noWord _ rfl

theorem allowanceReturn (ctx : Nat) (slot : Nat) (units : Nat) : Statement (.allowanceReturn ctx slot units) := noWord _ rfl

theorem rcopySegment (n : Nat) : Statement (.rcopySegment n) := noWord _ rfl

theorem switchCopy (n : Nat) (fromPeer : Option Contribution) : Statement (.switchCopy n fromPeer) := noWord _ rfl

theorem roundTimeout (n : Nat) : Statement (.roundTimeout n) := noWord _ rfl

theorem remoteLanding (n : Nat) (fromPeer : Option Landing) : Statement (.remoteLanding n fromPeer) := noWord _ rfl

theorem ackArrival (n : Nat) (fromPeer : Option Ack) : Statement (.ackArrival n fromPeer) := noWord _ rfl

theorem remoteResponse (n : Nat) (fromPeer : Option Response) : Statement (.remoteResponse n fromPeer) := noWord _ rfl

theorem remoteTimeout (n : Nat) : Statement (.remoteTimeout n) := noWord _ rfl

theorem laneSparing (link : Nat) (lane : Nat) : Statement (.laneSparing link lane) := noWord _ rfl

theorem peerRejoin (link : Nat) (peer : Peer) (key : Nat) :
    Statement (.peerRejoin link peer key) := noWord _ rfl

theorem preemptDeadline (ctx : Nat) : Statement (.preemptDeadline ctx) := noWord _ rfl

theorem contextSave (ctx : Nat) : Statement (.contextSave ctx) := noWord _ rfl

theorem launchMessage (fn : Nat) : Statement (.launchMessage fn) := noWord _ rfl

theorem ctxstart (fn : Nat) : Statement (.ctxstart fn) := noWord _ rfl

theorem preempt (fn : Nat) : Statement (.preempt fn) := noWord _ rfl

theorem unpreempt (fn : Nat) : Statement (.unpreempt fn) := noWord _ rfl

theorem restore (fn : Nat) : Statement (.restore fn) := noWord _ rfl

theorem fill (fn : Nat) : Statement (.fill fn) := noWord _ rfl

theorem setdump (fn : Nat) : Statement (.setdump fn) := noWord _ rfl

theorem ctxend (fn : Nat) : Statement (.ctxend fn) := noWord _ rfl

theorem mrtail (fn : Nat) (v : W32) : Statement (.mrtail fn v) := noWord _ rfl

theorem mrbase (fn : Nat) (v : W64) : Statement (.mrbase fn v) := noWord _ rfl

theorem rqbase (fn : Nat) (v : W64) : Statement (.rqbase fn v) := noWord _ rfl

theorem rqhead (fn : Nat) (v : W32) : Statement (.rqhead fn v) := noWord _ rfl

theorem registerWrite (fn : Nat) (off : Nat) (v : W64) : Statement (.registerWrite fn off v) := noWord _ rfl

theorem deviceReset : Statement .deviceReset := noWord _ rfl

theorem softError (place : Place) (correctable : Bool) (unit : W32) : Statement (.softError place correctable unit) := noWord _ rfl

theorem selfTestDone (n : Nat) (passed : Bool) (spare : Bool) : Statement (.selfTestDone n passed spare) := noWord _ rfl

theorem fatalError (cause : W32) (unit : W32) : Statement (.fatalError cause unit) := noWord _ rfl

theorem powerSample (watts : Nat) (nearPeak : Bool) : Statement (.powerSample watts nearPeak) := noWord _ rfl

theorem powerAverage (watts : Nat) (celsius : Nat) : Statement (.powerAverage watts celsius) := noWord _ rfl

theorem telemetryRefresh (sensors : Sensors) :
    Statement (.telemetryRefresh sensors) := noWord _ rfl

theorem acknowledgementTimeout (n : Nat) : Statement (.acknowledgementTimeout n) := noWord _ rfl

theorem copyRowLanded (n : Nat) : Statement (.copyRowLanded n) := noWord _ rfl

theorem hostWriteToDeviceMemory (addr : Nat) (bytes : List Byte) : Statement (.hostWriteToDeviceMemory addr bytes) := noWord _ rfl

theorem fabricManagerAssignment (a : Assignment) : Statement (.fabricManagerAssignment a) := noWord _ rfl

theorem newImageOrRecord (image : List Byte) (record : List Byte) : Statement (.newImageOrRecord image record) := noWord _ rfl

theorem marginSampling (link : Nat) (corrected : W32) (margin : W32) : Statement (.marginSampling link corrected margin) := noWord _ rfl

end Sys2Proof.Laws.RoundTrip
end

