-- ==== Sys2Proof/Tests/Slice0.lean ====
section
/-! SUPPORT. Tests: the small machine they use; every constructor's word, put together from the fields of the spec's encoding
tables; a state and operands that meet the hypotheses of each statement; an ill-formed term for each check; and single
instructions on values that the spec works out. -/

namespace Sys2Proof

def Hdr.withLit (h : Hdr) (w : W64) : Hdr := { h with lit := some w }

end Sys2Proof

namespace Sys2Proof.Tests

open Sys2Proof.Machine

set_option maxRecDepth 100000
set_option Elab.async false

/-! The small machine of the tests: context 1 with a page of kind P at 0x20000, one of kind C at 0x30000 and one of kind E at
0x40000 beside its code, a FABRIC range at 0x100000 and an APERTURE range at 0x200000; launch 1 with one team of one group on
core 0, or on the control core of cluster 0, that is executing. -/

def h0 : Hdr := ⟨false, false, none, false, false, false, none⟩
def h1 : Hdr := { h0 with g := true }
def hb : Hdr := { h0 with e := true, guard := some (1, false) }

/-- A range register of a kind. -/
def rg (base size target kind : Nat) : Range :=
  { base := BitVec.ofNat 64 base, limit := BitVec.ofNat 64 (base + size - 1), target := BitVec.ofNat 64 target
    attr := BitVec.ofNat 64 kind }

def ctx1 : Ctx := { placedCtx with ranges := [rg 0x10000 0x40000 0 0], credits := List.replicate 32 [{ hop := 0, grant := 16, owed := 0, passed := 0 }], rsent := 64, rsareas := 2 }

def gid : GroupId := ⟨1, placedTask, 0⟩

/-- The group with some g registers set; the others hold 0. -/
def grp (gs : List (Fin 128 × W64)) (site : Site := .core 0) : Group :=
  { placedGroup site.isCc 1 0 with
    site, v := List.replicate 16 zeroRow, full := List.replicate 16 true
    g := gs.foldl (fun l x => l.set x.1.val x.2) (List.replicate 128 0) }

/-- Reset, the tables of the pages, and the code of NOP. -/
def bare : State :=
  (((State.reset.placeCode (leBytes 16 0)).writeMem (codeTables + 0x10000 + 16) (leBytes 8 0x210001)).writeMem
    (codeTables + 0x10000 + 24) (leBytes 8 (2 * 2 ^ 62 + 0x220001))).writeMem
    (codeTables + 0x10000 + 32) (leBytes 8 (3 * 2 ^ 62 + 0x230001))

/-- And two more signposts: ENTRY and LOOPHEAD at 0x10100, RCV at 0x10200. -/
def coded : State :=
  (bare.writeMem (codeFrame + 0x100) (leBytes 8 (signpost 1 0 6).toNat)).writeMem (codeFrame + 0x200)
    (leBytes 8 (signpost 1 0 1).toNat)

/-- The machine in which the group executes. -/
def at_ (g : Group) (c : Ctx := ctx1) : State :=
  { coded with
    agenda := [], ctxs := [c], launches := [placedLaunch g.site.isCc], teams := [placedTeam g.site.isCc], groups := [g]
    cur := some g.id }

/-- The instruction issues there. -/
def issuesAt (g : Group) (i : Instr) : Bool := (at_ g).issues i g

/-! Decoding: OP, FN, TY, G, E, PR, PN, FE and the four specifiers of each word are those of 05 R66, R67, R92 and of the
chapter tables of its instruction. -/

theorem test_decode_control :
    [(decode 0x000070FFBFEFFBFE none, Instr.nop h0),
      (decode 0x020090FFB04FFBFE none, Instr.bra hb (.k 4)),
      (decode 0x040170FFBBCFFBFE none, Instr.brg h1 (.kn 60)),
      (decode 0x060170FFA89FFBFE none, Instr.jmp h1 (.g 9)),
      (decode 0x080170A7BFFFFBFE (some 200), Instr.call (h1.withLit 200) (.g 30) .lit),
      (decode 0x0A0170FFA9EFFBFE none, Instr.ret h1 (.g 30)),
      (decode 0x0C0170A17B2FFBFE none, Instr.loop h1 (.g 5) (.kn 50)),
      (decode 0x0E0070FFBFEFFBFE none, Instr.exit h0),
      (decode 0x0E0170FFBFEFFBFE none, Instr.exitG h1),
      (decode 0x4C0170FFBFEFFBFE none, Instr.halt h1),
      (decode 0x100170FFB03FFBFE none, Instr.bar h1 (.k 3)),
      (decode 0x120170FFBFEFFBFE none, Instr.yield h1)].all (fun x => x.1 == some x.2) = true := by
  decide +kernel

theorem test_decode_waits :
    [(decode 0x140170A0E84FFBFE none, Instr.waitAny h1 false (.g 3) (.g 4)),
      (decode 0x150170FFB0CFFBFE none, Instr.waitAny h1 true .zero (.k 12)),
      (decode 0x152170FFBFFFFBFE (some 0xF0), Instr.waitAll (h1.withLit 0xF0) true .lit),
      (decode 0x144170FFA88C07FE none, Instr.waitMs h1 (.g 8) (.k 1)),
      (decode 0x170170A0A84FFBFE none, Instr.ffr h1 true (.g 2) (.g 4)),
      (decode 0x180070FFB07FFBFE none, Instr.trapSys h0 (.k 7)),
      (decode 0x182170FFA87FFBFE none, Instr.trapBrk h1 (.g 7)),
      (decode 0x1A0170FFBFEFFBFE none, Instr.trapretSame h1),
      (decode 0x1A2170FFBFEFFBFE none, Instr.trapretNext h1),
      (decode 0x1C0170FFBFEFFBFE none, Instr.abort h1),
      (decode 0x1E2170FFB02A0FBC none, Instr.bsa h1 true (.k 2) (.g 3) (.kn 60))].all (fun x => x.1 == some x.2) = true := by
  decide +kernel

theorem test_decode_arith :
    [(decode 0x202A7000402EFFFE none, Instr.iadd h0 true .u16 (.v 1) (.v 2) (.kn 63)),
      (decode 0x220570A0682C27FE none, Instr.isub h1 false .i64 (.g 1) (.g 2) (.k 9)),
      (decode 0x242C708060288FFE none, Instr.imul h0 .hi .i8 (.o 1) (.o 2) (.l 3)),
      (decode 0x2442700100200FFE none, Instr.imul h0 .wide .u32 (.v 4) (.v 2) (.v 3)),
      (decode 0x2600700040200C04 none, Instr.imad h0 .i32 (.v 1) (.v 2) (.v 3) (.v 4)),
      (decode 0x2826700080401BFE none, Instr.idiv h0 true .u64 (.v 2) (.v 4) (.v 6)),
      (decode 0x2A08700040200FFE none, Instr.imin h0 .i16 (.v 1) (.v 2) (.v 3)),
      (decode 0x2C0E700040200FFE none, Instr.imax h0 .u8 (.v 1) (.v 2) (.v 3)),
      (decode 0x2E007000402FFBFE none, Instr.iabs h0 .i32 (.v 1) (.v 2)),
      (decode 0x2E227000402FFBFE none, Instr.ineg h0 .u32 (.v 1) (.v 2)),
      (decode 0x450C7000402FFBFE none, Instr.cvt h0 true .i8 .i32 (.v 1) (.v 2)),
      (decode 0x42027000700C13FE none, Instr.movl h0 .u32 (.v 1) (.k 0) (.k 4)),
      (decode 0x482E700040200C04 none, Instr.idot4 h0 true .u8 (.v 1) (.v 2) (.v 3) (.v 4))].all (fun x => x.1 == some x.2) = true := by
  decide +kernel

theorem test_decode_bits :
    [(decode 0x301E700040200FFE none, Instr.and h0 .b32 (.v 1) (.v 2) (.v 3)),
      (decode 0x3022700040200FFE none, Instr.or h0 .u32 (.v 1) (.v 2) (.v 3)),
      (decode 0x304570A0682A0FFE none, Instr.xor h1 .i64 (.g 1) (.g 2) (.g 3)),
      (decode 0x307E700040200FFE none, Instr.andn h0 .b32 (.v 1) (.v 2) (.v 3)),
      (decode 0x309E700040200FFE none, Instr.orn h0 .b32 (.v 1) (.v 2) (.v 3)),
      (decode 0x30BE7000402FFBFE none, Instr.not h0 .b32 (.v 1) (.v 2)),
      (decode 0x321E7000402C7FFE none, Instr.shl h0 .b32 (.v 1) (.v 2) (.k 31)),
      (decode 0x322770A0682CFFFE none, Instr.shr h1 .u64 (.g 1) (.g 2) (.k 63)),
      (decode 0x3240700040200FFE none, Instr.sar h0 .i32 (.v 1) (.v 2) (.v 3)),
      (decode 0x327E700040200FFE none, Instr.rol h0 .b32 (.v 1) (.v 2) (.v 3)),
      (decode 0x341E70007C2FFBFE none, Instr.popc h0 .b32 (.v 1) (.p 2)),
      (decode 0x342A7000402FFBFE none, Instr.clz h0 .u16 (.v 1) (.v 2)),
      (decode 0x344770A0682FFBFE none, Instr.ctz h1 .u64 (.g 1) (.g 2)),
      (decode 0x347E7000402FFBFE none, Instr.brev h0 .b32 (.v 1) (.v 2)),
      (decode 0x36027000402C1308 none, Instr.bfx h0 .u32 (.v 1) (.v 2) (.k 4) (.k 8)),
      (decode 0x381E700040200C04 none, Instr.bfi h0 .b32 (.v 1) (.v 2) (.v 3) (.v 4)),
      (decode 0x3A1E700040200FC1 none, Instr.sel h0 .b32 (.v 1) (.v 2) (.v 3) (.p 1)),
      (decode 0x3CA070F040200FFE none, Instr.icmp h0 .ge .i32 (.p 1) (.v 2) (.v 3)),
      (decode 0x3E04700080400F03 none, Instr.lea h0 .i64 (.v 2) (.v 4) (.v 3) (.k 3)),
      (decode 0x40127000402FFBFE none, Instr.mov h0 .f16 (.v 1) (.v 2)),
      (decode 0x460C700040200C04 none, Instr.pack h0 .i8 (.v 1) (.v 2) (.v 3) (.v 4)),
      (decode 0x463C7000402C1FFE none, Instr.unpk h0 .i4 (.v 1) (.v 2) (.k 7))].all (fun x => x.1 == some x.2) = true := by
  decide +kernel

theorem test_decode_registers :
    [(decode 0x4A0070003FEFF800 none, Instr.movsRead h0 .laneid (.v 0)),
      (decode 0x4A8170A03FEFF800 none, Instr.movsRead h1 .qflags (.g 0)),
      (decode 0x4A0070003FEFFA1F none, Instr.movsRead h0 (.sa 31) (.v 0)),
      (decode 0x4A2170FFA88FF810 none, Instr.movsWrite h1 .exm (.g 8)),
      (decode 0x4A2170FFBFFFF901 (some 0xFF), Instr.tagclrWrite (h1.withLit 0xFF) .lit)].all (fun x => x.1 == some x.2) = true := by
  decide +kernel

theorem test_decode_lanes :
    [(decode 0x500070F07C2F0FFE none, Instr.pand h0 (.p 1) (.p 2) (.p 3)),
      (decode 0x502170F27CAF2FFE none, Instr.por h1 (.q 1) (.q 2) (.q 3)),
      (decode 0x504070F07C2F0FFE none, Instr.pxor h0 (.p 1) (.p 2) (.p 3)),
      (decode 0x506070F07C2FFBFE none, Instr.pnot h0 (.p 1) (.p 2)),
      (decode 0x508070A07C2FFBFE none, Instr.pmov h0 (.g 1) (.p 2)),
      (decode 0x524070A1FC1FFBFE none, Instr.vote h0 .ballot (.g 7) (.p 1)),
      (decode 0x543E7001404C0689 none, Instr.shfl h0 .up .b32 (.v 5) (.v 4) (.k 1) (.g 9)),
      (decode 0x561E7001805013FF (some 0x6543), Instr.permb (h0.withLit 0x6543) false (.v 6) (.v 5) (.v 4) .lit),
      (decode 0x59027000402FFBFE none, Instr.lscan h0 .add true .u32 (.v 1) (.v 2)),
      (decode 0x5A5070A0402FFBFE none, Instr.lred h0 .max .f32 (.g 1) (.v 2)),
      (decode 0x5C1E70A0402C7FFE none, Instr.lanexGet h0 .b32 (.g 1) (.v 2) (.k 31)),
      (decode 0x5C267000A82C17FE none, Instr.lanexPut h0 .u64 (.v 2) (.g 2) (.k 5))].all (fun x => x.1 == some x.2) = true := by
  decide +kernel

theorem test_decode_floats :
    [(decode 0x6154700040200FFE none, Instr.fadd h0 .rup true .bf16 (.v 1) (.v 2) (.v 3)),
      (decode 0x6232700040200FFE none, Instr.fsub h0 .rtz false .f16 (.v 1) (.v 2) (.v 3)),
      (decode 0x647170A0682C0FFE none, Instr.fmul h1 .rdn false .f32 (.g 1) (.g 2) (.k 3)),
      (decode 0x6710700040200C04 none, Instr.ffma h0 .rne true .f32 (.v 1) (.v 2) (.v 3) (.v 4)),
      (decode 0x6810700040200FFE none, Instr.fmin h0 .f32 (.v 1) (.v 2) (.v 3)),
      (decode 0x6A14700040200FFE none, Instr.fmax h0 .bf16 (.v 1) (.v 2) (.v 3)),
      (decode 0x6CD070F040200FFE none, Instr.fcmp h0 .uno .f32 (.p 1) (.v 2) (.v 3)),
      (decode 0x6E1A7000402FFBFE none, Instr.fclass h0 .e2m1 (.v 1) (.v 2)),
      (decode 0x70307000402FFBFE none, Instr.frnd h0 .rtz .f32 (.v 1) (.v 2)),
      (decode 0x73007000402FF808 none, Instr.fcvt h0 .rne true .i32 .f32 (.v 1) (.v 2) .zero),
      (decode 0x75147000402FFBFE none, Instr.func h0 .erf .bf16 (.v 1) (.v 2)),
      (decode 0x7672700040200C04 none, Instr.hfma2 h0 .rdn false .f16 (.v 1) (.v 2) (.v 3) (.v 4)),
      (decode 0x7818700040200C04 none, Instr.fdot4 h0 .rne false .e5m2 (.v 1) (.v 2) (.v 3) (.v 4)),
      (decode 0x7A107000402FFBFE none, Instr.fabs h0 .f32 (.v 1) (.v 2)),
      (decode 0x7A367000402FFBFE none, Instr.fneg h0 .e4m3 (.v 1) (.v 2)),
      (decode 0x7A52700040200FFE none, Instr.fcopysign h0 .f16 (.v 1) (.v 2) (.v 3))].all (fun x => x.1 == some x.2) = true := by
  decide +kernel

theorem test_decode_memory :
    [(decode 0x80AE70007FE00B02 none, Instr.ld h0 .acq .sh .u8 (.v 1) .zero (.v 2) .core),
      (decode 0x830770A0682C4304 none, Instr.st h1 .rel .gl .u64 (.g 1) (.g 2) (.k 16) .dev),
      (decode 0x84C770A0682A0C57 none, Instr.atom h1 .exch .ar .node .cw .u64 (.g 1) (.g 2) (.g 3)),
      (decode 0x862070FF80201005 none, Instr.atomo h0 .min .i32 (.v 2) (.v 4) (.v 5)),
      (decode 0x886170FFBFEFFB06 none, Instr.fence h1 .ar .job),
      (decode 0x8A2070FFA8100BFE none, Instr.pref h0 true (.g 1) (.v 2)),
      (decode 0x8C0170FFA81D03FE none, Instr.cmaintInv h1 (.g 1) (.k 64)),
      (decode 0x8C2170FFBFEFFBFE none, Instr.cmaintInvall h1),
      (decode 0x8E2170FFA81C0A83 none, Instr.tier h1 true (.g 1) (.k 2) (.g 3))].all (fun x => x.1 == some x.2) = true := by
  decide +kernel

theorem test_decode_pages :
    [(decode 0x980170F2681C0FFE none, Instr.ersv h1 (.q 1) (.g 1) (.k 3)),
      (decode 0x9A0170FFB03FFBFE none, Instr.erel h1 (.k 3)),
      (decode 0x9C0170FFA81A0BFE none, Instr.edisc h1 (.g 1) (.g 2)),
      (decode 0x9E0170FFA81C0702 none, Instr.emig h1 (.g 1) (.k 1) (.k 2)),
      (decode 0xDA0170A0682C0E84 none, Instr.rmset h1 (.g 1) (.g 2) (.k 3) (.g 4)),
      (decode 0xDA2170A0682C0FFE none, Instr.rmsetGet h1 (.g 1) (.g 2) (.k 3)),
      (decode 0xDC0170A0682C0FFE none, Instr.rmrefInc h1 (.g 1) (.g 2) (.k 3)),
      (decode 0xDC2170FFA82C0FFE none, Instr.rmrefDec h1 .zero (.g 2) (.k 3)),
      (decode 0xDC4170A0682C0FFE none, Instr.rmrefGet h1 (.g 1) (.g 2) (.k 3)),
      (decode 0xDC6170A0682C0F05 none, Instr.rmrefSet h1 (.g 1) (.g 2) (.k 3) (.k 5))].all (fun x => x.1 == some x.2) = true := by
  decide +kernel

theorem test_decode_milestones :
    [(decode 0xA0A170A0682C23FE none, Instr.msinit h1 .bytes true false (.g 1) (.g 2) (.k 8) .zero),
      (decode 0xA24170A0682C0703 none, Instr.msarrArr h1 true (.g 1) (.g 2) (.k 1) .clu),
      (decode 0xA22170FFA82C07FE none, Instr.msarrExp h1 .zero (.g 2) (.k 1)),
      (decode 0xA40170FFA82CFFFE none, Instr.msbind h1 (.g 2) (.k 63)),
      (decode 0xA42170FFA82FFBFE none, Instr.msbindUnbind h1 (.g 2)),
      (decode 0xA7A170A0682FFBFE none, Instr.msqry h1 .head true (.g 1) (.g 2)),
      (decode 0xA80170FFA82C0683 none, Instr.trig h1 (.g 2) (.k 1) (.g 3)),
      (decode 0xAA0170FFA82C1FFE none, Instr.tdef h1 (.g 2) (.k 7)),
      (decode 0xAA2170FFBFEC1FFE none, Instr.tdefClr h1 (.k 7)),
      (decode 0xAC0170FFA82A0FFE none, Instr.fres h1 (.g 2) (.g 3)),
      (decode 0xAE0170F2682A0FFE none, Instr.freg h1 (.q 1) (.g 2) (.g 3))].all (fun x => x.1 == some x.2) = true := by
  decide +kernel

theorem test_decode_fabric :
    [(decode 0xB00770A3E8DC03FE none, Instr.rst h1 .u64 (.g 15) (.g 13) (.k 0)),
      (decode 0xB2A27000682C0283 none, Instr.rred h0 .xor .u32 (.v 1) (.g 2) (.k 0) (.g 3)),
      (decode 0xB4D170A0682A0F01 none, Instr.ratom h1 .exch .f32 (.g 1) (.g 2) (.g 3) (.k 1)),
      (decode 0xB61E7000402C07FE none, Instr.rld h0 .b32 (.v 1) (.v 2) (.k 1)),
      (decode 0xB80170FFB01A0BFE none, Instr.rcopy h1 (.k 1) (.g 2)),
      (decode 0xBA0170FFB01A0A83 none, Instr.sabind h1 (.k 1) (.g 2) (.g 3)),
      (decode 0xBA2170FFB01D03FE none, Instr.sabindDst h1 (.k 1) (.k 64)),
      (decode 0xBA4170FFB01FFBFE none, Instr.sabindClr h1 (.k 1)),
      (decode 0xBC0170A0682FFBFE none, Instr.pcnt h1 (.g 1) (.g 2))].all (fun x => x.1 == some x.2) = true := by
  decide +kernel

theorem test_decode_units :
    [(decode 0xC00170FFBFEC0303 none, Instr.qld h1 .zero (.k 0) (.k 3)),
      (decode 0xC40170FFB01FFBFE none, Instr.qset h1 (.k 1)),
      (decode 0xC2027000402C0FFE none, Instr.qrs h0 .u32 (.v 1) (.v 2) (.k 3)),
      (decode 0xC80170FFA81A0BFE none, Instr.mma h1 (.g 1) (.g 2)),
      (decode 0xC82170A0E81A0BFE none, Instr.mmaNew h1 (.g 3) (.g 1) (.g 2)),
      (decode 0xCA0170FFA81A0A83 none, Instr.mmas h1 (.g 1) (.g 2) (.g 3)),
      (decode 0xCA2170A1281A0A83 none, Instr.mmasNew h1 (.g 4) (.g 1) (.g 2) (.g 3)),
      (decode 0xCC0170FFB01FFBFE none, Instr.accrel h1 (.k 1)),
      (decode 0xCE107000A81DFFFE none, Instr.accdr h0 .f32 (.v 2) (.g 1) (.k 127)),
      (decode 0xD0147000402FFBFE none, Instr.cmpsVal h0 .bf16 (.v 1) (.v 2)),
      (decode 0xD0367000402FFBFE none, Instr.cmpsMeta h0 .e4m3 (.v 1) (.v 2)),
      (decode 0xD2147000402C0FFE none, Instr.cbdec h0 .bf16 (.v 1) (.v 2) (.k 3)),
      (decode 0xD40170A0682FFBFE none, Instr.strmCnt h1 (.g 1) (.g 2)),
      (decode 0xD42170FFA82C07FE none, Instr.strmDrop h1 .zero (.g 2) (.k 1)),
      (decode 0xD60170FFA81FFBFE none, Instr.cbld h1 (.g 1)),
      (decode 0xE00170A0682FFBFE none, Instr.launch h1 (.g 1) (.g 2)),
      (decode 0xE20170FFB40FFBFE none, Instr.rgrow h1 (.k 64)),
      (decode 0xE40170FFB10FFBFE none, Instr.rshrk h1 (.k 16)),
      (decode 0xE60170FFA82FFBFE none, Instr.probe h1 (.g 2))].all (fun x => x.1 == some x.2) = true := by
  decide +kernel

/-! States and operands that meet the hypotheses of the statements, clause by clause. -/

theorem test_meets_IntegerArithmeticResults :
    [Instr.iadd h0 true .u16 (.v 1) (.v 2) (.kn 63), .isub h1 false .i64 (.g 1) (.g 2) (.k 9),
      .imul h0 .lo .i8 (.o 1) (.v 2) (.v 3), .imul h0 .hi .i64 (.v 2) (.v 4) (.v 6), .imul h0 .wide .u32 (.v 14) (.v 2) (.v 3),
      .imad h0 .i32 (.v 15) (.v 2) (.v 3) (.v 4), .idiv h0 false .i32 (.v 1) (.v 2) .zero,
      .idiv h0 true .u64 (.v 2) (.v 4) (.v 6), .imin h0 .i16 (.v 1) (.v 2) (.v 3), .imax h0 .u8 (.v 1) (.v 2) (.v 3),
      .iabs h0 .i32 (.v 1) (.v 2), .ineg h0 .u32 (.v 1) (.v 2), .movl h0 .u32 (.v 1) (.k 0) (.k 4),
      .cvt h0 true .i8 .i32 (.v 1) (.v 2), .idot4 h0 true .u8 (.v 1) (.v 2) (.v 3) (.v 4)].all (issuesAt (grp [])) = true := by
  decide +kernel

theorem test_meets_BitResults :
    [Instr.and h0 .b32 (.v 1) (.v 2) (.v 3), .or h0 .u32 (.v 1) (.v 2) (.v 3), .xor h1 .i64 (.g 1) (.g 2) (.g 3),
      .andn h0 .b32 (.v 1) (.v 2) (.v 3), .orn h0 .b32 (.v 1) (.v 2) (.v 3), .not h0 .b32 (.v 1) (.v 2),
      .shl h0 .b32 (.v 1) (.v 2) (.k 32), .shr h1 .u64 (.g 1) (.g 2) (.k 63), .sar h0 .i32 (.v 1) (.v 2) (.k 127),
      .rol h0 .b32 (.v 1) (.v 2) (.v 3), .popc h0 .b32 (.v 1) (.p 2), .clz h0 .u16 (.v 1) (.v 2), .ctz h1 .u64 (.g 1) (.g 2),
      .brev h0 .b32 (.v 1) (.v 2), .bfx h0 .u32 (.v 1) (.v 2) (.k 4) (.k 8), .bfi h0 .b32 (.v 1) (.v 2) (.v 3) (.v 4),
      .sel h0 .b32 (.v 1) (.v 2) (.v 3) (.p 1), .icmp h0 .ge .i32 (.p 1) (.v 2) (.v 3), .lea h0 .i64 (.v 2) (.v 4) (.v 3) (.k 3),
      .mov h0 .f16 (.v 1) (.v 2), .pack h0 .i8 (.v 1) (.v 2) (.v 3) (.v 4), .unpk h0 .i4 (.v 1) (.v 2) (.k 7)].all
      (issuesAt (grp [])) = true := by
  decide +kernel

theorem test_meets_SpecialRegisterMoves :
    [Instr.movsRead h0 .laneid (.v 0), .movsRead h1 .ric (.g 1), .movsRead h0 (.sa 31) (.v 0), .movsWrite h1 .exm (.g 8),
      .movsWrite h0 .wft (.v 1), .tagclrWrite h1 (.g 1)].all (issuesAt (grp [])) = true := by
  decide +kernel

theorem test_meets_PredicateResults :
    [Instr.pand h0 (.p 1) (.p 2) (.p 3), .por h1 (.q 1) (.q 2) (.q 3), .pxor h0 (.p 1) (.p 2) (.p 3), .pnot h0 (.p 1) (.p 2),
      .pmov h0 (.g 1) (.p 2), .pmov h0 (.p 1) (.g 2), .pmov h0 (.p 1) (.p 2), .vote h0 .ballot (.g 7) (.p 1),
      .vote h0 .any (.q 6) (.v 1), .vote h0 .all (.v 1) (.v 2)].all (issuesAt (grp [])) = true := by
  decide +kernel

theorem test_meets_CrossLaneResults :
    [Instr.shfl h0 .up .b32 (.v 5) (.v 4) (.k 1) (.g 9), .permb h0 false (.v 6) (.v 5) (.v 4) (.g 1),
      .lscan h0 .add true .u32 (.v 1) (.v 2), .lred h0 .max .f32 (.g 1) (.v 2), .lanexGet h0 .b32 (.g 1) (.v 2) (.k 31),
      .lanexPut h0 .u64 (.v 2) (.g 2) (.k 5)].all (issuesAt (grp [])) = true := by
  decide +kernel

theorem test_meets_FloatResults :
    [Instr.fadd h0 .rup true .bf16 (.v 1) (.v 2) (.v 3), .fsub h0 .rtz false .f16 (.v 1) (.v 2) (.v 3),
      .fmul h1 .rdn false .f32 (.g 1) (.g 2) (.k 3), .ffma h0 .rne true .f32 (.v 1) (.v 2) (.v 3) (.v 4),
      .fmin h0 .f32 (.v 1) (.v 2) (.v 3), .fmax h0 .bf16 (.v 1) (.v 2) (.v 3), .fcmp h0 .uno .f32 (.p 1) (.v 2) (.v 3),
      .fclass h0 .e2m1 (.v 1) (.v 2), .frnd h0 .rtz .f32 (.v 1) (.v 2), .fcvt h0 .rne true .i32 .f32 (.v 1) (.v 2) .zero,
      .fcvt h0 .rsr false .bf16 .f32 (.v 6) (.v 4) (.v 5), .hfma2 h0 .rdn false .f16 (.v 1) (.v 2) (.v 3) (.v 4),
      .fdot4 h0 .rne false .e5m2 (.v 1) (.v 2) (.v 3) (.v 4), .fabs h0 .f32 (.v 1) (.v 2), .fneg h0 .e4m3 (.v 1) (.v 2),
      .fcopysign h0 .f16 (.v 1) (.v 2) (.v 3), .func h0 .erf .bf16 (.v 1) (.v 2)].all (issuesAt (grp [])) = true ∧
    (grp []).ftv = 1 ∧ issuesAt { grp [] with ftv := 2 } (.func h0 .erf .bf16 (.v 1) (.v 2)) = true := by
  decide +kernel

/-- The signpost that a target holds, where it is well formed. -/
def tgtAt (g : Group) (h : Hdr) (t : Opd) : Option W64 := match (at_ g).target gid (targetOf g h t) with | .ok w => some w | _ => none

theorem test_meets_TransfersAreTaken :
    issuesAt (grp []) (.nop h0) = true ∧ issuesAt (grp []) (.bra hb (.k 31)) = true ∧ maskOf (lanesOf (grp []) hb) = 0 ∧
    issuesAt (grp []) (.bra h0 (.k 31)) = true ∧ maskOf (lanesOf (grp []) h0) = (grp []).exm ∧ (grp []).exm ≠ 0 ∧
    ((tgtAt (grp []) h0 (.k 31)).map fun w => (spEntry w, spLoop w)) = some (true, true) ∧
    [Instr.brg h1 (.k 31), .jmp h1 (.k 31), .ret h1 (.g 9), .call h1 (.g 30) (.k 31), .loop h1 (.g 5) (.k 31)].all
      (issuesAt (grp [(9, 0x10100), (5, 1)])) = true ∧
    (tgtAt (grp [(9, 0x10100)]) h1 (.g 9)).isSome = true ∧
    rd64 (grp [(5, 1)]) h1 (.g 5) = 1 ∧ rd64 (grp [(5, 2)]) h1 (.g 5) ≠ 1 ∧
    issuesAt (grp []) (.bsa h1 false (.k 31) (.k 16) (.k 31)) = true ∧
    issuesAt (grp []) (.bsa h1 true (.k 31) (.k 16) (.k 31)) = true ∧
    rd32 (grp []) h1 (.k 31) < 32 ∧ ctx1.allowance 31 = 0 ∧ (at_ (grp [])).ctx? 1 = some ctx1 := by
  decide +kernel

/-- A group half of whose lanes take the branch, in a block with a reconvergence signpost. -/
def halves : Group :=
  { grp [] with p := [0, 0xFFFF, 0, 0, 0, 0, 0], block := some { addr := 0x10000, word := signpost 1 0 4 + 64 * 2 ^ 36 } }

theorem test_meets_BadTargetsTrap :
    (at_ (grp [])).target gid (targetOf (grp []) h0 (.k 0)) = .bad ∧
    (tgtAt (grp []) h1 (.k 1)).map (fun w => (spEntry w, spLoop w)) = some (false, false) ∧
    (0x10004 : W64).toNat % 8 ≠ 0 ∧
    (match (at_ (grp [])).codeWord gid 0x10008 with | .ok bs => spOk (wordOf bs) | _ => true) = false ∧
    [Instr.brg h1 (.k 0), .jmp h1 (.k 0), .ret h1 (.g 9), .call h1 (.g 30) (.k 0), .loop h1 (.g 5) (.k 0)].all
      (issuesAt (grp [])) = true ∧
    issuesAt halves (.bra hb (.k 0)) = true ∧ maskOf (lanesOf halves hb) = 0xFFFF ∧ halves.exm = 0xFFFFFFFF ∧
    (match (at_ halves).target gid 0x10200 with | .ok x => spRcv x | _ => false) = true ∧
    (at_ halves).target gid (targetOf halves hb (.k 0)) = .bad ∧
    issuesAt (grp []) (.bsa h1 true (.k 31) (.k 17) (.k 0)) = true ∧
    issuesAt (grp []) (.bsa h1 false (.k 31) (.k 16) (.k 0)) = true ∧ rd32 (grp []) h1 (.k 31) < 32 ∧
    ctx1.allowance 31 = 0 ∧ (at_ (grp [])).target gid ((grp []).at_ + 8 * rd64 (grp []) h1 (.k 0)) = .bad := by
  decide +kernel

theorem test_meets_DivergentBranchPushes :
    issuesAt halves (.bra hb (.k 31)) = true ∧ maskOf (lanesOf halves hb) = 0xFFFF ∧ halves.exm = 0xFFFFFFFF ∧
    spReconv (signpost 1 0 4 + 64 * 2 ^ 36) = 0x200 ∧
    (match (at_ halves).target gid 0x10200 with | .ok x => spRcv x | _ => false) = true ∧ (tgtAt halves hb (.k 31)).isSome = true ∧
    halves.stack.length ≤ 30 ∧ spReconv (signpost 1 0 4) = 0 ∧ (at_ halves).target gid 0x10008 = .bad ∧
    (match (at_ halves).target gid 0x10100 with | .ok x => spRcv x | _ => true) = false := by
  decide +kernel

theorem test_meets_ArrivalsReconverge :
    spRcv (signpost 1 0 1) = true ∧ spRcv (signpost 1 0 4) = false ∧ (grp []).spill ≤ (grp []).spillBase ∧
    ((grp []).stack = []) ∧
    ({ grp [] with stack := [⟨0x10100, 1, true⟩, ⟨0x10200, 3, false⟩] } : Group).stack =
      (⟨0x10100, 1, true⟩ : RcEntry) :: ⟨0x10200, 3, false⟩ :: [] := by
  decide +kernel

/-- A dense bf16 step on slot 0. -/
def step0 (begun : Bool) : MStep :=
  { id := 1, ctx := 1, gid, slot := 0, fmt := ⟨10, 10, 0, 0⟩, ascale := [], bscale := [], mdata := none, begun }

/-- A group of 8 lanes with a path entry of the same lanes, and below it an entry of 16 lanes or of none but these. -/
def exiting (below : W32) : Group :=
  { grp [] with exm := 0xFF, stack := [⟨0x10100, 0xFF, true⟩, ⟨0x10200, below, false⟩] }

theorem test_meets_ExitsEndGroups :
    issuesAt halves (.exit hb) = true ∧ halves.exm &&& ~~~(maskOf (lanesOf halves hb)) ≠ 0 ∧
    issuesAt (grp []) (.exit h0) = true ∧ (grp []).exm &&& ~~~(maskOf (lanesOf (grp []) h0)) = 0 ∧ (grp []).stack = [] ∧
    issuesAt (grp []) (.exitG h1) = true ∧ issuesAt (grp [] (.cc 0)) (.halt h1) = true ∧
    (at_ (grp [] (.cc 0))).stepsOf gid = false ∧
    (let s := (at_ (grp [] (.cc 0))).setUnit 0 { idleUnit with steps := [step0 false] };
      s.issues (.halt h1) (grp [] (.cc 0)) = true ∧ s.stepsOf gid = true) ∧
    [exiting 0xFFFF, exiting 0xFF].all (fun g => let keep := ~~~(maskOf (lanesOf g h0))
      issuesAt g (.exit h0) && g.exm &&& keep = 0 && g.spill ≤ g.spillBase && 0xFF &&& keep = 0 && 0xFFFF &&& keep ≠ 0) = true := by
  decide +kernel

/-- A machine whose core has tags 3 and 5 set. -/
def tagged (g : Group) : State := (at_ g).setTags g.site 0x28

/-- A C page's milestone of kind COUNT: EXPECT 2, phase 1. -/
def msWord : List Byte := leBytes 2 1 ++ leBytes 6 0 ++ leBytes 8 2 ++ leBytes 48 0

/-- The machine with a milestone at 0x30000. -/
def withMs (g : Group) : State := (at_ g).writeMem 0x220000 msWord

/-- A drain of row 127 of slot 0 of unit 0 into v2. -/
def aDrain : Load := { id := 1, gid, pc := 0x10008, dst := .v 2 2, kind := .acc 0 0 127 [0] false }

theorem test_meets_WaitsComplete :
    (tagged (grp [])).issues (.waitAny h1 true .zero (.k 8)) (grp []) = true ∧
    (tagged (grp [])).tagsAt (.core 0) &&& rd64 (grp []) h1 (.k 8) ≠ 0 ∧
    (tagged (grp [])).issues (.waitAll h1 false (.k 40)) (grp []) = true ∧
    (tagged (grp [])).tagsAt (.core 0) &&& rd64 (grp []) h1 (.k 40) = rd64 (grp []) h1 (.k 40) ∧
    (withMs (grp [(8, 0x30000)])).issues (.waitMs h1 (.g 8) (.k 1)) (grp [(8, 0x30000)]) = true ∧
    (match (withMs (grp [])).msAt (grp []) 0x30000 with
      | some l => (match (withMs (grp [])).msThere l with | some x => x.err = 0 && reached x.phase 1 | none => false)
      | none => false) = true ∧
    issuesAt (grp []) (.bar h1 (.k 15)) = true ∧ (at_ (grp [])).readsDue gid = false ∧
    (let s : State := { at_ (grp []) with loads := [aDrain] };
      s.issues (.bar h1 (.k 15)) (grp []) = true ∧ s.readsDue gid = true) ∧ issuesAt (grp []) (.yield h1) = true ∧ ctx1.prq = false ∧
    (let g := grp []; let s := at_ g { ctx1 with prq := true }
      s.issues (.yield h1) g = true ∧ g.tmask = false ∧ s.quiet gid = true ∧
        (match s.codeWord gid (nextOf g h1) with | .ok w => spOk (wordOf w) | _ => false) = true) := by
  decide +kernel

/-- A mask of 0, tags that are not set, a milestone with an error behind the lower of two tags and alone, a phase that is not reached, and
a reference that is not aligned. -/
theorem test_meets_WaitsComplete_parks :
    let g := grp [(8, 0x30000), (9, 0x30020)]
    let erred (g : Group) : State :=
      { (at_ g).writeMem 0x220000 (leBytes 2 1 ++ leBytes 2 0x400 ++ leBytes 4 0 ++ leBytes 8 2 ++ leBytes 48 0) with
        tagrefs := [{ site := .core 0, tag := 3, gid, ref := 0x30000 }, { site := .core 0, tag := 5, gid, ref := 0x20000 }] }
    issuesAt g (.waitAny h1 false (.g 3) (.k 0)) = true ∧ rd64 g h1 (.k 0) = 0 ∧
    [Instr.waitAny h1 false (.g 3) (.k 40), .waitAll h1 true (.k 40), .waitMs h1 (.g 8) (.k 2), .waitMs h1 (.g 9) (.k 1)].all
      ((erred g).issues · g) = true ∧
    (at_ g).tagsAt g.site &&& rd64 g h1 (.k 40) = 0 ∧ rd64 g h1 (.k 40) = 40 ∧
    (at_ g).tagErr g.site 40 = none ∧ (erred g).tagErr g.site 40 = some 0x30000 ∧
    ((erred g).tagRef g.site 3).map (·.ref) = some 0x30000 ∧ ((erred g).msOf 1 0 0x30000).map (·.err) = some 4 ∧
    (match (erred g).msAt g 0x30000 with | some l => ((erred g).msThere l).map (·.err) | none => none) = some 4 ∧
    (match (withMs g).msAt g 0x30000 with | some l => ((withMs g).msThere l).map (fun x => (x.err, reached x.phase 2)) | none => none) =
      some (0, false) ∧
    (rd64 g h1 (.g 9)).toNat % 64 ≠ 0 ∧ ctx1.prq = false ∧ (at_ g).growq = [] := by
  decide +kernel

theorem test_meets_FindFirstReadyTag :
    issuesAt (grp [(4, 0xF0)]) (.ffr h1 true (.g 2) (.g 4)) = true ∧
    (at_ (grp [(4, 0xF0)])).tagsAt (.core 0) &&& rd64 (grp [(4, 0xF0)]) h1 (.g 4) = 0 ∧
    (tagged (grp [(4, 0xF0)])).issues (.ffr h1 true (.g 2) (.g 4)) (grp [(4, 0xF0)]) = true ∧
    ((tagged (grp [(4, 0xF0)])).tagsAt (.core 0) &&& rd64 (grp [(4, 0xF0)]) h1 (.g 4)).getLsbD 5 = true := by
  decide +kernel

theorem test_meets_SoftwareTraps :
    issuesAt (grp []) (.trapSys hb (.k 7)) = true ∧ lanesOf (grp []) hb = [] ∧ issuesAt (grp []) (.trapBrk hb (.k 7)) = true ∧
    issuesAt halves (.trapSys hb (.v 7)) = true ∧ (lanesOf halves hb).head? = some 0 ∧ issuesAt halves (.trapBrk h1 (.g 7)) = true := by
  decide +kernel

/-- The machine whose launch has a handler. -/
def handled (g : Group) (a : W64) : State :=
  { at_ g with launches := [{ placedLaunch false with lrec := { (placedLaunch false).lrec with handler := a } }] }

theorem test_meets_TrapEntersHandler :
    (grp []).tmask = false ∧ (grp []).reissue = [] ∧
    ((handled (grp []) 0x10100).launchOf gid).map (fun l => l.lrec.handler) = some 0x10100 ∧
    (match (handled (grp []) 0x10100).target gid 0x10100 with | .ok w => spEntry w | _ => false) = true := by
  decide +kernel

theorem test_meets_TrapEndsTeam :
    (grp []).reissue = [] ∧ ((at_ (grp [])).launchOf gid).map (fun l => l.lrec.handler) = some 0 ∧
    (handled (grp []) 0x10008).target gid 0x10008 = .bad ∧
    (match (handled (grp []) 0x10010).target gid 0x10010 with | .ok w => spEntry w | _ => true) = false ∧
    ({ handled (grp []) 0x10100 with poison := [.mem ((codeFrame + 0x100) / 8)] } : State).target gid 0x10100 = .uncorr ∧
    issuesAt (grp []) (.abort h1) = true ∧ issuesAt { grp [] with tmask := true } (.abort h1) = true := by
  decide +kernel

/-- What a trap saved. -/
def saved (resume : Option W64) (e : Bool) : TrapSave :=
  { exm := 1, stack := [], spill := 0, o := emptyO, l := emptyL, legPos := 2, block := some { addr := 0x10000, word := signpost 9 0 4 }
    next := 0x10020, e, resume, reissue := [], pend := [], bad := [] }

theorem test_meets_TrapReturns :
    [Instr.trapretSame h1, .trapretNext h1].all (issuesAt (grp [])) = true ∧ (grp []).tmask = false ∧
    [Instr.trapretSame h1, .trapretNext h1].all (issuesAt { grp [] with tmask := true, tsave := some (saved none false) }) = true ∧
    (saved none false).next ≠ ({ addr := 0x10000, word := signpost 9 0 4 } : Block).stop ∧
    [Instr.trapretSame h1, .trapretNext h1].all (issuesAt { grp [] with tmask := true, tsave := some (saved none true) }) = true ∧
    [Instr.trapretSame h1, .trapretNext h1].all
      (issuesAt { grp [] with tmask := true, tsave := some (saved (some 0x10010) false) }) = true := by
  decide +kernel

/-- Whether a check answers accesses. -/
def passes (c : Chk) : Bool := match c with | .ok _ => true | _ => false

theorem test_meets_LoadsIssue :
    issuesAt (grp [(1, 0x20000)]) (.ld hb .rlx .gl .u64 (.v 14) (.g 1) (.k 120) .dev) = true ∧
    laneAddrs (grp [(1, 0x20000)]) hb (.g 1) (.k 120) = [] ∧
    issuesAt (grp [(1, 0x2FFF8)]) (.ld h1 .acq .gl .u64 (.g 2) (.g 1) .zero .dev) = true ∧
    laneAddrs (grp [(1, 0x2FFF8)]) h1 (.g 1) .zero = [(0, 0x2FFF8)] ∧
    passes ((at_ (grp [])).checkLanes (grp []) h1 .gl .load 8 8 [(0, 0x2FFF8)]) = true ∧
    issuesAt (grp []) (.ld h0 .rlx .sh .u8 (.v 15) .zero (.v 2) .dev) = true := by
  decide +kernel

/-- A linear template of one row of 32 bytes from 0x30000 to 0x20000, with FLAGS and the milestone as given. -/
def tmpl (flags : Nat) (ms : Nat := 0) : List Byte :=
  leBytes 2 0 ++ leBytes 2 flags ++ leBytes 4 0 ++ leBytes 8 0x30000 ++ leBytes 8 0x20000 ++ leBytes 4 1 ++ leBytes 4 32
    ++ leBytes 16 0 ++ leBytes 8 ms ++ leBytes 8 0

/-- The context with an aperture, a job's slot 1, a remap window and two templates, the second remote. -/
def ctx2 : Ctx :=
  { ctx1 with
    ranges := [rg 0x10000 0x40000 0 0, rg 0x100000 0x10000 0 3, rg 0x200000 0x100000 0 2, rg 0x300000 0x10000 0x30400 1]
    templates := [(0, tmpl 0), (1, tmpl 1), (3, tmpl 5)], slots := [(1, { pat := 1, ms := 0, cluster := 0, dst := 0 })], qn := 2 }

/-- Its machine, on coordinate 0 of a job of two devices. -/
def job (g : Group) (c : Ctx := ctx2) : State :=
  { at_ g c with
    places := [{ coord := [0], sizes := [2], job := some 1, jobNo := 1, switches := [], attach := none }], qunits := [(0, 1)] }

/-- Whether accesses are made. -/
def isMade (m : Made) : Bool := match m with | .ok _ _ => true | _ => false

theorem test_meets_StoresComplete :
    (let g := grp [(1, 0x20000), (2, 5)]; let s := at_ g
     let made (s : State) (direct : Bool) : Made :=
       s.made g h1 .gl .store 4 4 (laneAddrs g h1 (.g 1) (.k 4)) (storeFn g h1 .u32 (.g 2) direct);
      s.issues (.st h1 .rlx .gl .u32 (.g 2) (.g 1) (.k 4) .dev) g = true ∧ laneAddrs g h1 (.g 1) (.k 4) = [(0, 0x20004)] ∧
        s.issues (.st h1 .rel .gl .u32 (.g 2) (.g 1) (.k 4) .dev) g = true ∧ laneAddrs g hb (.g 1) (.k 4) = [] ∧
        (match s.checkLanes g h1 .gl .store 4 4 (laneAddrs g h1 (.g 1) (.k 4)) with
          | .ok accs => (s.apertureCheck g h1 .u32 (.g 2) accs).isNone && (aperturesOf g h1 .u32 (.g 2) accs).isEmpty
          | _ => false) = true ∧ isMade (made s false) = true ∧
        (match s.released g .dev with | some s2 => isMade (made s2 true) | none => false) = true) ∧
    (let g := grp [(1, 0x200000), (2, 0)]; let s := job g;
      s.issues (.st h1 .rlx .gl .u64 (.g 2) (.g 1) .zero .dev) g = true ∧ (addrOf g h1 (.g 1) .zero 0).toNat % 8 = 0 ∧
        (match s.resolve g .gl .store 8 (addrOf g h1 (.g 1) .zero 0) with | .ok (.aperture off) => off = 0 | _ => false) = true ∧
        s.startWaits gid = false ∧ apCmd 0 = 0 ∧ rd g h1 .u64 (.g 2) 0 < 2 ^ 48 ∧ apIndex (BitVec.ofNat 64 (rd g h1 .u64 (.g 2) 0)) < 4096 ∧
        (ctx2.template? 0).map tmplRemote = some false) := by
  decide +kernel

/-- A misaligned lane, uncovered addresses, a store to read-shared memory, a missing page, and addresses that resolve, at the first and
last bytes of a page, of a share and of a core's part of the window. -/
theorem test_meets_LoadsIssue_checks :
    (let s := at_ (grp []);
      s.ctx? 1 = some ctx1 ∧ s.rangeOf ctx1 0x10000 = some (rg 0x10000 0x40000 0 0) ∧
      s.rangeOf ctx1 0x4FFFC = some (rg 0x10000 0x40000 0 0) ∧ s.rangeOf ctx1 0x50000 = none ∧
      (match s.walk ctx1 0x2FFFC with
        | .ok l => l.kind = 0 && !s.unreached 0 1 [⟨0x2FFFC, 4, l⟩] && !s.spilledAway ctx1 placedTask [⟨0x2FFFC, 4, l⟩]
            && !s.cellDue gid [⟨0x2FFFC, 4, l⟩]
        | _ => false) = true ∧
      (match State.walk { s with mem := [] } ctx1 0x20000 with | .missing _ => true | _ => false) = true ∧
      s.walkWaits ctx1 0x20000 = false ∧ s.walkWaits ctx1 0x2FFFC = false ∧
      (match (s.writeMem (codeTables + 0x10000 + 16) (leBytes 8 (2 ^ 62 + 0x210001))).walk ctx1 0x20000 with
        | .ok l => l.kind = 1 | _ => false) = true ∧
      (match (s.teamOf gid).bind s.shareOf with
        | some (cl, off, size) => size = 4096 && !s.winWaits cl (off + 4092) 4 | none => false) = true ∧
      s.off 0 1 0 = false ∧ s.winWaits 0 (Config.scratchBytes - 4) 4 = false ∧ s.winWaits 0 (Config.windowBytes - 4) 4 = false ∧
      (s.sharesOn 0).map (·.2.2) = [1] ∧ (s.sharesOn 255).isEmpty = true ∧ State.off { s with disabled := [unitCode 0 1 0] } 0 1 0 = true) ∧
    (let s := job (grp []);
      (s.rangeOf ctx2 0x100000).map (·.kind) = some 3 ∧ (s.rangeOf ctx2 0x200000).map (·.kind) = some 2) ∧
    ([(3, 0x20001), (5, 0x20004)] : List (Nat × W64)).filter (fun x => x.2.toNat % 4 ≠ 0) = [(3, 0x20001)] ∧
    ([(3, 0x50000), (5, 0x20004)] : List (Nat × W64)).filter
      (fun x => (at_ (grp [])).resolve (grp []) .gl .load 4 x.2 = .prot) = [(3, 0x50000)] ∧
    (match State.resolve { at_ (grp []) with mem := [] } (grp []) .gl .load 4 0x20000 with | .miss ms => !ms.isEmpty | _ => false) = true ∧
    (match (at_ (grp [])).resolve (grp []) .gl .load 4 0x2FFFC with | .ok _ => true | _ => false) = true ∧
    (let s : State := { at_ (grp []) with fences := [⟨1, unitCode 0 5 3⟩] };
      s.walkWaits ctx1 0x20000 = true ∧ s.resolve (grp []) .gl .load 4 0x20000 = .held) := by
  decide +kernel

/-- A lane of an LD, an ST, an ATOM and an ATOMO that is not aligned. -/
theorem test_meets_access_traps :
    let g := grp [(1, 0x20001), (2, 5)]; let s := at_ g
    let traps (c : Chk) : Bool := match c with | .trap t => t.cause = .align && t.info = 0x20001 | _ => false
    [Instr.ld h1 .rlx .gl .u32 (.g 3) (.g 1) .zero .dev, .st h1 .rlx .gl .u32 (.g 2) (.g 1) .zero .dev,
      .atom h1 .exch .rlx .dev .gl .u64 (.g 3) (.g 1) (.g 2), .atomo h1 .add .u32 (.g 1) (.g 2) (.k 0)].all (s.issues · g) = true ∧
    laneAddrs g h1 (.g 1) .zero = [(0, 0x20001)] ∧ traps (s.checkLanes g h1 .gl .load 4 4 [(0, 0x20001)]) = true ∧
    traps (s.checkLanes g h1 .gl .store 4 4 [(0, 0x20001)]) = true ∧ traps (s.checkLanes g h1 .gl .atom 8 8 [(0, 0x20001)]) = true ∧
    traps (s.checkLanes g h1 .gl .cell 16 16 [(0, 0x20001)]) = true := by
  decide +kernel

/-- The machine with a remap window of four rows and four blocks of 256 bytes. -/
def remapped (g : Group) : State :=
  (((job g).writeMem 0x220400 (leBytes 8 0x30800 ++ leBytes 4 4 ++ leBytes 4 8 ++ leBytes 8 0x20000 ++ leBytes 8 4
    ++ leBytes 8 0x30900 ++ leBytes 8 0x30A00 ++ leBytes 4 4 ++ leBytes 4 2)).writeMem 0x220800
    (leBytes 8 (2 ^ 48 + 0x20000))).writeMem 0x220900 (leBytes 4 1 ++ leBytes 4 2)

/-- 01 R11, R24: while the die link to a table's home is fenced a remap window is not read, and a page table in the memory of another
partition holds no page. -/
theorem test_link_and_partition :
    (let s : State := { remapped (grp []) with fences := [⟨1, unitCode 1 8 0⟩] };
      s.xlat ctx2 1 0x300000 = .wait ∧ (match s.xlat ctx2 0 0x300000 with | .row .. => true | _ => false) = true) ∧
    (let s : State := { at_ (grp []) with arrange := 4 };
      (match s.walk ctx1 0x20000 with | .ok _ => true | _ => false) = true ∧
        s.walk { ctx1 with part := 1 } 0x20000 = .missing false) := by
  decide +kernel

/-- An entry that is shared and names a block that the window has not. -/
def foreignRow : W64 := 2 ^ 49 + 2 ^ 48 + 0x30000

/-- The team has stored that entry to the window's first row; a release publishes it. -/
def rowHeld (g : Group) : State :=
  { remapped g with teams := [{ placedTeam false with
      version := (leBytes 8 foreignRow.toNat).zipIdx.map fun x => (0x30800 + x.2, x.1) }] }

/-- Lane 0 goes to the row's entry, with that value, and lane 1 through the window. -/
def twoLanes : Group :=
  { grp [] with
    exm := 3
    v := (List.range 16).map fun k =>
      if k = 2 then [0x30800, 0x300000] ++ List.replicate 30 0
      else if k = 4 then [foreignRow.setWidth 32, 0] ++ List.replicate 30 0
      else if k = 5 then [(foreignRow >>> 32).setWidth 32, 0] ++ List.replicate 30 0
      else zeroRow }

/-- Stores and atomics that trap as they are made, in an earlier lane's wake or after a release. -/
theorem test_meets_traps_made :
    (let g := grp [(1, 0x300000), (2, 5)]; let s := rowHeld g
     let st (s : State) : Option Trap :=
       (s.made g h1 .gl .store 4 4 (laneAddrs g h1 (.g 1) .zero) (storeFn g h1 .u32 (.g 2) true)).trap?
     let at1 (s : State) : Option Trap :=
       (s.made g h1 .gl .atom 4 4 (laneAddrs g h1 (.g 1) .zero) (atomLaneFn g h1 true .add .u32 (.g 2))).trap?;
      [Instr.st h1 .rel .gl .u32 (.g 2) (.g 1) .zero .dev, .atom h1 .add .ar .dev .gl .u32 .zero (.g 1) (.g 2)].all
        (s.issues · g) = true ∧
      passes (s.checkLanes g h1 .gl .store 4 4 (laneAddrs g h1 (.g 1) .zero)) = true ∧
      passes (s.checkLanes g h1 .gl .atom 4 4 (laneAddrs g h1 (.g 1) .zero)) = true ∧
      (s.released g .dev).any (fun s1 => s1.atomBads g h1 .gl 4 (laneAddrs g h1 (.g 1) .zero) = []
        && (st s1).isSome && (at1 s1).isSome) = true) ∧
    (let g := twoLanes; let s := remapped g; let xs := laneAddrs g h0 (.v 2) .zero;
      s.issues (.atom h0 .exch .acq .dev .gl .u64 .zero (.v 2) (.v 4)) g = true ∧ xs = [(0, 0x30800), (1, 0x300000)] ∧
      passes (s.checkLanes g h0 .gl .atom 8 8 xs) = true ∧ s.atomBads g h0 .gl 8 xs = [] ∧
      (s.made g h0 .gl .atom 8 8 xs (atomLaneFn g h0 true .exch .u64 (.v 4))).trap? =
        some { cause := .prot, info := 0x300000, lanes := 2 }) := by
  decide +kernel

/-- A store to a page that is missing is not made. -/
theorem test_meets_StoresComplete_miss :
    (let g := grp [(1, 0x40000), (2, 5)]; let s := (at_ g).writeMem (codeTables + 0x10000 + 32) (leBytes 8 0);
      s.issues (.st h1 .rlx .gl .u32 (.g 2) (.g 1) .zero .dev) g = true ∧ laneAddrs g h1 (.g 1) .zero ≠ [] ∧
      (match s.checkLanes g h1 .gl .store 4 4 (laneAddrs g h1 (.g 1) .zero) with | .miss _ => true | _ => false) = true ∧
      (match s.made g h1 .gl .store 4 4 (laneAddrs g h1 (.g 1) .zero) (storeFn g h1 .u32 (.g 2) false) with
        | .miss ms owners => ms = [(.page 0x40000, false)] && owners.isEmpty
        | _ => false) = true) := by
  decide +kernel

theorem test_meets_AtomicsComplete :
    (let g := grp [(1, 0x30000), (2, 5)]; let s := at_ g; let xs := laneAddrs g h1 (.g 1) .zero
     let made (s : State) : Made := s.made g h1 .gl .atom 8 8 xs (atomLaneFn g h1 true .add .u64 (.g 2));
      [Instr.atom h1 .exch .acq .dev .gl .u64 (.g 3) (.g 1) (.g 2), .atom h1 .add .ar .dev .gl .u64 .zero (.g 1) (.g 2)].all
        (s.issues · g) = true ∧ xs ≠ [] ∧ passes (s.checkLanes g h1 .gl .atom 8 8 xs) = true ∧ s.atomBads g h1 .gl 8 xs = [] ∧
      isMade (made s) = true ∧ (s.released g .dev).any (fun s1 => s1.atomBads g h1 .gl 8 xs = [] && isMade (made s1)) = true ∧
      State.atomBads { s with poison := [.mem (0x220000 / 8)] } g h1 .gl 8 xs ≠ []) ∧
    laneAddrs (grp [(1, 0x30000)]) hb (.g 1) .zero = [] ∧
    (let g := grp [(1, 0x30010), (2, 5)]; let s := at_ g;
      s.issues (.atomo h1 .add .u32 (.g 1) (.g 2) (.k 0)) g = true ∧
        isMade (s.made g h1 .gl .cell 16 16 (laneAddrs g h1 (.g 1) .zero) (atomoFn g h1 .add .u32 (.g 2) (.k 0))) = true) := by
  decide +kernel

theorem test_meets_MemoryManagementInstructions :
    [Instr.fence h1 .acq .job, .fence h1 .rel .dev, .fence h1 .ar .core, .pref h0 true (.g 1) (.v 2), .cmaintInv h1 (.g 1) (.k 64),
      .cmaintInvall h1, .tier h1 true (.g 1) (.k 2) .zero, .ersv h1 (.q 1) (.g 2) (.k 3), .erel h1 (.k 3)].all
      (issuesAt (grp [(1, 0x20000)])) = true ∧
    ((at_ (grp [])).released (grp []) .dev).isSome = true ∧ (at_ (grp [])).ctx? 1 = some ctx1 ∧
    (at_ (grp [])).readsDue gid = false ∧ (at_ (grp [])).orderedDue gid = false ∧
    ({ at_ (grp []) with loads := [aDrain] } : State).readsDue gid = true ∧
    (at_ (grp [])).spanOk ctx1 0x20000 (65536 * 2) = true ∧ (at_ (grp [])).spanOk ctx1 0x40000 (65536 * 2) = false ∧
    (at_ (grp [])).pagesAt ctx1 0x20000 (65536 * 2) = [0x20000, 0x30000] ∧
    (at_ (grp [])).linesWait ctx1 0 0x20000 64 = false ∧ (at_ (grp [])).emberHeld ctx1 0x40000 65536 = false ∧
    ((at_ (grp [])).clusters ctx1.part)[3]? = some 3 ∧ (at_ (grp [])).reservedBy 1 3 + 2097152 ≤ Config.emberLines ∧
    Config.emberLines < (at_ (grp [])).reservedBy 1 3 + 2097153 ∧
    [Instr.edisc h1 (.g 1) (.g 2), .emig h1 (.g 1) (.k 1) (.k 2)].all (issuesAt (grp [(1, 0x40000), (2, 65536)])) = true ∧
    (match (at_ (grp [])).emberPages ctx1 0x40000 65536 with
      | .inr [p] => p.ia = 0x40000 && p.n = 65536 && !(at_ (grp [])).pieceWaits 1 0 p
          && (match (at_ (grp [])).walk ctx1 p.ia with | .ok l => l = p.leaf | .missing _ => false)
          && !(at_ (grp [])).cellDue gid [p] && !((pagesIn [p]).any fun x => (at_ (grp [])).emigWaits ctx1 0 2 x.1 x.2)
      | _ => false) = true := by
  decide +kernel

theorem test_meets_RemapInstructions :
    (let g := grp [(1, 0x300000), (2, 3), (6, 0x4000000000000)]; let s := remapped g;
      2 ^ 50 ≤ (rd64 g h1 (.g 6)).toNat ∧
      [Instr.rmset h1 (.g 5) (.g 1) (.k 0) (.g 2), .rmsetGet h1 (.g 5) (.g 1) (.k 0), .rmrefInc h1 .zero (.g 1) (.k 1),
        .rmrefDec h1 (.g 5) (.g 1) (.k 1), .rmrefGet h1 (.g 5) (.g 1) (.k 3), .rmrefSet h1 (.g 5) (.g 1) (.k 0) (.k 9),
        .rmset h1 (.g 5) (.g 1) (.k 4) (.g 2), .rmset h1 (.g 5) (.g 1) (.k 0) (.g 6), .rmsetGet h1 (.g 5) (.g 1) (.k 4),
        .rmrefInc h1 .zero (.g 1) (.k 4), .rmrefDec h1 .zero (.g 1) (.k 4), .rmrefGet h1 .zero (.g 1) (.k 4),
        .rmrefSet h1 .zero (.g 1) (.k 4) (.k 9)].all
        (s.issues · g) = true ∧
      (match s.windowAt g h1 (.g 1) with
        | some (s1, c, d) =>
          d.rows = 4 && d.blocks = 4
            && (match s1.iaRead c 0 (d.table + 0) 8 with | .ok _ => true | _ => false)
            && (match s1.iaRead c 0 (d.refs + 4 * 1) 4 with | .ok x => leNat x = 2 | _ => false)
            && (match s1.iaRead c 0 (d.refs + 4 * 0) 4 with | .ok x => leNat x = 1 | _ => false)
            && (match (s1.iaWrite c d.refs (leBytes 4 0)).pushBlock c 0 g.id.task d 0 with | .done _ => true | _ => false)
        | none => false) = true) := by
  decide +kernel

/-- The machine with milestones of kind COUNT at 0x30000 and FUTURE at 0x30040, and a join at 0x30080. -/
def withFuture (phase cont : Nat) (g : Group) (c : Ctx := ctx2) : State :=
  ((((job g c).writeMem 0x220000 msWord).writeMem 0x220040 (leBytes 2 phase ++ leBytes 1 2)).writeMem 0x220068
    (leBytes 8 cont)).writeMem 0x220080 (leBytes 2 0 ++ leBytes 1 3)

theorem test_meets_MilestoneInstructions :
    (let g := grp [(2, 0x30000), (3, 0x30201)]; let s := withFuture 0 0 g;
      [Instr.msinit h1 .bytes true false (.g 1) (.g 2) (.k 8) .zero, .msinit h1 .bytes false true (.g 1) (.g 2) (.k 8) (.g 2),
        .msinit h1 .bytes false true (.g 1) (.g 2) (.k 8) (.g 3), .msinit h1 .join false false (.g 1) (.g 2) (.k 8) (.g 3),
        .msarrArr h1 false (.g 1) (.g 2) (.k 1) .dev, .msarrExp h1 .zero (.g 2) (.k 1), .msbind h1 (.g 2) (.k 63),
        .msbindUnbind h1 (.g 2), .msqry h1 .head true (.g 1) (.g 2), .msarrArr h1 true (.g 1) (.g 2) (.k 1) .dev].all
        (s.issues · g) = true ∧
      (match s.msAt g 0x30000 with
        | some l => (match s.msThere l with
          | some m => m.ok && m.kind = 0 && (match s.released g .dev with | some s2 => s2.msThere l = some m | none => false)
          | none => false)
        | none => false) = true ∧ (rd64 g h1 (.g 3)).toNat % 512 ≠ 0 ∧ (rd64 g h1 (.g 2)).toNat % 512 = 0) ∧
    (let g := grp [(2, 0x30040)]; let s := withFuture 1 0 g;
      s.issues (.msbind h1 (.g 2) (.k 63)) g = true ∧
      (match s.msAt g 0x30040 with | some l => (s.msThere l).any fun m => m.ok && m.kind = 2 && m.phase = 1 | none => false) = true) := by
  decide +kernel

/-- A milestone that expects 2 and has seen 1. -/
def ms12 (rearm : Bool) : Ms :=
  { phase := 65535, kind := 0, err := 0, tag := 0, flags := rearm.toNat, bcore := 0, expect := 2, arrived := 1, chunks := 0
    tilebase := 0, cont := 0, value := 0, resolver := 0 }

theorem test_meets_ArrivalsFlipPhases :
    (ms12 true).kind ≠ 2 ∧ (ms12 true).expect ≠ 0 ∧ (ms12 true).arrived + BitVec.ofNat 64 1 = (ms12 true).expect ∧
    (ms12 true).rearm = true ∧ (ms12 false).rearm = false ∧
    (ms12 true).expect < (ms12 true).arrived + BitVec.ofNat 64 2 ∧ (ms12 true).arrived + BitVec.ofNat 64 0 < (ms12 true).expect ∧
    (ms12 true).err = 0 ∧ (ms12 true).kind = 0 ∧ ({ ms12 true with kind := 2, phase := 1 } : Ms).kind = 2 ∧
    (let m : Ms := { ms12 true with expect := 0 };
      m.expect + 1 ≠ 0 ∧ m.arrived = m.expect + 1 ∧ m.arrived < m.expect + 2 ∧ ({ m with arrived := 2 } : Ms).expect + 1 < 2) ∧
    (let m : Ms := { ms12 true with kind := 2, phase := 0 };
      m.kind = 2 ∧ m.phase = 0 ∧ m.expect ≠ 0 ∧ m.arrived + BitVec.ofNat 64 1 = m.expect) := by
  decide +kernel

theorem test_meets_TemplatesAndFutures :
    (let g := grp [(1, 0x30000), (2, 0x30040), (3, 0), (4, 0x30100), (5, 0x30080)]
     let s := (withFuture 0 0 g).writeMem 0x220100 (tmpl 0);
      [Instr.tdef h1 (.g 4) (.k 7), .tdefClr h1 (.k 7), .trig h1 (.g 1) (.k 1) (.g 3), .trig h1 (.g 1) (.k 2) (.g 3),
        .fres h1 (.g 2) (.k 5), .freg h1 (.q 1) (.g 2) (.g 5)].all (s.issues · g) = true ∧
      (match s.readSpan gid 0x30100 8 8 with | .ok t => tmplOk t | _ => false) = true ∧
      (match s.msAt g 0x30000 with
        | some l => (match s.msThere l with
          | some m => m.err = 0 && m.ok && reached m.phase 1 && !reached m.phase 2 && (s.ctx? 1 = some ctx2)
              && !(s.askMs g l).startWaits gid && !(s.askMs g l).fenced (unitCode 0 13 0) && !(s.askMs g l).triggersFull 1 0
          | none => false)
        | none => false) = true ∧
      (match s.msAt g 0x30040 with
        | some l => (match s.msThere l with
          | some m =>
            let s1 := s.askMs g l
            m.kind = 2 && m.phase = 0 && m.cont = 0 && m.ok && !s1.claimed l && (s.ownClaim g l).isNone
              && (match s.mref 1 (s.joinCluster 1 l) 0x30080 with | .ok l2 => !(s.locSpan l2).held | _ => false)
              && (let k : Claim := { loc := l, gid, live := true };
                  match State.released { s1 with claims := s1.claims ++ [k] } g .job with
                  | some s3 => s3.msThere l = some m && (s3.askMs g l).ownClaim g l = some k
                  | none => false)
          | none => false)
        | none => false) = true) ∧
    (let g := grp [(1, 0x30000), (3, 0)]; let s0 := withFuture 0 0 g;
     let t : Trigger := { id := 1, ctx := 1, cluster := 0, loc := .mem 1 0x30000, ref := 0x30000, phase := 2, idx := 0, param := 0
                          channel := 0, task := 1, vectorOnly := false };
     let s : State := { s0 with triggers := List.replicate Config.triggerEntries t };
      s.issues (.trig h1 (.g 1) (.k 1) (.g 3)) g = true ∧
      (match s.msAt g 0x30000 with
        | some l => (s.msThere l).any (fun m => m.err = 0 && m.ok) && (s.askMs g l).triggersFull 1 0
            && !(s.askMs g l).startWaits gid && !(s.askMs g l).fenced (unitCode 0 13 0)
        | none => false) = true) ∧
    (let g := grp [(2, 0x30040), (5, 0x30080)]
     let at1 (s : State) (bad : Bool) : Bool := match s.msAt g 0x30040 with
      | none => false
      | some l => s.issues (.freg h1 (.q 1) (.g 2) (.g 5)) g
          && (s.msThere l).any (fun m => m.kind = 2 && m.phase = 1 && m.ok)
          && (match s.mref 1 (s.joinCluster 1 l) 0x30080 with
            | .ok l2 => !(s.locSpan l2).held && !s.msWaits g l2 && (s.askMs g l).locBad l2 64 == bad
            | _ => false);
      at1 (withFuture 1 0 g) false = true ∧ at1 { withFuture 1 0 g with poison := [.mem (0x220080 / 8)] } true = true) ∧
    (match (withFuture 0 0x30080 (grp [])).msAt (grp []) 0x30040 with
      | some l => (match (withFuture 0 0x30080 (grp [])).msThere l with | some m => m.phase = 0 && m.cont ≠ 0 && m.ok | none => false)
      | none => false) = true := by
  decide +kernel

/-- A launch record of one team of one group of 16 registers. -/
def record : List Byte :=
  leBytes 8 0x10000 ++ leBytes 8 0 ++ leBytes 4 1 ++ leBytes 4 1 ++ leBytes 4 1 ++ leBytes 2 1 ++ leBytes 2 16 ++ leBytes 2 16
    ++ leBytes 14 0 ++ leBytes 2 1 ++ leBytes 78 0

theorem test_meets_LaunchAndWindowInstructions :
    (let g := grp [(1, 0x20000), (2, 0x30000)]; let s := (at_ g).writeMem 0x210000 record;
      s.issues (.launch h1 (.g 3) (.g 1)) g = true ∧ gid.grp = 0 ∧
        (match s.readSpan gid 0x20000 8 16 with | .ok b => recordFault b = none && !(LRec.ofBytes b).dmode | _ => false) = true ∧
        (s.launchOf gid).map (fun l => (l.depth, l.lrec.dmode, l.lrec.regmax, l.lrec.logical)) = some (1, false, 512, false) ∧
        (match s.released g .dev with | some s1 => !(s1.noteSpan gid 0x20000 8 16).tableFull 1 | none => false) = true ∧
        ({ s with launches := List.replicate 4096 (placedLaunch false) } : State).tableFull 1 = true) ∧
    [Instr.rgrow h1 (.k 16), .rgrow h1 (.k 32), .rgrow h1 (.g 1), .rgrow h1 (.k 24), .rshrk h1 (.k 0), .rshrk h1 (.k 17)].all
      (issuesAt (grp [(1, 528)])) = true ∧
    (at_ (grp [])).growq = [] ∧ 32 - (grp []).v.length ≤ (at_ (grp [])).regsFree (.core 0) ∧
    (let g := { grp [] with v := List.replicate 32 zeroRow, full := List.replicate 32 true };
      (at_ g).issues (.rshrk h1 (.k 16)) g = true ∧ emptyV g 16 16 = false) ∧
    (let g := grp [(2, 0x30000)]; let s := withMs g;
      s.issues (.probe h1 (.g 2)) g = true ∧
      (match s.msAt g 0x30000 with
        | some l => (match s.msThere l with | some m => m.resolver = 0 | none => false) | none => false) = true ∧
      (let s1 := s.writeMem 0x220038 (leBytes 8 7);
        match s1.msAt g 0x30000 with
        | some l => (match s1.msThere l with | some m => m.resolver ≠ 0 | none => false) | none => false) = true) := by
  decide +kernel

theorem test_meets_QuasiRandomInstructions :
    (let g := grp [(1, 0x20000)]; let s := job g;
      [Instr.qld h1 .zero (.k 0) (.k 3), .qld h1 (.g 1) (.k 2) (.k 1), .qset h1 (.k 1), .qrs h0 .u32 (.v 1) (.v 2) (.k 1),
        .qrs h0 .f32 (.v 1) (.v 2) (.k 2)].all (s.issues · g) = true ∧ s.ctx? 1 = some ctx2 ∧
      s.qunit (.core 0) = some 1 ∧ (∀ L ∈ lanesOf g h0, rdN g h0 32 (.k 1) L < ctx2.qn) ∧ 5 ∈ lanesOf g h0 ∧
      ctx2.qn ≤ rdN g h0 32 (.k 2) 5 ∧
      (match s.readSpan gid 0x20000 4 68 with | .ok _ => true | _ => false) = true) ∧
    (at_ (grp [])).qunit (.core 0) ≠ some 1 ∧ issuesAt (grp []) (.qrs h0 .u32 (.v 1) (.v 2) (.k 1)) = true := by
  decide +kernel

theorem test_meets_SlotInstructions :
    (let g := grp [(2, 1), (3, 0x30000), (4, 2)]; let s := withFuture 0 0 g;
      [Instr.sabind h1 (.k 32) (.g 2) .zero, .sabind h1 (.k 31) (.g 2) .zero, .sabind h1 (.k 31) (.g 4) .zero,
        .sabind h1 (.k 31) (.g 2) (.g 3), .sabindDst h1 (.k 1) (.k 64), .sabindDst h1 (.k 2) (.k 64), .sabindClr h1 (.k 1),
        .pcnt h1 (.g 1) (.g 2), .pcnt h1 (.g 1) (.g 4)].all (s.issues · g) = true ∧
      (s.place 0).ok 1 = true ∧ (s.place 0).ok 2 = false ∧
      (match s.mref 1 0 0x30000 with | .ok l => !(s.locSpan l).held | _ => false) = true ∧ (ctx2.binding? 1).isSome = true ∧
      ctx2.binding? 2 = none ∧ (s.fabricRange ctx2).map (fun r => r.limit.toNat - r.base.toNat) = some 65535) := by
  decide +kernel

theorem test_meets_RemoteStoresSend :
    (let g := grp [(1, 0x100000), (2, 1)]; let s := job g;
      s.issues (.rst h1 .u64 (.g 2) (.g 1) (.k 1)) g = true ∧ s.issues (.rcopy h1 (.k 1) (.g 2)) g = true ∧
      (match s.slotAt g h1 (.k 1) with
        | some (c, p, k, x) =>
          (match s.checkRemote c h1 8 (remoteAddrs g h1 (.g 1)) with | .inr b => b = 0x100000 | _ => false)
            && p.count x.pat = 1 && c.allowance k = 16
        | none => false) = true ∧ remoteAddrs g h1 (.g 1) ≠ [] ∧
      s.fabricRange ctx2 ≠ none ∧ apIndex (rd64 g h1 (.g 2)) = 1 ∧ (ctx2.template? 1).map tmplRemote = some true ∧
      (ctx2.template? 0).map tmplRemote = some false ∧ ctx2.template? 2 = none ∧ s.portFenced 0 = false ∧
      (ctx2.template? 3).map (fun t => (tmplRemote t, nat8 t 0 1, bitsN (nat8 t 2 2) 2 2)) = some (true, 0, 1)) ∧
    (let c := { ctx2 with credits := List.replicate 32 [{ hop := 0, grant := 0, owed := 0, passed := 0 }] }
     let g := grp [(1, 0x100000), (2, 1)];
      (job g c).issues (.rst h1 .u64 (.g 2) (.g 1) (.k 1)) g = true ∧ c.allowance 1 < 1) := by
  decide +kernel

theorem test_meets_RemoteReductionsContribute :
    (let g := grp [(2, 0x100000), (3, 0x800)]; let s := job g;
      s.issues (.rred h0 .xor .u32 (.v 1) (.g 2) (.k 1) (.g 3)) g = true ∧
      (match s.slotAt g h0 (.k 1) with
        | some (x, p, _, bd) => p.ok bd.pat && p.single bd.pat && inBox p.coord (p.box (rd64 g h0 (.g 3))) && p.ok (rd64 g h0 (.g 3))
            && (match s.checkRemote x h0 128 [(0, 0x100000)] with | .inr _ => true | _ => false) && 1 ≤ x.allowance 1
        | none => false) = true ∧ lanesOf g h0 ≠ [] ∧ patNself (rd64 g h0 (.g 3)) = false ∧ patAck (rd64 g h0 (.g 3)) = false) := by
  decide +kernel

theorem test_meets_RemoteReadsSend :
    (let g := grp [(1, 0x100000), (2, 1)]; let s := job g;
      [Instr.ratom h1 .exch .u32 (.g 3) (.g 1) (.g 2) (.k 1), .rld h1 .b32 (.g 3) (.g 1) (.k 1)].all (s.issues · g) = true ∧
      (match s.slotAt g h1 (.k 1) with
        | some (c, p, k, x) => p.ok x.pat && p.single x.pat && 1 ≤ c.allowance k
            && (match s.checkRemote c h1 4 (remoteAddrs g h1 (.g 1)) with | .inr _ => true | _ => false)
        | none => false) = true ∧ remoteAddrs g h1 (.g 1) ≠ []) ∧
    [Instr.ratom hb .exch .u32 (.v 3) (.g 1) (.g 2) (.k 1), .rld hb .b32 (.v 3) (.g 1) (.k 1)].all
      ((job (grp [(1, 0x100000)])).issues · (grp [(1, 0x100000)])) = true ∧ remoteAddrs (grp []) hb (.g 1) = [] := by
  decide +kernel

/-- A control core's group, with a format block of bf16 operands without scales at 0x30000, dense or sparse. -/
def ccGrp : Group := grp [(2, 0x30000), (3, 0x8000000000000000)] (.cc 0)
def ccAt (sparse : Nat) (g : Group := ccGrp) : State :=
  (at_ g).writeMem 0x220000 (leBytes 4 0x0A0A ++ leBytes 1 sparse)

/-- The slot 0 of unit 0 belongs to the context. -/
def owning (s : State) : State := s.setUnit 0 ((s.munit 0).allocate 0 1)

theorem test_meets_MatrixStepsAreQueued :
    (owning (ccAt 0)).issues (.mma h1 (.g 1) (.g 2)) ccGrp = true ∧ (ccAt 0).issues (.mmaNew h1 (.g 5) (.g 1) (.g 2)) ccGrp = true ∧
    (owning (ccAt 1)).issues (.mmas h1 (.g 1) (.g 2) (.g 3)) ccGrp = true ∧
    (ccAt 1).issues (.mmasNew h1 (.g 5) (.g 1) (.g 2) (.g 3)) ccGrp = true ∧
    (ccAt 0).unitOff ccGrp 0 = false ∧ (ccAt 0).unitFenced 0 = false ∧ ((ccAt 0).munit 0).heldByOther 1 = false ∧ ((ccAt 0).munit 0).full = false ∧
    (ccAt 0).parkedBy (Park.onSteps 0) = [] ∧ (ccAt 0).parkedBy (Park.onSlot 0) = [] ∧ ccGrp.granted = none ∧
    ((ccAt 0).munit 0).freeSlot? = some 0 ∧ (((owning (ccAt 0)).munit 0).slot 0).allocated 1 = true ∧
    (((ccAt 0).munit 0).slot 0).allocated 1 = false ∧
    (match (ccAt 0).readRef ccGrp 0x30000 8 4 with
      | .ok fb => (FmtBlock.ofBytes fb).ok fb false && (FmtBlock.ofBytes fb).abl = 0 && (FmtBlock.ofBytes fb).bbl = 0
          && (match (ccAt 0).readScales ccGrp (FmtBlock.ofBytes fb) fb 32 with | .ok _ => true | _ => false)
      | _ => false) = true ∧
    (match (ccAt 1).readRef ccGrp 0x30000 8 4 with
      | .ok fb => (FmtBlock.ofBytes fb).ok fb true
          && (match (ccAt 1).readScales ccGrp (FmtBlock.ofBytes fb) fb 64 with | .ok _ => true | _ => false)
      | _ => false) = true ∧
    (match (ccAt 1).readRef ccGrp 0x8000000000000000 1 1024 with | .ok _ => true | _ => false) = true ∧
    ({ ccAt 0 with disabled := [unitCode 0 3 0] } : State).unitOff ccGrp 0 = true ∧
    ({ ccAt 0 with disabled := [unitCode 0 3 0] } : State).issues (.mma h1 (.g 1) (.g 2)) ccGrp = true ∧
    (let s := (ccAt 0).setUnit 0 (((ccAt 0).munit 0).allocate 0 2);
      (s.munit 0).heldByOther 1 = true ∧ s.issues (.mma h1 (.g 1) (.g 2)) ccGrp = true) ∧
    (let s := (ccAt 0).setUnit 0 ((List.range 16).foldl (fun m k => m.allocate k 1) ((ccAt 0).munit 0));
      (s.munit 0).freeSlot? = none ∧ (s.munit 0).heldByOther 1 = false ∧ s.issues (.mmaNew h1 (.g 5) (.g 1) (.g 2)) ccGrp = true) := by
  decide +kernel

theorem test_meets_UnitInstructions :
    [Instr.accrel h1 (.g 1), .strmCnt h1 (.g 5) (.g 1), .strmDrop h1 (.g 5) (.g 1) (.k 1), .cbld h1 (.g 2)].all
      ((owning (ccAt 0)).issues · ccGrp) = true ∧ (((owning (ccAt 0)).munit 0).slot 0).allocated 1 = true ∧
    (((ccAt 0).munit 0).slot 0).allocated 1 = false ∧ ((ccAt 0).munit 0).steps = [] ∧
    issuesAt (grp []) (.accdr h0 .f32 (.v 2) (.g 1) (.k 127)) = true ∧ (at_ (grp [])).vectorOnly gid = false ∧
    lanesOf (grp []) h0 ≠ [] ∧ issuesAt (grp []) (.accdr hb .bf16 (.v 2) (.g 1) (.k 127)) = true ∧ lanesOf (grp []) hb = [] ∧
    (ccAt 0).stepIds 1 = [] ∧ (match (ccAt 0).readSpan gid 0x30000 4 256 with | .ok _ => true | _ => false) = true := by
  decide +kernel

theorem test_meets_CompressionResults :
    [Instr.cmpsVal h0 .bf16 (.v 1) (.v 2), .cmpsMeta h0 .e4m3 (.v 1) (.v 2), .cbdec h0 .f32 (.v 1) (.v 2) (.k 7),
      .cbdec h0 .e4m3 (.v 1) (.v 2) (.k 1), .cbdec h0 .bf16 (.v 1) (.v 2) (.k 3)].all (issuesAt (grp [])) = true ∧
    (at_ (grp [])).ctx? 1 = some ctx1 := by
  decide +kernel

/-- Tiles for a step, and a unit that holds it. -/
def tile (esize : Nat) : TilePos := { ctx := 1, copy := 0, esize, bytes := [], whole := true, entered := true }
def fed (begun : Bool) (esize : Nat := 4) : State :=
  let m := { ((at_ (grp [])).munit 0).allocate 0 1 with steps := [step0 begun], a := [tile esize], b := [tile 4] };
  (at_ (grp [])).setUnit 0 m

theorem test_meets_MatrixUnitSteps :
    ((fed false).munit 0).ready (step0 false) = true ∧ ((fed true).munit 0).ready (step0 true) = true ∧
    (fed true).ctx? 1 = some ctx1 ∧ (tile 4).esize = fmtEsize 10 ∧ (tile 3).esize ≠ fmtEsize 10 ∧
    ((fed true 3).munit 0).ready (step0 true) = true ∧
    (({ at_ (grp []) with loads := [aDrain] } : State).loads.filter fun l => l.kind.isAcc)[0]? = some aDrain ∧
    (((at_ (grp [])).munit 0).slot 0).allocated 1 = false ∧ (((fed true).munit 0).slot 0).allocated 1 = true ∧
    127 ∉ (((fed true).munit 0).slot 0).bad ∧
    ({ at_ (grp []) with loads := [aDrain] } : State).drainBehind aDrain 0 0 = false ∧
    ({ at_ (grp []) with loads := [{ aDrain with id := 9 }, aDrain] } : State).drainBehind aDrain 0 0 = true := by
  decide +kernel

theorem test_meets_AccumulatorExponentOnlyRises :
    ({ freeSlot with elems := [(.nan, 0), (.fin, 3)] } : Slot).all[0]? = some (.nan, 0) ∧
    ([[FVal.num false 1 0]] : List (List FVal))[0]? = some [FVal.num false 1 0] := by
  decide +kernel

/-- A slice that holds as many version lines as it may, all of another team, and a spill area of size 0: no room. -/
theorem versionLine_crowded (s : State) (c : Ctx) (task : W64) (line n : Nat) (t : Team) (v : VLine) (hn : Config.versionLines ≤ n)
    (hv : s.vlines = List.replicate n v) (ht : s.team? c.no task = some t) (hs : t.spilled = []) (hm : v.task ≠ task)
    (hh : s.homeOf v.ctx v.line = s.homeOf c.no line) (hb : c.vsbytes = 0) : s.versionLine c task line = none := by
  have hc : ({ ctx := c.no, task, line } : VLine) ∉ s.vlines := by
    rw [hv, List.mem_replicate]
    rintro ⟨_, h⟩; exact hm (by rw [← h])
  have hl : ¬ (s.vlines.filter fun v => s.homeOf v.ctx v.line = s.homeOf c.no line).length < Config.versionLines := by
    rw [hv, List.filter_replicate, if_pos (by simp [hh]), List.length_replicate]; omega
  have hf : s.spillFree c = none := by simp [State.spillFree, hb]
  simp [State.versionLine, ht, hs, hc, hl, hf]

theorem test_versionLine_crowded :
    State.versionLine { at_ (grp []) with vlines := List.replicate 16384 ⟨1, 7, 0x20000⟩ } ctx1 placedTask 0x20000 = none :=
  versionLine_crowded _ _ _ _ 16384 (placedTeam false) ⟨1, 7, 0x20000⟩ (Nat.le_refl _) rfl rfl rfl (by decide) rfl rfl

/-- A store there finds its place and no room. -/
theorem test_meets_StoresComplete_vovf :
    let s : State := { at_ (grp [(1, 0x20000)]) with vlines := List.replicate 16384 ⟨1, 7, 0x20000⟩ }
    let g := grp [(1, 0x20000)]
    laneAddrs g h1 (.g 1) .zero = [(0, 0x20000)] ∧
    ∃ s1 x, s.place1 g .gl .store 4 0x20000 = .ok s1 x ∧ storeFn g h1 .u32 (.g 2) false 0 x s1 = .vovf := by
  refine ⟨by decide +kernel, ?_⟩
  have h : (match State.resolve { at_ (grp [(1, 0x20000)]) with vlines := List.replicate 16384 ⟨1, 7, 0x20000⟩ }
      (grp [(1, 0x20000)]) .gl .store 4 0x20000 with
    | .ok (.pub [p] none) => p.ia = 0x20000 && p.leaf.kind ≠ 3 | _ => false) = true := by decide +kernel
  split at h
  · rename_i p hr
    simp only [Bool.and_eq_true, decide_eq_true_eq] at h
    refine ⟨_, _, State.place1_plain hr (by simpa using h.2), ?_⟩
    have hv := versionLine_crowded
      { at_ (grp [(1, 0x20000)]) with vlines := List.replicate 16384 ⟨1, 7, 0x20000⟩ } ctx1 placedTask 0x20000
      16384 (placedTeam false) ⟨1, 7, 0x20000⟩ (Nat.le_refl _) rfl rfl rfl (by decide) rfl rfl
    have hl : lineOf p.ia = 0x20000 := by rw [h.1]; decide
    have hw : State.versionWaits { at_ (grp [(1, 0x20000)]) with vlines := List.replicate 16384 ⟨1, 7, 0x20000⟩ } ctx1
        placedTask 0x20000 = false := rfl
    have hc : State.ctx? { at_ (grp [(1, 0x20000)]) with vlines := List.replicate 16384 ⟨1, 7, 0x20000⟩ }
        (grp [(1, 0x20000)]).id.ctx = some ctx1 := by decide +kernel
    have ht : (grp [(1, 0x20000)]).id.task = placedTask := by decide +kernel
    simp only [storeFn, State.storeLane, State.storePieces, h.2, if_false, Bool.false_eq_true, hc, State.holdStore, ht, hl, hw, hv]
  · exact absurd h (by decide)

/-- A slice full of version lines has no room for an ember line, where none that may leave can. -/
theorem emberRoom_full {s : State} {ctx ia n o : Nat} {lf : Leaf} {v : VLine} (hk : lf.kind = 3)
    (hl : (s.emberLine? ctx (lineOf ia)).isSome = false) (hv : s.vlines = List.replicate n v) (hn : sliceLines ≤ n)
    (hh : s.homeOf v.ctx v.line = (lf.home, s.slice lf.home ia)) (hf : s.freeLine ctx lf.home (s.slice lf.home ia) = .empty o) :
    s.emberRoom ctx ia lf = .empty o := by
  have hu : ¬ s.sliceUse lf.home (s.slice lf.home ia) < sliceLines := by
    unfold State.sliceUse
    rw [hv, List.filter_replicate, if_pos (by simp [hh]), List.length_replicate]
    omega
  simp [State.emberRoom, hk, hl, hu, hf]

theorem place1_full {s : State} {g : Group} {w o : Nat} {va : W64} {p : Piece} (hr : s.resolve g .gl .store w va = .ok (.pub [p] none))
    (he : s.emberRoom g.id.ctx p.ia p.leaf = .empty o) : s.place1 g .gl .store w va = .full o := by
  simp [State.place1, State.placeRoom, State.roomFor, hr, he]

theorem made_full_and_miss {s : State} {g : Group} {h : Hdr} {w L M o : Nat} {x y : W64} {act : LaneFn} {ms0 ms : List (Miss × Bool)}
    (hc : s.checkLanes g h .gl .store w w [(L, x), (M, y)] = .miss ms0) (hx : s.place1 g .gl .store w x = .full o)
    (hy : s.place1 g .gl .store w y = .miss ms) :
    s.made g h .gl .store w w [(L, x), (M, y)] act = .miss (distinctMiss ([(.ember, false)] ++ ms)) ([o] ++ []).dedup := by
  simp only [State.made, hc, State.eachLane, hx, hy, Made.beside]

/-- A group of two lanes: one goes to the E page and one to the page at 0x30000, which is missing. -/
def splitLanes : Group :=
  { grp [] with
    exm := 3
    v := (List.range 16).map fun k => if k = 2 then [0x40000, 0x30000] ++ List.replicate 30 0 else zeroRow }

/-- The slice of the E page's line is full, and the one line there that may leave is of context 2, whose backing pool is empty. -/
def fullSlice : State :=
  { (at_ splitLanes).writeMem (codeTables + 0x10000 + 24) (leBytes 8 0) with
    ctxs := [ctx1, { ctx1 with no := 2 }], vlines := List.replicate 65536 ⟨1, 7, 0x40000⟩
    ember := [{ ctx := 2, cluster := 0, line := 0x40000, bytes := List.replicate 64 1 }] }

theorem test_meets_StoresComplete_owners :
    laneAddrs splitLanes h0 (.v 2) .zero = [(0, 0x40000), (1, 0x30000)] ∧
    fullSlice.issues (.st h0 .rlx .gl .u32 (.v 4) (.v 2) .zero .dev) splitLanes = true ∧
    (match fullSlice.checkLanes splitLanes h0 .gl .store 4 4 [(0, 0x40000), (1, 0x30000)] with | .miss _ => true | _ => false) = true ∧
    ∃ ms, fullSlice.made splitLanes h0 .gl .store 4 4 [(0, 0x40000), (1, 0x30000)] (storeFn splitLanes h0 .u32 (.v 4) false) =
      .miss ms [2] := by
  have hc : (match fullSlice.checkLanes splitLanes h0 .gl .store 4 4 [(0, 0x40000), (1, 0x30000)] with
    | .miss _ => true | _ => false) = true := by decide +kernel
  have hm : (match fullSlice.place1 splitLanes .gl .store 4 0x30000 with | .miss _ => true | _ => false) = true := by decide +kernel
  have hr : (match fullSlice.resolve splitLanes .gl .store 4 0x40000 with
    | .ok (.pub [p] none) => p.leaf.kind = 3 && !(fullSlice.emberLine? 1 (lineOf p.ia)).isSome
        && decide (fullSlice.homeOf 1 0x40000 = (p.leaf.home, fullSlice.slice p.leaf.home p.ia))
        && match fullSlice.freeLine 1 p.leaf.home (fullSlice.slice p.leaf.home p.ia) with | .empty o => o = 2 | .ok _ => false
    | _ => false) = true := by decide +kernel
  refine ⟨by decide +kernel, by decide +kernel, hc, ?_⟩
  split at hc <;> try cases hc
  rename_i hk
  split at hm <;> try cases hm
  rename_i hp
  split at hr <;> try cases hr
  rename_i p hq
  simp only [Bool.and_eq_true, decide_eq_true_eq, Bool.not_eq_true'] at hr
  obtain ⟨⟨⟨h3, hl⟩, hh⟩, hf⟩ := hr
  split at hf <;> try cases hf
  rename_i o ho
  simp only [decide_eq_true_eq] at hf
  subst hf
  exact ⟨_, made_full_and_miss hk (place1_full hq (emberRoom_full (v := ⟨1, 7, 0x40000⟩) h3 hl rfl (Nat.le_refl _) hh ho)) hp⟩

/-- The group waits in no slot. -/
def idle (g : Group) : Group := { g with st := .ready }
/-- It is parked on the milestone at 0x30000, whose resolver is a task. -/
def blocked : Group := { grp [] with st := .parked (.waitMs 0x30000 2), since := 0, probeAt := 0 }
def waiting (task : Nat) : State := (withMs blocked).writeMem 0x220038 (leBytes 8 task)

/-- Core 0 keeps logical core 0 resident, its team is held up since cycle 0, and logical core 1023 has a team to run. -/
def sharing : State :=
  let s := at_ blocked
  { s with
    disabled := [unitCode 0 1 5], now := 5000, hostings := [{ core := 0, lcore := 0, waits := some (0, 0), done := false }]
    launches := s.launches.map fun l => { l with lrec := { l.lrec with dmode := true } }
    teams := s.teams ++ [newTeam 1 1 1023 0] }

def aLoad (bad : Option W32) : Load := { id := 5, gid, pc := 0x10008, dst := .v 3 1, kind := .mem [(0, 7)] bad }
def probeTo (task : W64) (hops : Nat) (byInstr : Bool := false) : Probe :=
  { id := 2, origin := gid, target := task, hops := List.replicate hops 9, byInstr }

theorem test_meets_CoreSteps :
    (let s := at_ (idle (grp [])); s.inSlot (.core 0) 0 = none ∧ s.pick (.core 0) 0 = some (idle (grp [])) ∧
      s.logicalGroup (idle (grp [])) = false) ∧
    (let s := { sharing with groups := [idle (grp [])] };
      s.pick (.core 0) 0 = some (idle (grp [])) ∧ s.logicalGroup (idle (grp [])) = true) ∧
    (sharing.hostings.find? (fun h => h.core = 0)).isSome = true ∧ cyclic (sharing.logicalWork 0) 0 = some 1023 ∧
    sharing.switchDue { core := 0, lcore := 0, waits := some (0, 0), done := false } = true ∧ (sharing.hosted 0).isSome = true ∧
    (({ at_ (grp []) with loads := [aLoad none, aLoad (some 1)] } : State).loads.filter fun l => l.kind.isMem)[1]? =
      some (aLoad (some 1)) ∧
    ({ at_ (grp []) with qloads := [(0, 1)] } : State).qloads.find? (fun q => q.1 = 0) = some (0, 1) ∧
    (waiting 77).group? gid = some blocked ∧ (waiting 77).probeDue blocked = true ∧ (waiting 77).edge edgeFuel blocked = some 77 ∧
    (probeTo placedTask 3).target = (probeTo 0 0).origin.task ∧ blocked.isParked = true ∧ (waiting 77).busy blocked = false ∧
    (waiting 77).handlerWaits blocked = false ∧
    15 ≤ (probeTo 77 15).hops.length ∧ (probeTo 77 14).hops.length < 15 ∧ (77 : W64) ≠ placedTask ∧
    (let s := waiting 77;
      let two (g : Group) : State :=
        { s with teams := s.teams ++ [{ newTeam 1 0 77 0 with st := .resident }], groups := [g, blocked] };
      let other : Group := { blocked with id := { gid with task := 77 } };
      (s.team? 1 77).isNone = true ∧ ((two other).team? 1 77).isSome = true ∧
      ((two other).groupsOf 1 77).filter (fun g => g.st ≠ .exited) = [other] ∧ (two other).busy other = false ∧
      (two other).edge edgeFuel other = some 77 ∧
      ((two { other with st := .issuing 0 }).groupsOf 1 77).any (two { other with st := .issuing 0 }).busy = true) ∧
    ({ at_ (grp []) with groups := [{ grp [] with st := .parked .probe }] } : State).group? gid =
      some { grp [] with st := .parked .probe } := by
  decide +kernel

/-- An unstarted team of a launch of one team, on a machine without groups. -/
def unstarted : State := { at_ (grp []) with groups := [], teams := [newTeam 1 1 0 0] }

/-- Four unstarted teams on cluster 0, and a steal message of cluster 1. -/
def stealing (answer : Option (List W64)) : State :=
  { unstarted with
    teams := (List.range 4).map fun k => newTeam 1 1 k 0
    steals := [{ id := 3, ctx := 1, serial := 1, asker := 1, asked := 0, answer }] }

theorem test_meets_TeamsStartAndMove :
    unstarted.admitting 0 = true ∧ unstarted.queueHead 0 = some (newTeam 1 1 0 0) ∧
    (unstarted.spot 0 (newTeam 1 1 0 0)).isSome = true ∧ unstarted.launch? 1 1 = some (placedLaunch false) ∧
    unstarted.ctx? 1 = some ctx1 ∧ (placedLaunch false).lrec.logical = false ∧ (newTeam 1 1 0 0).requeued = false ∧
    ((at_ (grp [])).admitNext 0).isNone = true ∧
    (((stealing none).steals.filter fun x => x.answer.isNone)[0]?).isSome = true ∧
    (((stealing (some [placedTask])).steals.filter fun x => x.answer.isSome)[0]?).map (·.answer) = some (some [placedTask]) := by
  decide +kernel

/-- A machine whose team has no group, with bytes in its version. -/
def ended (version : List Host.Cell) : State :=
  { at_ (grp []) with groups := [], teams := [{ placedTeam false with version }] }

/-- A launch whose teams are gone, and a machine that holds it beside a milestone of kind COUNT and a future. -/
def doneLaunch (donems resolves : W64) : Launch :=
  { placedLaunch false with left := 0, lrec := { (placedLaunch false).lrec with donems, resolves } }
def finishing (donems resolves : W64) : State :=
  { withFuture 0 0 (grp []) with teams := [], groups := [], launches := [doneLaunch donems resolves] }

/-- An update of the milestone that a reference names could be made. -/
def reaches (s : State) (r : W64) : Bool :=
  match s.mref 1 (s.lowCluster 1) r with | .ok l => !s.locUnreached (s.lowCluster 1) l && !s.locBad l 64 | _ => false

theorem test_meets_EndsOfWork :
    (let g := { grp [] with st := .exited };
      (at_ g).group? gid = some g ∧ (at_ g).releaseDue g = true) ∧
    ((ended []).team? 1 placedTask).map (fun t => (ended []).retireDue t) = some true ∧ ((ended []).publish 1 placedTask).2 = [] ∧
    ((ended [(0x50000, 7)]).publish 1 placedTask).2 ≠ [] ∧
    [((0 : W64), (0 : W64)), (0x30000, 0), (0, 0x30040), (0x30000, 0x30040)].all (fun x =>
      let l := doneLaunch x.1 x.2; let s := finishing x.1 x.2
      let s1 := (if x.1 = 0 then s else s.updRef 1 0 (s.lowCluster 1) x.1 (.arrive 1 0)).updLaunch 1 1 fun x => { x with step := 2 }
      decide (s.launch? 1 1 = some l) && s.launchDone l && l.step = 0 && !l.aborted && (x.1 = 0 || reaches s x.1)
        && (x.2 = 0 || reaches s1 x.2)) = true ∧
    [((0x30000 : W64), (0 : W64)), (0, 0x30040)].all (fun x =>
      let s : State := { finishing x.1 x.2 with mem := [] }
      (s.launch? 1 1).any s.launchDone && (match s.mref 1 (s.lowCluster 1) (x.1 ||| x.2) with | .miss _ => true | _ => false)) = true ∧
    (let s := { ended [] with teams := [{ placedTeam false with st := .aborting [1] }] };
      (s.team? 1 placedTask).map (·.st) = some (.aborting [1])) ∧
    (let g : Group := { grp [] with st := .saved none };
      let t : Team := { placedTeam false with st := .leaving .preempt };
      let c : Ctx := { ctx1 with recAddr := 0x180000, pools := [(0x190000, 4)] };
      let s : State := { at_ g c with teams := [t] };
      let stocked := s.writeMem 0x180050 (leBytes 4 2);
      s.team? 1 placedTask = some t ∧ s.ctx? 1 = some c ∧ s.outDue t = true ∧ s.saveBad t [g] = false ∧
      s.saveBad t [{ g with bad := [.v 3] }] = true ∧
      (s.takeFrames c (hbmPool (s.posOf (s.heldOn t))) (imageFrames (s.scratchOf 1 1) [g])).isNone = true ∧
      (stocked.takeFrames c (hbmPool (stocked.posOf (stocked.heldOn t))) 2).isSome = true ∧
      imageFrames (s.scratchOf 1 1) [g] ≤ 2) := by
  decide +kernel

/-- Frame pools of context 1: a record at 0x180000 whose HBM pool of position 0, LP pool and ember pool hold one frame each. -/
def ctxR : Ctx :=
  { ctx1 with
    recAddr := 0x180000, ranges := [rg 0x10000 0x40000 0 0, rg 0x100000 0x10000 0x20000 3]
    pools := [(0x190040, 4), (0, 0), (0, 0), (0, 0), (0x1900C0, 4), (0x1900E0, 4)] }
def poolOf (f : Nat) (s : State) (off : Nat) : State :=
  (s.writeMem (0x180000 + off) (leBytes 8 (0x190000 + off) ++ leBytes 4 4 ++ leBytes 4 0 ++ leBytes 4 1)).writeMem (0x190000 + off)
    (leBytes 8 f)
def stocked : State := poolOf 0x260000 (poolOf 0x4000000000 (poolOf 0x250000 (at_ (grp []) ctxR) 0x40) 0xC0) 0xE0

def tierMove (lp : Bool) (pages : List Nat) (ms : W64) (err : Nat) : Tier :=
  { id := 4, ctx := 1, task := placedTask, cluster := 0, lp, pages, ms, bytes := 65536, err }

/-- An E page at 0x40000 whose late frame stands, with one line. -/
def lateE (s : State) : State :=
  { s.writeMem (codeTables + 0x10000 + 32) (leBytes 8 (3 * 2 ^ 62 + 0x230003)) with
    ember := [{ ctx := 1, cluster := 0, line := 0x40040, bytes := List.replicate 64 1 }] }

/-- A contribution of rank r at a cell of NEXT 1 and count n. -/
def contributed (r : W32) (st : OSt) (n : Nat) : State :=
  { (at_ (grp [])).writeMem 0x220100 (leBytes 8 0 ++ leBytes 4 1 ++ leBytes 4 n) with
    ordered := [{ id := 6, gid, cluster := 0, slice := 0, ia := 0x30100, op := .add, ty := .u32, val := 5, rank := r, st }] }

theorem test_meets_MemorySteps :
    (let s : State := { at_ (grp []) ctxR with migrations := [⟨1, 0x20000, 0⟩] };
      let s1 : State := { stocked with migrations := [⟨1, 0x20000, 0⟩] };
      s.migrations[0]? = some ⟨1, 0x20000, 0⟩ ∧ s.ctx? 1 = some ctxR ∧
      (match s.walk ctxR 0x20000 with | .ok l => isLp l.frame | _ => true) = false ∧
      (s.takeFrame ctxR (hbmPool (s.posOf 0))).isNone = true ∧ (s1.takeFrame ctxR (hbmPool (s1.posOf 0))).isSome = true) ∧
    (let t := tierMove true [0x20000] 0 0; let s : State := { stocked with tiers := [t] };
      (s.tiers.filter fun t => !t.pages.isEmpty)[0]? = some t ∧ t.pages = 0x20000 :: [] ∧ s.ctx? 1 = some ctxR ∧
      (match s.walk ctxR 0x20000 with | .ok l => l.kind ≠ 3 && !isLp l.frame && !s.badMem l.frame 65536 | _ => false) = true ∧
      s.migrating 1 0x20000 = false ∧ (s.takeFrame ctxR lpPool).isSome = true ∧
      (({ at_ (grp []) ctxR with tiers := [t] } : State).takeFrame ctxR lpPool).isNone = true ∧
      State.badMem { s with poison := [.mem (0x210000 / 8)] } 0x210000 65536 = true ∧
      (match (s.writeMem (codeTables + 0x10000 + 16) (leBytes 8 (2 ^ 62 + 0x210001))).walk ctxR 0x20000 with
        | .ok l => l.kind = 1 | _ => false) = true) ∧
    (({ stocked with tiers := [tierMove true [] 0 0] } : State).tiers.filter fun t => t.pages.isEmpty && t.waits.isEmpty)[0]? =
      some (tierMove true [] 0 0) ∧
    (match (withMs (grp [])).mref 1 0 0x30000 with | .ok _ => true | _ => false) = true ∧
    (let s := lateE stocked;
      (s.ember[0]?.map fun e => (s.evictable e, (s.evictEmber e).isSome)) = some (true, true)) ∧
    (let s := lateE (at_ (grp []) { ctxR with ember := [64, 0, 0, 0] }); s.ember[0]?.map s.evictable = some false) ∧
    [((0 : W32), 0), (1, 0), (1, 2), (2, 3), (2, 2), (3, 2)].all (fun x =>
      let s := contributed x.1 .sent x.2
      match (s.ordered.filter fun o => o.st = .sent)[0]? with
      | none => false
      | some o => match s.cellHome o with
        | some (_, _, ps) => !s.piecesBad 1 ps && nat8 (s.readPieces 1 ps) 12 4 = x.2 && nat8 (s.readPieces 1 ps) 8 4 = 1
        | none => false) = true ∧
    ((contributed 5 .refused 0).ordered.filter fun o => o.st = .refused)[0]?.isSome = true := by
  decide +kernel

/-- Of two contributions of the group to one cell with one rank, the later waits for the earlier. -/
theorem test_meets_MemorySteps_behind :
    let s := contributed 1 .sent 4
    let two : State := { s with ordered := s.ordered ++ s.ordered.map fun o => { o with id := 7 } }
    ((two.ordered.filter fun o => o.st = .sent).map fun o => (two.orderedBehind o, (two.cellHome o).isSome)) =
      [(false, true), (true, true)] := by
  decide +kernel

/-- A start of a template on channel 2 of cluster 0, and a copy of it. -/
def aStart (t : List Byte) (st : SSt) (vo : Bool := false) (param : W32 := 0) : Start :=
  { id := 7, ctx := 1, gid := none, task := placedTask, cluster := 0, channel := 2, idx := 0, tmpl := t, param, vectorOnly := vo
    remote := none, st }
def aCopy (t : List Byte) (row err : Nat) : Copy := { id := 7, start := aStart t .queued, row, sent := 0, waits := [], err }
def starting (t : List Byte) (st : SSt) (vo : Bool := false) : State := { withMs (grp []) with starts := [aStart t st vo] }

/-- A template that brings a tile of 32 bytes to stream A of unit 0, and one whose source is misaligned. -/
def tileTmpl : List Byte := leBytes 2 0x0403 ++ (tmpl 0).drop 2
def oddTmpl : List Byte := (tmpl 0).take 8 ++ leBytes 8 0x30001 ++ (tmpl 0).drop 16

theorem test_meets_EngineSteps :
    (let s := starting (tmpl 0) .refused; let x := aStart (tmpl 0) .refused;
      (s.starts.filter fun t => t.st = .refused)[0]? = some x ∧ s.startBehind x = false ∧ s.queued 0 2 < Config.channelQueue ∧
        s.fenced (unitCode 0 6 0) = false) ∧
    [(tmpl 0 0x30000, false), (tmpl 0, false), (oddTmpl, false), (tileTmpl, false), (tileTmpl, true)].all (fun x =>
      decide ((starting x.1 .queued x.2).starts.find? (fun t => t.cluster = 0 && t.channel = 2 && t.st = .queued) =
        some (aStart x.1 .queued x.2))) = true ∧
    (aStart (tmpl 0) .queued).t.ms = 0 ∧ (aStart (tmpl 0 0x30000) .queued).t.ms = 0x30000 ∧
    (let s := starting (tmpl 0 0x30000) .queued;
      match s.mref 1 0 0x30000 with | .ok l => !s.locUnreached 0 l | _ => false) = true ∧
    (starting tileTmpl .queued).fenced (unitCode 0 3 0) = false ∧ (aStart tileTmpl .queued).t.unit = 0 ∧
    (aStart oddTmpl .queued).misaligned = true ∧ (aStart (tmpl 0) .queued).misaligned = false ∧ (aStart (tmpl 0) .queued).t.mode = 0 ∧
    (aStart tileTmpl .queued).misaligned = false ∧ (aStart tileTmpl .queued).t.mode = 3 ∧
    ((starting tileTmpl .queued).munit 0).heldByOther 1 = false ∧
    (((starting tileTmpl .queued).munit 0).stream (aStart tileTmpl .queued).t.streamB).length < 4 ∧
    (let y := aCopy (tmpl 0) 0 0; let s : State := { withMs (grp []) with copies := [y] };
      (s.running false)[0]? = some y ∧ s.ctx? 1 = some ctx1 ∧ y.start.t.dstCw = false ∧
      (match s.rowRead ctx1 y 0 y.start.t.rowb with
        | .ok (bs, s1) =>
          (match s1.bteWrite ctx1 0 (y.start.t.dstAt y.start.param y.row) bs with | .ok _ => true | _ => false)
        | _ => false) = true) ∧
    (let p : TilePos := { tile 4 with entered := false };
      let m : MUnit := { idleUnit with a := [tile 4, p] }; let s := (at_ (grp [])).setUnit 0 m;
      ((s.munit 0).stream false).findIdx? (fun p => !p.entered) = some 1 ∧ ((s.munit 0).stream false)[1]? = some p ∧
        p.whole = true) ∧
    [aCopy (tmpl 0) 1 0, aCopy (tmpl 0) 0 2, aCopy (tmpl 0 0x30000) 1 0, aCopy (tmpl 0 0x30000) 0 4].all (fun y =>
      let s : State := { withMs (grp []) with copies := [y] }
      decide ((s.copies.filter fun x => x.waits.isEmpty && (x.err ≠ 0 || (x.row = x.start.t.count && s.tileIn x)))[0]? = some y)
        && (y.start.t.ms = 0
          || match (State.armAcks (s.dropCopy 7) 7).mref 1 0 y.start.t.ms with | .ok _ => true | _ => false)) = true := by
  decide +kernel

/-- An operation at its destination, with its acknowledgements; the fabric's addresses lead to the page at 0x20000. -/
def landing (op : RemOp) (part : Nat := 0) (ms : Nat := 0) : Arrived :=
  { part, waits := [], body :=
      { job := 1, dst := [0], origins := [{ src := [1], slot := 0, seq := 3 }], op, msOff := ms, acks := [([1], 3)], tag := 3 } }
def landed (op : RemOp) : State := { job (grp []) ctxR with landings := [landing op] }

/-- A copy of a store on its way, and one of a later store of its slot. -/
def onTheWay (seq : Nat) : FCopy :=
  { part := 0, at_ := none, reach := [(0, 1)], nself := false, cost := 1
    body := { job := 1, dst := [], origins := [{ src := [0], slot := 0, seq }], op := .store [], msOff := 0, acks := [], tag := seq } }

def aLink : Link := { lanes := [0, 1, 2, 3, 4, 5, 6, 7], key := 1, dropped := 0, corrected := 0, margin := 0 }
def anAssignment : Assignment :=
  { part := 0, job := 1, coord := [2, 5], sizes := [4, 8], jobCtx := some 1, switches := [], attach := none }

theorem test_meets_FabricSteps :
    (let s := job (grp []);
      s.ctx? 1 = some ctx2 ∧ (ctx2.binding? 1).isSome = true ∧ s.jobCtx ctx2.part = some 1 ∧ ctx2.st ≠ .saved ∧
      ctx2.credits[1]? = some [{ hop := 0, grant := 16, owed := 0, passed := 0 }] ∧ s.assignmentFits anAssignment = true) ∧
    (let c : Ctx := { ctx2 with credits := List.replicate 32 [{ hop := 0, grant := 512, owed := 0, passed := 0 }], ranges := [rg 0x100000 0x20000 0 3] };
      let b : Binding := { pat := 1, ms := 0, cluster := 0, dst := 0 };
      let t := leBytes 2 0 ++ leBytes 2 3 ++ leBytes 4 0 ++ leBytes 8 0 ++ leBytes 8 0x100000 ++ leBytes 4 1 ++ leBytes 4 0x20000
        ++ leBytes 32 0;
      let x : Copy := { aCopy t 0 0 with start := { aStart t .queued with remote := some (1, b) } };
      let l := placedLaunch false;
      let s : State := { job (grp []) c with copies := [x], launches := [{ l with lrec := { l.lrec with scratch := 0x20000 } }] };
      (s.running true)[0]? = some x ∧ s.ctx? 1 = some c ∧
      ((s.fabricRange c).map fun r =>
        let d := (x.start.t.dstAt x.start.param x.row).toNat
        r.covers d && d + x.start.t.rowb - 1 ≤ r.limit.toNat) = some true ∧
      (min 65536 (x.start.t.rowb - x.sent) + 255) / 256 ≤ c.allowance 1 ∧
      x.sent + min 65536 (x.start.t.rowb - x.sent) ≠ x.start.t.rowb ∧
      (match s.rowRead c x x.sent (min 65536 (x.start.t.rowb - x.sent)) with | .ok _ => true | _ => false) = true) ∧
    ({ at_ (grp []) with fcopies := [onTheWay 3, onTheWay 4] } : State).mayMove (onTheWay 3) = true ∧
    ({ at_ (grp []) with fcopies := [onTheWay 3, onTheWay 4] } : State).mayMove (onTheWay 4) = false ∧
    aLink.lanes.contains 5 = true ∧ aLink.lanes.contains 8 = false ∧ State.reset.links[31]?.isSome = true ∧
    anAssignment.part < State.reset.places.length ∧ assignmentOk anAssignment = true := by
  decide +kernel

/-- How bytes of an operation stand at the destination. -/
def lands (s : State) (off w : Nat) (write : Bool) : Nat :=
  match s.landAt ctxR (rg 0x100000 0x10000 0x20000 3) off w write with | .ok _ => 0 | .fail e => e | .miss _ => 100 | .moving => 200

theorem test_meets_OperationsLand :
    [RemOp.store [(64, [1, 2, 3, 4])], .store [(0xFFFE, [1, 2, 3, 4])], .load 4 [(0, 64)], .atom .add .u32 [(0, 64, 5, 0)]].all
      (fun op => let s := landed op
        decide (s.landings[0]? = some (landing op)) && s.mayLand 0 (landing op) && (landing op).body.msOff = 0
          && decide (s.jobRange 0 = some (ctxR, rg 0x100000 0x10000 0x20000 3))) = true ∧
    (let s := landed (.store [(64, [1, 2, 3, 4])]);
      lands s 64 4 true = 0 ∧ lands s 0xFFFE 4 true = 2 ∧ lands s 64 4 false = 0 ∧
      lands { s with mem := [] } 64 4 true = 100 ∧
      (match s.landAt ctxR (rg 0x100000 0x10000 0x20000 3) 64 4 true with
        | .ok ps => !s.piecesBad 1 ps && State.piecesBad { s with poison := [.mem (0x210040 / 8)] } 1 ps
            && (match State.roomFor { s with landings := [] } 1 ps with | .ok _ => true | .empty _ => false)
        | _ => false) = true) := by
  decide +kernel

/-- A read that the device answers to itself: its sender is found, and is the destination. -/
theorem test_meets_OperationsLand_own :
    let s : State := { landed (.load 4 [(0, 64)]) with
      loads := [{ id := 3, gid, pc := 0x10008, dst := .v 2 1, kind := .remote .u32 false 0 0 [] 0 }] }
    let own : Landing := { (landing (.load 4 [(0, 64)])).body with origins := [{ src := [0], slot := 0, seq := 3 }] }
    (s.loads.find? fun l => l.id = own.tag && l.kind.isRemote).isSome = true ∧ own.origins.any (fun o => o.src = own.dst) = true := by
  decide +kernel

/-- An acknowledgement of operation 3 from peer 1, what awaits it, a response, and the load that awaits that. -/
def anAck (err : Nat) : Ack := { peer := [1], tag := 3, err }
def anAwait : Await := { tag := 3, ctx := 1, ms := 0x30000, cluster := 0, from_ := [[1], [2]], until_ := some 0 }
def aResponse (err : Nat) : Response := { peer := [1], tag := 5, err, lanes := [(0, 9)] }
def remoteLoad : Load :=
  { id := 5, gid, pc := 0x10008, dst := .v 3 1, kind := .remote .u32 false 0 0 [(0, 0x100000)] 0 }
def aContribution : Contribution :=
  { job := 1, origin := { src := [0], slot := 0, seq := 1 }, dst := [1], base := 0, op := .add, ty := .u32, srcPat := 0
    round := 0, elems := [], msOff := 0, ack := false, tag := 1 }
def aRound (until_ : Nat) : Round := { id := 8, first := aContribution, parts := [aContribution], until_, lost := [] }

/-- A round of two devices, and of one, at a destination of the package that names a milestone there. -/
def twoOf (src : W64) : Round :=
  let k := { aContribution with dst := [0], srcPat := src, msOff := 0x40 }
  { aRound 0 with first := k, parts := [k] }

theorem test_meets_EndsOfWork_answers :
    (let s : State := { job (grp []) with
        acks := [(0, anAck 0), (0, anAck 2)], awaits := [anAwait], resps := [(0, aResponse 0), (0, aResponse 4), (0, aResponse 2)]
        loads := [remoteLoad, { remoteLoad with id := 6, kind := .remote .u32 true 0x30000 0 [(0, 0x100000)] 0 }] };
      s.acks[0]? = some (0, anAck 0) ∧ s.acks[1]? = some (0, anAck 2) ∧
      s.awaits.find? (fun w => w.tag = (anAck 0).tag && w.from_.contains (anAck 0).peer) = some anAwait ∧
      s.stale (s.jobOf anAwait.ctx) (anAck 0).peer 3 = none ∧
      (State.stale { s with rejoins := [⟨1, [1], 9, 0⟩] } (s.jobOf anAwait.ctx) (anAck 0).peer 3).isSome = true ∧
      s.awaits[0]? = some anAwait ∧ anAwait.until_ = some 0 ∧ 0 ≤ s.now ∧ s.inRound anAwait.tag = false ∧
      s.silent anAwait = [[1], [2]] ∧ s.silent { anAwait with from_ := [[0], [1]] } = [[1]] ∧
      s.silent { anAwait with from_ := [[0]] } = [] ∧
      s.awaits.find? (fun w => w.tag = 9 && w.from_.contains (anAck 0).peer) = none ∧
      s.resps[0]? = some (0, aResponse 0) ∧ s.resps[1]? = some (0, aResponse 4) ∧ s.resps[2]? = some (0, aResponse 2) ∧
      s.loads.find? (fun l => l.id = (aResponse 0).tag && l.kind.isRemote) = some remoteLoad ∧
      s.stale (s.jobOf remoteLoad.gid.ctx) (aResponse 0).peer 5 = none ∧
      ([(0, 0x100000)] : List (Nat × W64)).find? (fun x => ((aResponse 2).lanes.map (·.1)).contains x.1) = some (0, 0x100000) ∧
      (s.loads.filter fun l => l.kind.isRemote)[0]? = some remoteLoad ∧
      ((s.loads.filter fun l => l.kind.isRemote)[1]?).isSome = true) ∧
    (let s : State := { job (grp []) ctxR with
        rounds := [aRound 0, aRound 100, twoOf 0x800]
        awaits := [{ anAwait with tag := 1 }] };
      s.rounds[0]? = some (aRound 0) ∧ (aRound 0).until_ ≤ s.now ∧ s.rounds[1]? = some (aRound 100) ∧ s.now < (aRound 100).until_ ∧
      [aRound 0, aRound 100, twoOf 0x800].map s.whole = [true, true, false] ∧
      (s.awaitOf aContribution).isSome = true ∧ s.awaits[0]?.map (fun w => s.inRound w.tag) = some true ∧
      s.partAt 1 [0] = some 0 ∧ s.jobCtx 0 = some 1 ∧ s.ctx? 1 = some ctxR ∧ (s.fabricRange ctxR).isSome = true ∧
      (firstOf (twoOf 0x800).parts).map (·.msOff) = some 0x40) ∧
    (let x := landing (.void 6) 0 0x10040; let y : Arrived := { x with body := { x.body with acks := [] } };
     let r := rg 0x100000 0x20000 0x20000 3; let c := { ctxR with ranges := [rg 0x10000 0x40000 0 0, r] };
     let s : State := { job (grp []) c with landings := [y] };
      s.landings[0]? = some y ∧ s.mayLand 0 y = true ∧ s.jobRange 0 = some (c, r) ∧
      (match s.landAt c r 0x10040 64 true with | .ok ps => ps.all fun p => decide (2 ≤ p.leaf.kind) | _ => false) = true) := by
  decide +kernel

/-- A message of a TYPE for a context, with its payload. -/
def aMsg (type ctx : Nat) (payload : List Byte) : Msg :=
  { seq := 5, bytes := leBytes 4 5 ++ leBytes 2 type ++ leBytes 2 ctx ++ payload ++ List.replicate (56 - payload.length) 0 }
def sent (m : Msg) (s : State) : State := { s with fns := s.fns.map fun f => { f with pending := [m] } }

/-- A saved context, alone, and its record at 0x180000. -/
def savedAway (bound : Bool) : State :=
  { at_ (grp []) { ctx1 with st := .saved, bound } with groups := [], teams := [], launches := [] }.writeMem 0x180000 (leBytes 2 1)

theorem test_meets_PreemptionMessages :
    [aMsg 3 1 (leBytes 4 100), aMsg 4 1 []].all (fun m =>
      let s := sent m (at_ blocked)
      (s.headMsg 0 3 = some m || s.headMsg 0 4 = some m) && decide (s.owned 0 m = some ctx1)
        && ((s.popMsg 0 m).ctx? 1).isSome && decide (ctx1.st ≠ .saved)) = true ∧
    (let c : Ctx := { ctx1 with prq := true }; (at_ blocked c).ctx? 1 = some c ∧ c.st = .resident ∧ c.pdlAt ≤ (at_ blocked c).now) ∧
    (let c : Ctx := { ctx1 with prq := true }; let out : State := { at_ (grp []) c with groups := [], teams := [], launches := [] };
      let e : Ember := { ctx := 1, cluster := 0, line := 0x40040, bytes := List.replicate 64 1 };
      out.ctx? 1 = some c ∧ out.saveDue c = true ∧ (out.flushEmber []).2 = true ∧
      ({ out with ember := [e] } : State).saveDue c = true ∧ (({ out with ember := [e] } : State).flushEmber [e]).2 = false) ∧
    (let m := aMsg 5 1 (leBytes 8 0x180000); let s := sent m (savedAway false);
      s.headMsg 0 5 = some m ∧ ((s.ctx? 1).map (·.st)) = some .saved ∧ nat8 (s.ctxRec m.addr.toNat) 0 2 = m.ctx ∧
      ctxRecFault (s.ctxRec m.addr.toNat) (s.clusters 0).length = none ∧
      (s.ctx? 1).map (fun c => s.unitsMeet c (s.clusters 0).length) = some false) ∧
    (let m := aMsg 5 1 (leBytes 8 0x180000); let s0 := savedAway true;
      let s : State := { s0 with fns := (s0.fns ++ s0.fns).map fun f => { f with pending := [m] } };
      s.headMsg 1 5 = some m ∧ (s.ctx? 1).map (fun c => (c.bound, c.part)) = some (true, 0) ∧
      ctxRecFault (s.ctxRec m.addr.toNat) (s.clusters 1).length = none) := by
  decide +kernel

/-- 03 R35, R38: the page of a record and of DEPMS is missing, and is present again when a fence is lifted and a step ends; until its FILL
the LAUNCH stays held, and the launch untested. -/
theorem test_waits_for_the_fill :
    let m := aMsg 1 1 (leBytes 8 0x20000); let fill := aMsg 6 1 (leBytes 8 0x20000)
    let page (s : State) (e : Nat) : State := s.writeMem (codeTables + 0x10000 + 16) (leBytes 8 e)
    let s : State := { page (sent m (at_ (grp []))) 0 with fences := [⟨1, unitCode 0 1 5⟩] }
    let dep (s : State) : Option (Dep × List Miss) := (s.launch? 1 7).map fun l => (l.dep, l.waits)
    let r : LRec := { (placedLaunch false).lrec with depms := 0x30000, depphase := 2 }
    let missing := (withMs (grp [])).writeMem (codeTables + 0x10000 + 24) (leBytes 8 0)
    let s2 := (missing.acceptLaunch { ctx1 with serial := 7 } r 1 none).1
    let back := s2.writeMem (codeTables + 0x10000 + 24) (leBytes 8 (2 * 2 ^ 62 + 0x220001))
    (match execLaunchMessage 0 s with
      | .next t =>
        let lifted := (page t 0x210001).lift ⟨1, unitCode 0 1 5⟩
        t.fns[0]?.map (·.waits) = some (some ⟨0x20000, true⟩) && lifted.fns[0]?.map (·.waits) = some (some ⟨0x20000, true⟩)
          && (lifted.fill 1 fill.miss).fns[0]?.map (·.waits) = some none
      | _ => false) = true ∧
    dep s2 = some (.waiting, [.page 0x30000]) ∧ dep back.testDeps = some (.waiting, [.page 0x30000]) ∧
    dep ((back.writeMem 0x220000 (leBytes 2 2)).fill 1 (.page 0x30000)) = some (.met, []) := by
  decide +kernel

theorem test_meets_HostMessages :
    [record, leBytes 128 0].all (fun b =>
      let m := aMsg 1 1 (leBytes 8 0x20000); let s := sent m ((at_ (grp [])).writeMem 0x210000 b)
      decide (s.headMsg 0 1 = some m) && decide (s.owned 0 m = some ctx1) && s.fns[0]?.any (fun f => f.waits.isNone)
        && !s.tableFull 1 && (match s.devRecord ctx1 m.addr with | .ok x => decide (x = b) | _ => false)
        && (recordFault b = none || recordFault b = some 2)) = true ∧
    recordFault record = none ∧ recordFault (leBytes 128 0) = some 2 ∧
    (let m := aMsg 1 1 (leBytes 8 0x20000); let s := sent m ((at_ (grp [])).writeMem (codeTables + 0x10000 + 16) (leBytes 8 0));
      s.headMsg 0 1 = some m ∧ s.owned 0 m = some ctx1 ∧ s.fns[0]?.any (fun f => f.waits.isNone && f.pending.head? = some m) = true ∧
        s.tableFull 1 = false ∧ s.devRecord ctx1 m.addr = .miss [(.page 0x20000, false)] ∧
        (let m9 := aMsg 1 9 (leBytes 8 0x20000); let s9 := sent m9 s;
          m9.type = 1 ∧ s9.fns[0]?.any (fun f => f.pending.head? = some m9) = true ∧ s9.owned 0 m9 = none)) ∧
    (let m := aMsg 2 1 (leBytes 8 0x180000); let s := sent m ((at_ (grp [])).writeMem 0x180000 (leBytes 2 1));
      s.headMsg 0 2 = some m ∧ nat8 (s.ctxRec m.addr.toNat) 0 2 = m.ctx ∧ (s.ctx? m.ctx).isSome = true ∧
        nat8 (({ s with mem := [] } : State).ctxRec m.addr.toNat) 0 2 ≠ m.ctx) ∧
    (0x20 : Nat) ∉ [0x00, 0x08, 0x0C, 0x10, 0x18, 0x1C] ∧
    [leBytes 2 7, leBytes 2 7 ++ leBytes 2 0x100].all (fun b =>
      let m := aMsg 2 7 (leBytes 8 0x180000); let s := sent m ((at_ (grp [])).writeMem 0x180000 b)
      decide (s.headMsg 0 2 = some m) && (s.ctx? m.ctx).isNone && nat8 (s.ctxRec m.addr.toNat) 0 2 = m.ctx) = true ∧
    ctxRecFault (leBytes 768 7) 4 = none ∧ ctxRecFault (leBytes 768 0x1000007) 4 = some 16 ∧
    (let m := aMsg 6 1 (leBytes 8 0x20000); let s := sent m (at_ (grp [])); s.fillMsg 0 = some m ∧ s.owned 0 m = some ctx1) ∧
    (let m := aMsg 7 0 (leBytes 8 0x20000); let s := sent m (at_ (grp [])); s.headMsg 0 7 = some m ∧ m.ctx = 0) ∧
    (let m := aMsg 8 1 []; let s := sent m (at_ (grp []));
      s.headMsg 0 8 = some m ∧ s.owned 0 m = some ctx1 ∧ s.ctxBusy 1 = true ∧
        ({ s with teams := [], launches := [], groups := [] } : State).ctxBusy 1 = false) ∧
    [1, 3, 4, 8].all (fun type =>
      let m := aMsg type 9 []; let s := sent m (at_ (grp []));
      decide (s.headMsg 0 type = some m) && (s.owned 0 m).isNone) = true ∧
    State.reset.fns[0]?.isSome = true ∧ (∀ j < 2, State.reset.isMem (0x20000 + j) = true) := by
  decide +kernel

theorem test_meets_ManagementSteps :
    ({ State.reset with recovery := true } : State).recovery = true ∧ State.reset.recovery = false ∧ State.reset.fresh.1 = 0 ∧
    (let s : State := { State.reset with fences := [⟨1, unitCode 0 1 5⟩] };
      s.fences[0]? = some ⟨1, unitCode 0 1 5⟩ ∧ s.lastSlice (unitCode 0 1 5) = false ∧ unitKind (unitCode 0 1 5) ∈ [1, 3, 4, 5] ∧
        s.lastSlice (unitCode 0 6 0) = false ∧ unitKind (unitCode 0 6 0) ∉ [1, 3, 4, 5]) ∧
    (let s : State := { State.reset with disabled := (List.range 63).map fun k => unitCode 0 4 (k + 1) };
      s.lastSlice (unitCode 0 4 0) = true) ∧
    ¬(State.reset.mhz ≤ 1600 ∧ State.reset.envelope < 3000) ∧
    (let s : State := { State.reset with mhz := 1600 }; s.mhz ≤ 1600 ∧ s.envelope < 3000) ∧
    1600 < State.reset.mhz ∧ State.reset.envelope < 3000 ∧ 1000 ≤ State.reset.envelope ∧ recordFormed [] = false ∧
    (Config.imageOk [] && Config.romMinimum ≤ Config.firmwareOf [] && recordFormed [] && signatureOk []) = false := by
  refine ⟨by decide, by decide, by decide, by decide +kernel, by decide +kernel, by decide, by decide, by decide, by decide, by decide,
    by decide, ?_⟩
  have h : recordFormed [] = false := by decide
  rw [h]; simp

/-- Execution answers a next state. -/
def goesOn (s : State) (i : Instr) : Bool := match exec i s with | .next _ => true | _ => false

theorem test_meets_ComputingChangesOnlyItsDestination :
    [Instr.iadd h0 true .u16 (.v 1) (.v 2) (.kn 63), .imul h0 .wide .u32 (.v 14) (.v 2) (.v 3), .icmp h0 .ge .i32 (.p 1) (.v 2) (.v 3),
      .lea h1 .i64 (.g 2) (.g 4) (.k 3) (.k 3), .vote h0 .any (.q 6) (.v 1), .fadd h0 .rne true .f32 (.o 3) (.v 1) (.v 2)].all
      (fun i => i.computes.isSome && issuesAt (grp []) i && goesOn (at_ (grp [])) i) = true := by
  decide +kernel

/-- Whether the accesses of a store pass, and are as a test says. -/
def storesAs (s : State) (g : Group) (sp : Space) (a : Opd) (p : Nat × W64 × ATgt → Bool) : Bool :=
  s.issues (.st h1 .rlx sp .u64 (.g 2) a .zero .dev) g && goesOn s (.st h1 .rlx sp .u64 (.g 2) a .zero .dev)
    && !(laneAddrs g h1 a .zero).isEmpty && s.memOk
    && match s.checkLanes g h1 sp .store 8 8 (laneAddrs g h1 a .zero) with | .ok accs => accs.all p | _ => false

theorem test_meets_StoresChangeOnlyTheirBytes :
    (let g := grp [(2, 5), (3, 64)];
      storesAs (at_ g) g .sh (.g 3) (fun x => match x.2.2 with | .scr _ _ => true | _ => false) = true) ∧
    (let g := grp [(2, 5), (3, 0x20040)];
      storesAs (at_ g) g .gl (.g 3) (fun x => match x.2.2 with
        | .pub ps none => ps.all fun p => p.leaf.kind = 0
        | _ => false) = true ∧
      isMade ((at_ g).eachLane g h1 .gl .store 8 (storeFn g h1 .u64 (.g 2) false) (laneAddrs g h1 (.g 3) .zero)) = true ∧
      (laneAddrs g h1 (.g 3) .zero).length = 1) ∧
    (let g := grp [(2, 5), (3, 0x40048)]; let s := lateE (at_ g);
      storesAs s g .gl (.g 3) (fun x => match x.2.2 with
        | .pub [⟨ia, n, lf⟩] none => ia = 0x40048 && n = 8 && lf.kind = 3 && (s.emberLine? 1 (lineOf ia)).isSome
            && (s.emberBytes lf 1 (lineOf ia)).length = 64
        | _ => false) = true) ∧
    (let g := grp [(2, 0), (3, 0x200000)]; let s := at_ g ctx2;
      storesAs s g .gl (.g 3) (fun x => match x.2.2 with
        | .aperture _ => (s.apertureCheck g h1 .u64 (.g 2) [x]).isNone && !s.startWaits gid
        | _ => false) = true) := by
  decide +kernel

theorem test_meets_DestinationsReceiveTheirResults :
    (31 : Nat) < 32 ∧ (fun L => if L = 31 then some 0xFFFF else none : Nat → Option Nat) 31 = some 0xFFFF ∧ 0xFFFF < 2 ^ 16 ∧
    (15 : Nat) < (grp []).v.length ∧ 14 + 1 < (grp []).v.length ∧ 31 < (grp []).o.length ∧ 30 + 1 < (grp []).o.length ∧
    127 < (grp []).g.length ∧ 6 < (grp []).p.length ∧ 6 < (grp []).q.length ∧
    (fun L => if L = 31 then some 0xFFFF else none : Nat → Option Nat) 30 = none ∧ 14 + (64 + 31) / 32 ≤ (grp []).v.length ∧
    31 + (16 + 31) / 32 ≤ (grp []).o.length ∧ (grp []).o.getD 31 none = none := by
  decide

/-- Two groups of a team at barrier 3, and one that has not arrived. -/
def atBar3 (last : GSt) : State :=
  { at_ (grp []) with
    groups := [{ grp [] with st := .parked (.bar 3) }, { grp [] with id := { gid with grp := 1 }, st := .parked (.bar 3) },
      { grp [] with id := { gid with grp := 2 }, st := last }] }

theorem test_meets_BarriersReleaseTogether :
    ((atBar3 .exited).groups.map (·.id)).Nodup ∧
    (∀ g ∈ (atBar3 .exited).groups, g.id.ctx = 1 → g.id.task = placedTask → g.st ≠ .exited → g.atBar = some 3) ∧
    ((atBar3 .exited).groups.filter fun g => g.st = .parked (.bar 3)).length = 2 ∧
    ((atBar3 .ready).groups.filter fun g => g.st ≠ .exited && g.atBar ≠ some 3).length = 1 := by
  decide +kernel

def hq (pn : Bool) : Hdr := { h1 with guard := some (1, pn) }

theorem test_meets_FalsePredicatesDoNothing :
    [Instr.mov (hq false) .b32 (.g 1) (.g 2), .mov (hq true) .b32 (.g 1) (.g 2), .mov h1 .b32 (.g 1) (.g 2)].all (fun i =>
      i.shape.any fun sh => sh.h.g && decide ((at_ (grp [])).ready (grp []) sh = .go)) = true ∧
    (at_ (grp [])).cur = some (grp []).id ∧ (at_ (grp [])).group? gid = some (grp []) ∧
    (grp []).q.getD 1 false = false ∧ ({ grp [] with q := List.replicate 7 true } : Group).q.getD 1 false = true := by
  decide +kernel

theorem test_meets_ChecksComeFirst :
    (at_ (grp [])).cur = some gid ∧ (at_ (grp [])).group? gid = some (grp []) ∧
    (Instr.mov h0 .b32 (.v 1) (.v 20)).shape.map (fun sh => (at_ (grp [])).ready (grp []) sh) = some (.trap .window) ∧
    (let g : Group := { grp [] with full := List.replicate 16 false };
      (Instr.mov h0 .b32 (.v 1) (.v 2)).shape.map (fun sh => (at_ g).ready g sh) = some .hold) ∧
    (Instr.mov h1 .b32 (.g 1) (.v 2)).shape.map (fun sh => guardQ (grp []) sh.h) = some true := by
  decide +kernel

/-- What the checks answer: each of their outcomes, in a state that meets its clause and none before it. -/
theorem test_meets_ChecksComeFirst_answers :
    let holds (g : Group) (i : Instr) (s : State := at_ g) := i.shape.map fun sh => s.ready g sh
    let g := grp []
    let empty (n : Nat) : Group := { g with full := (List.replicate 16 true).set n false }
    let aLoad : State := { at_ g with loads := [{ id := 1, gid, pc := 0x10008, dst := .g 3, kind := .mem [] none }] }
    holds g (.mov h0 .b32 (.v 16) (.v 2)) = some (.trap .window) ∧ holds g (.mov h0 .b32 (.v 1) (.o 31)) = some (.trap .legempty) ∧
    holds g (.mov h0 .b32 (.v 1) (.l 3)) = some (.trap .legempty) ∧
    holds (empty 2) (.iadd { h0 with fe1 := true } false .u32 (.v 1) (.v 2) (.v 3)) = some (.trap .empty) ∧
    holds (empty 3) (.iadd { h0 with fe2 := true } false .u32 (.v 1) (.v 2) (.v 3)) = some (.trap .empty) ∧
    holds (empty 4) (.imad { h0 with fe3 := true } .u32 (.v 1) (.v 2) (.v 3) (.v 4)) = some (.trap .empty) ∧
    holds (empty 2) (.iadd h0 false .u32 (.v 1) (.v 2) (.v 3)) = some .hold ∧
    holds (empty 1) (.iadd h0 false .u32 (.v 1) (.v 2) (.v 3)) = some .hold ∧
    holds (empty 2) (.st h0 .rlx .gl .u32 (.v 2) (.g 1) .zero .dev) = some .hold ∧
    holds g (.mov h1 .b32 (.g 1) (.g 3)) aLoad = some .hold ∧
    holds { g with bad := [.v 2] } (.mov h0 .b32 (.v 1) (.v 2)) = some (.trap .uncorr) ∧
    [Instr.pref h1 true (.g 1) (.g 2), .cmaintInv h1 (.g 1) (.g 2), .ersv h1 (.q 1) (.g 1) (.g 2), .erel h1 (.g 2)].all (fun i =>
      decide (holds { g with bad := [.g 2] } i = some .go)) = true ∧
    holds g (.mov h0 .b32 (.v 15) (.v 2)) = some .go := by
  decide +kernel

/-- The words of an instruction where the next step fetches. -/
def fetching (w : Nat) : State := State.reset.withFetchWord 64 w

/-- What the statement on steps asks of the group in a slot. -/
def runsNext (s : State) (site : Site) : Bool :=
  match s.inSlot site 0 with
  | none => false
  | some g =>
    g.spill = 0 && g.reissue = [] && g.pend = [] && match g.block, s.codeWord g.id g.pc with
      | some b, .ok bs =>
        let lit := if namesLit (wordOf bs) then (match s.codeWord g.id (g.pc + 8) with | .ok ls => some (wordOf ls) | _ => none)
          else none
        (namesLit (wordOf bs) = lit.isSome) && (!lit.isSome || b.stop ≠ g.pc + 8) && match decode (wordOf bs) lit with
          | none => false
          | some i => i.shape.any fun sh => siteOk g.site sh && g.legPos < Config.legLimit && !i.isYield
              && (!i.endsBlock || g.pc + BitVec.ofNat 64 (8 * sh.h.len) = b.stop)
      | _, _ => false

theorem test_meets_StepRunsTheDecodedInstruction :
    (let s := fetching 0x2000F000C01C17FE; let s0 : State := { s with agenda := [] };
      s.fatal = false ∧ s.recovery = false ∧ s.fenced (Site.unit (.core 0)) = false ∧ s.agenda = .issue (.core 0) 0 :: [] ∧
      runsNext s0 (.core 0) = true ∧ s0.turnMove = none ∧ s0.issuer = (.core 0, 0)) ∧
    (let s := State.reset.withFetchWord 128 (0x2000F000C01FFFFE + 2 ^ 64 * 7);
      runsNext { s with agenda := [] } (.core 0) = true) ∧
    runsNext { fetching 0x0E00F0FFBFEFFBFE with agenda := [] } (.core 0) = true := by
  decide +kernel

theorem test_meets_StoppedDevicesStayStopped :
    ({ State.reset with fatal := true } : State).dead = true ∧ ({ State.reset with recovery := true } : State).recovering = true ∧
    (match step { State.reset with fatal := true } with | .next _ => true | _ => false) = true := by
  decide +kernel

theorem test_meets_StepsKeepMemoryCanonical :
    (fetching 0x2000F000C01C17FE).memOk = true ∧
    (match step (fetching 0x2000F000C01C17FE) with | .next _ => true | _ => false) = true := by
  decide +kernel

theorem test_meets_DecodeOfEncode :
    [Instr.iadd h0 true .u16 (.v 511) (.v 2) (.kn 63), .movl (h0.withLit 7) .u32 (.v 1) .lit (.k 4), .exit hb].all
      (fun i => i.wf && (encode i).isSome) = true := by
  decide +kernel

/-! Ill-formed terms: each check of `Instr.wf` refuses one. -/

theorem test_wf_refuses :
    (Instr.cvt h0 true .i8 .f32 (.v 1) (.v 2)).wf = false ∧ (Instr.ret h0 (.g 9)).wf = false ∧
    (Instr.iadd h0 false .i64 (.v 1) (.v 2) (.v 4)).wf = false ∧ (Instr.iadd h0 false .i32 (.k 1) (.v 2) (.v 4)).wf = false ∧
    (Instr.iadd h0 false .i32 (.v 1) (.v 2) .lit).wf = false ∧ (Instr.iadd (h0.withLit 7) false .i32 (.v 1) (.v 2) (.v 3)).wf = false ∧
    (Instr.iadd { h0 with fe1 := true } false .i32 (.v 1) (.g 2) (.v 3)).wf = false ∧
    (Instr.iadd { h0 with fe1 := true } false .i32 (.v 1) (.v 2) (.v 3)).wf = true ∧ (Instr.ctxend 0).wf = false := by
  decide

/-! One step each, on values that the spec works out. -/

/-- The group after an instruction. -/
def after (g : Group) (i : Instr) (s : State := at_ g) : Option Group := match exec i s with | .next t => t.group? gid | _ => none

/-- Some main-file registers hold given values in every lane. -/
def vs (xs : List (Nat × Nat)) (g : Group := grp []) : Group :=
  { g with v := xs.foldl (fun l x => l.set x.1 (List.replicate 32 (BitVec.ofNat 32 x.2))) g.v }

/-- Register v1 in lane 0 after an instruction on v2, v3 and v4. -/
def f3 (i : Instr) (a : Nat) (b : Nat := 0) (c : Nat := 0) : Option Nat :=
  (after (vs [(2, a), (3, b), (4, c)]) i).map fun g => g.vAt 1 0

/-- 07 R121 to R127, R137: the tables of cases. -/
theorem test_integer_cases :
    f3 (.idiv h0 false .i32 (.v 1) (.v 2) (.v 3)) 7 0 = some 0xFFFFFFFF ∧ f3 (.idiv h0 true .i32 (.v 1) (.v 2) (.v 3)) 7 0 = some 7 ∧
    f3 (.idiv h0 false .u32 (.v 1) (.v 2) (.v 3)) 7 0 = some 0xFFFFFFFF ∧
    f3 (.idiv h0 false .i32 (.v 1) (.v 2) (.v 3)) 0x80000000 0xFFFFFFFF = some 0x80000000 ∧
    f3 (.idiv h0 true .i32 (.v 1) (.v 2) (.v 3)) 0x80000000 0xFFFFFFFF = some 0 ∧
    f3 (.idiv h0 false .i32 (.v 1) (.v 2) (.v 3)) 0xFFFFFFF9 2 = some 0xFFFFFFFD ∧
    f3 (.idiv h0 true .i32 (.v 1) (.v 2) (.v 3)) 0xFFFFFFF9 2 = some 0xFFFFFFFF ∧
    f3 (.imul h0 .hi .u32 (.v 1) (.v 2) (.v 3)) 0xFFFFFFFF 0xFFFFFFFF = some 0xFFFFFFFE ∧
    f3 (.iadd h0 false .i8 (.v 1) (.v 2) (.v 3)) 100 100 = some 0xFFFFFFC8 ∧
    f3 (.iadd h0 true .i8 (.v 1) (.v 2) (.v 3)) 100 100 = some 0x7F ∧ f3 (.sar h0 .i32 (.v 1) (.v 2) (.k 40)) 0x80000000 = some 0xFFFFFFFF ∧
    f3 (.shr h0 .u32 (.v 1) (.v 2) (.k 32)) 0x80000000 = some 0 ∧ f3 (.rol h0 .u32 (.v 1) (.v 2) (.k 33)) 0x80000001 = some 3 ∧
    f3 (.clz h0 .u32 (.v 1) (.v 2)) 0 = some 32 ∧ f3 (.ctz h0 .u64 (.v 1) (.v 2)) 0 = some 64 ∧
    f3 (.iabs h0 .i32 (.v 1) (.v 2)) 0x80000000 = some 0x80000000 ∧
    f3 (.bfx h0 .i32 (.v 1) (.v 2) (.k 8) (.k 4)) 0xF00 = some 0xFFFFFFFF ∧ f3 (.cvt h0 false .u8 .i32 (.v 1) (.kn 59)) 0 = some 0xFB ∧
    f3 (.cvt h0 true .u8 .i32 (.v 1) (.kn 59)) 0 = some 0 ∧
    f3 (.idot4 h0 false .i8 (.v 1) (.v 2) (.v 3) (.v 4)) 0x02FF0304 0x0105FF10 1 = some 59 ∧
    f3 (.pack h0 .i8 (.v 1) (.v 2) (.v 3) .zero) 0xFFFFFFFF 300 = some 0x7FFF := by
  decide +kernel

/-- 07 R106, R121: a comparison of 64-bit values writes the pair, and refuses an odd one. -/
theorem test_icmp_writes_the_pair :
    ((after (vs [(2, 5), (4, 6), (6, 9), (7, 9)]) (.icmp h0 .lt .u64 (.v 6) (.v 2) (.v 4))).map fun g => (g.vAt 6 0, g.vAt 7 0)) =
      some (1, 0) ∧ (Instr.icmp h0 .lt .u64 (.v 7) (.v 2) (.v 4)).wf = false ∧ (Instr.icmp h0 .lt .u32 (.v 7) (.v 2) (.v 4)).wf = true := by
  decide +kernel

/-- 00 R6: the lane that adds wraps, an inactive lane keeps its old value. -/
theorem test_iadd_wraps_and_inactive_lanes_keep :
    ((after { vs [(1, 9), (2, 0x7FFFFFFF)] with exm := 8 } (.iadd h0 false .i32 (.v 1) (.v 2) (.k 1))).map fun g =>
      (g.vAt 1 3, g.vAt 1 2)) = some (0x80000000, 9) := by
  decide +kernel

/-- 09 R152 to R170: the tables of cases. -/
theorem test_float_cases :
    f3 (.fadd h0 .rne false .f32 (.v 1) (.v 2) (.v 3)) 0x3F800000 0x33800000 = some 0x3F800000 ∧
    f3 (.fadd h0 .rup false .f32 (.v 1) (.v 2) (.v 3)) 0x3F800000 0x33800000 = some 0x3F800001 ∧
    f3 (.fadd h0 .rne false .f32 (.v 1) (.v 2) (.v 3)) 0x7F7FFFFF 0x7F7FFFFF = some 0x7F800000 ∧
    f3 (.fadd h0 .rne true .f32 (.v 1) (.v 2) (.v 3)) 0x7F7FFFFF 0x7F7FFFFF = some 0x7F7FFFFF ∧
    f3 (.fadd h0 .rdn false .f32 (.v 1) (.v 2) (.v 3)) 0 0x80000000 = some 0x80000000 ∧
    f3 (.fmul h0 .rne false .f32 (.v 1) (.v 2) (.v 3)) 0 0x7F800000 = some 0x7FC00000 ∧
    f3 (.fmin h0 .f32 (.v 1) (.v 2) (.v 3)) 0x7FC00001 0x40400000 = some 0x40400000 ∧
    f3 (.fmin h0 .f32 (.v 1) (.v 2) (.v 3)) 0 0x80000000 = some 0x80000000 ∧
    f3 (.fcvt h0 .rne false .e4m3 .f32 (.v 1) (.v 2) .zero) 0x43EB0000 = some 0x7F ∧
    f3 (.fcvt h0 .rne true .e4m3 .f32 (.v 1) (.v 2) .zero) 0x43EB0000 = some 0x7E ∧
    f3 (.fcvt h0 .rne false .e2m1 .f32 (.v 1) (.v 2) .zero) 0x40A00000 = some 6 ∧
    f3 (.fcvt h0 .rne false .i32 .f32 (.v 1) (.v 2) .zero) 0xC0200000 = some 0xFFFFFFFE ∧
    f3 (.fcvt h0 .rsr false .bf16 .f32 (.v 1) (.v 2) (.v 3)) 0x3F808000 0x8000 = some 0x3F81 ∧
    f3 (.fcvt h0 .rsr false .bf16 .f32 (.v 1) (.v 2) (.v 3)) 0x3F808000 0x7FFF = some 0x3F80 ∧
    f3 (.frnd h0 .rne .f32 (.v 1) (.v 2)) 0xBE99999A = some 0x80000000 ∧ f3 (.frnd h0 .rne .f32 (.v 1) (.v 2)) 0x40200000 = some 0x40000000 ∧
    f3 (.fneg h0 .f32 (.v 1) (.v 2)) 0x7FC00001 = some 0xFFC00001 ∧
    f3 (.hfma2 h0 .rne false .bf16 (.v 1) (.v 2) (.v 3) (.v 4)) 0x40003F80 0x40404040 0x3F803F80 = some 0x40E04080 ∧
    f3 (.fdot4 h0 .rne false .e4m3 (.v 1) (.v 2) (.v 3) (.v 4)) 0xB8304038 0x40404040 0x3F800000 = some 0x40C00000 := by
  decide +kernel

/-- 09 R172: RSQ of −0, LOG2 of 0, SQRT of −1 and the cosine of 0. -/
theorem test_func_edges :
    f3 (.func h0 .rsq .f32 (.v 1) (.v 2)) 0x80000000 = some 0xFF800000 ∧ f3 (.func h0 .log2 .f32 (.v 1) (.v 2)) 0 = some 0xFF800000 ∧
    f3 (.func h0 .sqrt .f32 (.v 1) (.v 2)) 0xBF800000 = some 0x7FC00000 ∧
    f3 (.func h0 .cos .f32 (.v 1) (.v 2)) 0 = some 0x3F800000 := by
  decide +kernel

/-- 07 R136 to R139: a step of a byte stream, and the scan with lane 2 inactive. -/
theorem test_cross_lane_example :
    (let row (xs : List Nat) : Row := xs.map (BitVec.ofNat 32) ++ List.replicate (32 - xs.length) 0;
      let g : Group := { grp [(9, 0x44434241), (7, 6)] with v := (grp []).v.set 4 (row [0x64636261, 0x68676665, 0x6C6B6A69]) };
      let g1 := (after g (.shfl h0 .up .b32 (.v 5) (.v 4) (.k 1) (.g 9))).getD g;
      [0, 1, 2].map (g1.vAt 5) = [0x44434241, 0x64636261, 0x68676665] ∧
      ((after g1 (.permb (h0.withLit 0x6543) false (.v 6) (.v 5) (.v 4) .lit) (at_ g1)).map fun g => [0, 1, 2].map (g.vAt 6)) =
        some [0x63626144, 0x67666564, 0x6B6A6968] ∧
      ((after g (.ctz h1 .u32 (.g 8) (.g 7))).map fun g => g.gAt 8) = some 1 ∧
      (let g2 : Group := { grp [] with v := (grp []).v.set 2 (row [1, 2, 3, 4]), exm := 0xB };
        ((after g2 (.lscan h0 .add false .u32 (.v 1) (.v 2))).map fun g => [0, 1, 2, 3].map (g.vAt 1)) = some [1, 3, 0, 7] ∧
        ((after g2 (.lscan h0 .add true .u32 (.v 1) (.v 2))).map fun g => [0, 1, 2, 3].map (g.vAt 1)) = some [0, 1, 0, 3])) := by
  decide +kernel

/-- 15 R294, R298: the run 3.0, 1.0, −1.0, 0.5 keeps indices 0 and 1; the codebook entry 0x3102 at part 0. -/
theorem test_compression_examples :
    ((after (vs [(2, 0x3F804040), (3, 0x3F00BF80)]) (.cmpsVal h0 .bf16 (.v 1) (.v 2))).map fun g => g.vAt 1 0) = some 0x3F804040 ∧
    ((after (vs [(2, 0x3F804040), (3, 0x3F00BF80)]) (.cmpsMeta h0 .bf16 (.v 1) (.v 2))).map fun g => g.vAt 1 0) = some 4 ∧
    (let g := vs [(2, 0x2A05)]; let s := at_ g { ctx1 with codebook := (List.replicate 256 0).set 0x2A 0x3102 };
      ((after g (.cbdec h0 .bf16 (.v 1) (.v 2) (.k 0)) s).map fun g => g.vAt 1 0) = some 0xBF80 ∧
      ((after g (.cbdec h0 .bf16 (.v 1) (.v 2) (.k 1)) s).map fun g => g.vAt 1 0) = some 0x3FC0BF00) := by
  decide +kernel

/-- 09 R185: QRS.f32 of index 6 on dimensions 0 and 1 of the standard set. -/
theorem test_qrs_example :
    (let g := vs [(2, 6)];
      let q (d : Fin 128) : Option Nat := match exec (.qld h1 .zero (.k 0) (.k 2)) (at_ g) with
        | .next s => (after g (.qrs h0 .f32 (.v 1) (.v 2) (.k d)) { s with cur := some gid, qunits := [(0, 1)] }).map (·.vAt 1 0)
        | _ => none;
      q 0 = some 0x3F200000 ∧ q 1 = some 0x3E000000) := by
  decide +kernel

/-- 01 R17: the line at 0x3A9C0 lives in slice 29. -/
theorem test_slice_example : State.reset.slice 0 0x3A9C0 = 29 := by decide +kernel

/-- 05 R83: the signpost with LEN 5, LIVE 1 and ENTRY. -/
theorem test_signpost_example : signpost 5 1 4 = 0xF850000010040000 := by decide

/-- 17 R308: 32 lanes that store words 4 apart touch 4 sectors and pay 1 unit; 64 apart, 4 units. -/
theorem test_rst_cost :
    [(4, 16 - 1), (64, 16 - 4)].all (fun x =>
      let row : Row := (List.range 32).map fun L => BitVec.ofNat 32 (0x100000 + x.1 * L)
      let g : Group := { grp [] with v := (grp []).v.set 6 row }
      match exec (.rst h0 .u32 (.v 1) (.v 6) (.k 1)) (job g) with
      | .next u => (u.ctx? 1).map (fun c => c.allowance 1) = some x.2
      | _ => false) = true := by
  decide +kernel

/-- 09 R175: the two orders of the steps with products 8, 8 and 2^40 end at exponent 4, and both drain to 2^40. -/
theorem test_accumulator_orders :
    (let s : Slot := { freeSlot with elems := [(.fin, 0)] };
      let a : List (List FVal) := [[.num false 8 0, .num false 8 0]]; let b : List (List FVal) := [[.num false 1 40]];
      (s.e, (s.step a).e, ((s.step a).step b).e, (s.step b).e) = (-32768, -33, 4, 4) ∧
      (s.step a).elems = [(.fin, 0x2000000000)] ∧ ((s.step a).step b).elems = [(.fin, 0x1000000001)] ∧
      ((s.step b).step a).elems = [(.fin, 0x1000000000)] ∧
      [(s.step a).step b, (s.step b).step a].all (fun t => t.drain (fmtOf .f32) 0 0 = 0x53800000) = true) := by
  decide +kernel

/-- 13 R255: with moves of one tag from core 0 to 1 and from core 1 to 2, a milestone that names core 0 comes to name core 1, and one
that names core 1 core 2. -/
theorem test_rebind_moves_once :
    let moves : List Moved := [⟨.core 0, .core 1, .other⟩, ⟨.core 1, .core 2, .other⟩]
    let ms (core : Nat) : List Byte := leBytes 4 0 ++ leBytes 1 133 ++ leBytes 1 0 ++ leBytes 2 core ++ leBytes 56 0
    [0, 1, 2, 3].map (fun core => (Ms.ofBytes (rebound 5 moves (ms core))).bcore) = [1, 2, 2, 3] := by
  decide +kernel

/-- 17 R329: a round lost device [1] when it reset; what the device contributes after its rejoin begins the next round. -/
theorem test_contribution_after_rejoin :
    let c (src : Nat) (round : Nat) : Contribution :=
      { job := 1, origin := { src := [src], slot := 1, seq := 7 }, dst := [0], base := 0, op := .add, ty := .u32, srcPat := 0
        round, elems := [], msOff := 0, ack := false, tag := 7 }
    let s : State := { job (grp []) with rounds := [{ id := 2, first := c 0 0, parts := [c 0 0], until_ := 100, lost := [[1]] }] }
    (s.roundOf (c 1 0) 1 0, s.roundOf (c 0 0) 1 0) = (1, 1) ∧
      State.roundOf { s with rounds := s.rounds.map fun r => { r with lost := [], parts := [] } } (c 1 0) 1 0 = 0 := by
  decide +kernel

/-! The host's two names (log 5). -/

/-- The decoder reads EXIT and the literal of an IADD, and refuses a word that is no instruction; the step after
`withFetchWord` retires the IADD on core 0 and the HALT on a control core. -/
theorem test_decodeTableWord :
    decodeTableWord 64 0x0E00F0FFBFEFFBFE = some (.exit { h0 with e := true }) ∧
    decodeTableWord 128 (0x2000F000C01FFFFE + 2 ^ 64 * 7) =
      some (.iadd { h0 with e := true, lit := some 7 } false .i32 (.v 3) (.v 1) .lit) ∧
    decodeTableWord 64 0xFE00000000000000 = none := by
  decide +kernel

theorem test_withFetchWord_steps :
    (match step (fetching 0x2000F000C01C17FE) with
      | .next t => (t.groups.map fun g => (g.ric, g.pc, g.vAt 3 31)) = [(1, 0x10010, 5)]
      | _ => false) = true := by
  decide +kernel

/-! The digest and the curve of the record's signature (log 11). -/

/-- FIPS 180-4's example of SHA-384. -/
theorem test_sha384_abc :
    sha384 [0x61, 0x62, 0x63] =
      0xCB00753F45A35E8BB5A03D699AC65007272C32AB0EDED1631A8B605A43FF5BED8086072BA1E7CC2358BAECA134C825A7 := by
  decide +kernel

/-- The generator of P-384 is a point of the curve, and so is its double; with its mirror image it adds up to infinity. -/
theorem test_p384_points :
    P384.onCurve P384.generator = true ∧ (P384.add (some P384.generator) (some P384.generator)).map P384.onCurve = some true ∧
    P384.add (some P384.generator) (some (P384.generator.1, P384.prime - P384.generator.2)) = none ∧
    (P384.add (some P384.generator) (some P384.generator)).map (·.1) =
      some 0x08D999057BA3D2D969260045C55B97F089025959A6F434D651D207D19FB96E9E4FE0E86EBE0E64F85B96A9C75295DF61 := by
  decide +kernel

end Sys2Proof.Tests
end

section
/-! The predicate of a group-wide form (05 R82): the q predicate alone decides between issuing for one lane and retiring. -/

namespace Sys2Proof.Machine

/-- A group-wide form executes for one lane, whatever %exm and the p predicates hold. -/
theorem lanesOf_groupWide (g : Group) {h : Hdr} (hG : h.g = true) : lanesOf g h = [0] := if_pos hG

theorem guardQ_none (g : Group) {h : Hdr} (hn : h.guard = none) : guardQ g h = true := by
  simp [guardQ, hn]

theorem guardQ_some (g : Group) {h : Hdr} {n : Fin 7} {pn : Bool} (hn : h.guard = some (n, pn)) :
    guardQ g h = (g.q.getD n.val false != pn) := by
  simp [guardQ, hn]

/-- The converse of `State.issues_cases`. -/
theorem State.issues_of {s : State} {i : Instr} {g : Group} {sh : Shape} (hc : s.cur = some g.id)
    (hg : s.group? g.id = some g) (hs : i.shape = some sh) (hq : sh.h.g = true → guardQ g sh.h = true)
    (hr : s.ready g sh = .go) : s.issues i g = true := by
  cases hG : sh.h.g
  · simp [State.issues, hc, hg, hs, hr, hG]
  · simp [State.issues, hc, hg, hs, hr, hq hG]

/-- Every instruction word in a group-wide form whose guard fails only retires: `State.issue_off` for `exec`. -/
theorem exec_off {s : State} {i : Instr} {g : Group} {sh : Shape} (hc : s.cur = some g.id)
    (hg : s.group? g.id = some g) (hs : i.shape = some sh) (hG : sh.h.g = true) (hq : guardQ g sh.h = false) :
    exec i s = .next (s.retire g sh.h) := by
  obtain ⟨k, hk⟩ := exec_issues i s (by simp [hs])
  rw [hk, State.issue_off hc hg hs hG hq]

/-- Settles O52: the frame of issue reads the guard of a group-wide form before anything else, and every instruction word
begins in that frame. -/
theorem falsePredicatesDoNothing : Obligations.FalsePredicatesDoNothing := by
  unfold Obligations.FalsePredicatesDoNothing
  intro i s g sh hs hG hc hg
  refine ⟨fun n pn hn hq => ?retires, lanesOf_groupWide g hG, fun hn hr => ?unguarded, fun n pn hn hq hr => ?holds⟩
  case retires => exact exec_off hc hg hs hG (by rw [guardQ_some g hn, hq, bne_self_eq_false])
  case unguarded => exact State.issues_of hc hg hs (fun _ => guardQ_none g hn) hr
  case holds => exact State.issues_of hc hg hs (fun _ => by rw [guardQ_some g hn, hq, Bool.not_bne_self]) hr

end Sys2Proof.Machine
end

section
/-! The lowest set bit of a mask, and FFR (07 R117), which goes on with it. -/

namespace Sys2Proof.Machine

@[simp] theorem lowBit_zero : lowBit 0 = 64 := by
  have hfind : (List.range 64).find? (fun i => (0 : W64).getLsbD i) = none := by simp
  rw [lowBit, hfind, Option.getD_none]

/-- A set bit below which no bit is set is the one that `lowBit` finds. -/
theorem lowBit_eq {v : W64} {n : Nat} (hn : n < 64) (hset : v.getLsbD n = true)
    (hlow : ∀ k < n, v.getLsbD k = false) : lowBit v = n := by
  have hfind : (List.range 64).find? (fun i => v.getLsbD i) = some n := by
    simpa [List.find?_range_eq_some] using ⟨hset, hn, hlow⟩
  rw [lowBit, hfind, Option.getD_some]

/-- FFR that finds no ready tag of its mask gives 64 and clears nothing. -/
theorem execFfr_none {s : State} {g : Group} {h : Hdr} {c : Bool} {r : Fin 128} {m : Opd}
    (hi : s.issues (.ffr h c (.g r) m) g = true) (hv : lowBit (s.tagsAt g.site &&& rd64 g h m) = 64) :
    execFfr h c (.g r) m s = s.goes (g.putG r.val 64) h := by
  rw [execFfr, State.issue_go (h := h) hi rfl]
  simp only [hv, if_true]
  rfl

/-- FFR that finds tag `n` ready gives `n`; `.c` alone clears it, and the core acquires what the tag announced. -/
theorem execFfr_some {s : State} {g : Group} {h : Hdr} {c : Bool} {r : Fin 128} {m : Opd} {n : Nat}
    (hi : s.issues (.ffr h c (.g r) m) g = true) (hv : lowBit (s.tagsAt g.site &&& rd64 g h m) = n) (hn : n ≠ 64) :
    execFfr h c (.g r) m s =
      .next ((((if c then s.setTags g.site (s.tagsAt g.site &&& ~~~(bit64 n)) else s).retire
        (g.putG r.val (BitVec.ofNat 64 n)) h)).acquire g.site .job) := by
  rw [execFfr, State.issue_go (h := h) hi rfl]
  simp only [hv, if_neg hn]

/-- Settles O13: FFR branches on `lowBit` alone, which is 64 for an empty mask and else the lowest set bit. -/
theorem findFirstReadyTag : Obligations.FindFirstReadyTag := by
  unfold Obligations.FindFirstReadyTag
  intro s g h c r m hi
  refine ⟨fun hv => ?noneReady, fun n hn hset hlow => ?lowestReady⟩
  case noneReady => exact execFfr_none hi (by rw [hv, lowBit_zero])
  case lowestReady => exact execFfr_some hi (lowBit_eq hn hset hlow) hn.ne

end Sys2Proof.Machine
end

section
/-! The traps that a program raises (07 R118): what `State.software` does, for either cause. -/

namespace Sys2Proof.Machine

/-- A software trap without an executing lane only retires. -/
theorem State.software_noLane {s : State} {i : Instr} {g : Group} {h : Hdr} (hi : s.issues i g = true)
    (hs : i.shape.map (·.h) = some h) (hl : lanesOf g h = []) (code : Opd) (cause : Cause) :
    s.software i code cause = s.goes g h := by
  rw [State.software, State.issue_go hi hs, hl]
  rfl

/-- A software trap takes its code from the lowest executing lane, and its lanes are those that execute. -/
theorem State.software_lanes {s : State} {i : Instr} {g : Group} {h : Hdr} {L : Nat} {ls : List Nat}
    (hi : s.issues i g = true) (hs : i.shape.map (·.h) = some h) (hl : lanesOf g h = L :: ls) (code : Opd) (cause : Cause) :
    s.software i code cause =
      s.traps g h { cause, info := BitVec.ofNat 64 (rdN g h 64 code L), lanes := tlaneOf h (lanesOf g h) } := by
  rw [State.software, State.issue_go hi hs, hl]
  rfl

/-- Settles O14: both forms are `State.software`, each with its own cause. -/
theorem softwareTraps : Obligations.SoftwareTraps := by
  unfold Obligations.SoftwareTraps
  intro s g h code
  refine ⟨rfl, rfl, fun hi hl => ?sysNoLane, fun hi hl => ?brkNoLane, fun L ls hi hl => ?sysLanes,
    fun L ls hi hl => ?brkLanes, lanesOf_groupWide g⟩
  case sysNoLane => exact State.software_noLane hi rfl hl code .sys
  case brkNoLane => exact State.software_noLane hi rfl hl code .brk
  case sysLanes => exact State.software_lanes hi rfl hl code .sys
  case brkLanes => exact State.software_lanes hi rfl hl code .brk

end Sys2Proof.Machine
end

section
/-! The round trip of the encoding (05 R64 to R68). -/

namespace Sys2Proof

/-- The round trip of every constructor: each instruction word by its own, and the steps that no word encodes for want of
words. -/
theorem decode_encode (i : Instr) : Laws.RoundTrip.Statement i := by
  cases i
  case nop => apply Laws.RoundTrip.nop
  case bra => apply Laws.RoundTrip.bra
  case brg => apply Laws.RoundTrip.brg
  case jmp => apply Laws.RoundTrip.jmp
  case call => apply Laws.RoundTrip.call
  case ret => apply Laws.RoundTrip.ret
  case loop => apply Laws.RoundTrip.loop
  case exit => apply Laws.RoundTrip.exit
  case exitG => apply Laws.RoundTrip.exitG
  case halt => apply Laws.RoundTrip.halt
  case bar => apply Laws.RoundTrip.bar
  case yield => apply Laws.RoundTrip.yield
  case waitAny => apply Laws.RoundTrip.waitAny
  case waitAll => apply Laws.RoundTrip.waitAll
  case waitMs => apply Laws.RoundTrip.waitMs
  case ffr => apply Laws.RoundTrip.ffr
  case trapSys => apply Laws.RoundTrip.trapSys
  case trapBrk => apply Laws.RoundTrip.trapBrk
  case trapretSame => apply Laws.RoundTrip.trapretSame
  case trapretNext => apply Laws.RoundTrip.trapretNext
  case abort => apply Laws.RoundTrip.abort
  case bsa => apply Laws.RoundTrip.bsa
  case iadd => apply Laws.RoundTrip.iadd
  case isub => apply Laws.RoundTrip.isub
  case imul => apply Laws.RoundTrip.imul
  case imad => apply Laws.RoundTrip.imad
  case idiv => apply Laws.RoundTrip.idiv
  case imin => apply Laws.RoundTrip.imin
  case imax => apply Laws.RoundTrip.imax
  case iabs => apply Laws.RoundTrip.iabs
  case ineg => apply Laws.RoundTrip.ineg
  case and => apply Laws.RoundTrip.and
  case or => apply Laws.RoundTrip.or
  case xor => apply Laws.RoundTrip.xor
  case andn => apply Laws.RoundTrip.andn
  case orn => apply Laws.RoundTrip.orn
  case not => apply Laws.RoundTrip.not
  case shl => apply Laws.RoundTrip.shl
  case shr => apply Laws.RoundTrip.shr
  case sar => apply Laws.RoundTrip.sar
  case rol => apply Laws.RoundTrip.rol
  case popc => apply Laws.RoundTrip.popc
  case clz => apply Laws.RoundTrip.clz
  case ctz => apply Laws.RoundTrip.ctz
  case brev => apply Laws.RoundTrip.brev
  case bfx => apply Laws.RoundTrip.bfx
  case bfi => apply Laws.RoundTrip.bfi
  case sel => apply Laws.RoundTrip.sel
  case icmp => apply Laws.RoundTrip.icmp
  case lea => apply Laws.RoundTrip.lea
  case mov => apply Laws.RoundTrip.mov
  case movl => apply Laws.RoundTrip.movl
  case cvt => apply Laws.RoundTrip.cvt
  case pack => apply Laws.RoundTrip.pack
  case unpk => apply Laws.RoundTrip.unpk
  case idot4 => apply Laws.RoundTrip.idot4
  case movsRead => apply Laws.RoundTrip.movsRead
  case movsWrite => apply Laws.RoundTrip.movsWrite
  case tagclrWrite => apply Laws.RoundTrip.tagclrWrite
  case pand => apply Laws.RoundTrip.pand
  case por => apply Laws.RoundTrip.por
  case pxor => apply Laws.RoundTrip.pxor
  case pnot => apply Laws.RoundTrip.pnot
  case pmov => apply Laws.RoundTrip.pmov
  case vote => apply Laws.RoundTrip.vote
  case shfl => apply Laws.RoundTrip.shfl
  case permb => apply Laws.RoundTrip.permb
  case lscan => apply Laws.RoundTrip.lscan
  case lred => apply Laws.RoundTrip.lred
  case lanexGet => apply Laws.RoundTrip.lanexGet
  case lanexPut => apply Laws.RoundTrip.lanexPut
  case fadd => apply Laws.RoundTrip.fadd
  case fsub => apply Laws.RoundTrip.fsub
  case fmul => apply Laws.RoundTrip.fmul
  case ffma => apply Laws.RoundTrip.ffma
  case fmin => apply Laws.RoundTrip.fmin
  case fmax => apply Laws.RoundTrip.fmax
  case fcmp => apply Laws.RoundTrip.fcmp
  case fclass => apply Laws.RoundTrip.fclass
  case frnd => apply Laws.RoundTrip.frnd
  case fcvt => apply Laws.RoundTrip.fcvt
  case func => apply Laws.RoundTrip.func
  case hfma2 => apply Laws.RoundTrip.hfma2
  case fdot4 => apply Laws.RoundTrip.fdot4
  case fabs => apply Laws.RoundTrip.fabs
  case fneg => apply Laws.RoundTrip.fneg
  case fcopysign => apply Laws.RoundTrip.fcopysign
  case ld => apply Laws.RoundTrip.ld
  case st => apply Laws.RoundTrip.st
  case atom => apply Laws.RoundTrip.atom
  case atomo => apply Laws.RoundTrip.atomo
  case fence => apply Laws.RoundTrip.fence
  case pref => apply Laws.RoundTrip.pref
  case cmaintInv => apply Laws.RoundTrip.cmaintInv
  case cmaintInvall => apply Laws.RoundTrip.cmaintInvall
  case tier => apply Laws.RoundTrip.tier
  case ersv => apply Laws.RoundTrip.ersv
  case erel => apply Laws.RoundTrip.erel
  case edisc => apply Laws.RoundTrip.edisc
  case emig => apply Laws.RoundTrip.emig
  case rmset => apply Laws.RoundTrip.rmset
  case rmsetGet => apply Laws.RoundTrip.rmsetGet
  case rmrefInc => apply Laws.RoundTrip.rmrefInc
  case rmrefDec => apply Laws.RoundTrip.rmrefDec
  case rmrefGet => apply Laws.RoundTrip.rmrefGet
  case rmrefSet => apply Laws.RoundTrip.rmrefSet
  case msinit => apply Laws.RoundTrip.msinit
  case msarrArr => apply Laws.RoundTrip.msarrArr
  case msarrExp => apply Laws.RoundTrip.msarrExp
  case msbind => apply Laws.RoundTrip.msbind
  case msbindUnbind => apply Laws.RoundTrip.msbindUnbind
  case msqry => apply Laws.RoundTrip.msqry
  case trig => apply Laws.RoundTrip.trig
  case tdef => apply Laws.RoundTrip.tdef
  case tdefClr => apply Laws.RoundTrip.tdefClr
  case fres => apply Laws.RoundTrip.fres
  case freg => apply Laws.RoundTrip.freg
  case rst => apply Laws.RoundTrip.rst
  case rred => apply Laws.RoundTrip.rred
  case ratom => apply Laws.RoundTrip.ratom
  case rld => apply Laws.RoundTrip.rld
  case rcopy => apply Laws.RoundTrip.rcopy
  case sabind => apply Laws.RoundTrip.sabind
  case sabindDst => apply Laws.RoundTrip.sabindDst
  case sabindClr => apply Laws.RoundTrip.sabindClr
  case pcnt => apply Laws.RoundTrip.pcnt
  case qld => apply Laws.RoundTrip.qld
  case qset => apply Laws.RoundTrip.qset
  case qrs => apply Laws.RoundTrip.qrs
  case mma => apply Laws.RoundTrip.mma
  case mmaNew => apply Laws.RoundTrip.mmaNew
  case mmas => apply Laws.RoundTrip.mmas
  case mmasNew => apply Laws.RoundTrip.mmasNew
  case accrel => apply Laws.RoundTrip.accrel
  case accdr => apply Laws.RoundTrip.accdr
  case cmpsVal => apply Laws.RoundTrip.cmpsVal
  case cmpsMeta => apply Laws.RoundTrip.cmpsMeta
  case cbdec => apply Laws.RoundTrip.cbdec
  case strmCnt => apply Laws.RoundTrip.strmCnt
  case strmDrop => apply Laws.RoundTrip.strmDrop
  case cbld => apply Laws.RoundTrip.cbld
  case launch => apply Laws.RoundTrip.launch
  case rgrow => apply Laws.RoundTrip.rgrow
  case rshrk => apply Laws.RoundTrip.rshrk
  case probe => apply Laws.RoundTrip.probe
  all_goals exact Laws.RoundTrip.noWord _ rfl

/-- Settles O57: the round trip of every constructor. -/
theorem decodeOfEncode : Obligations.DecodeOfEncode := by
  unfold Obligations.DecodeOfEncode
  exact decode_encode

end Sys2Proof
end

section
/-! A stopped device (19 R349; 21 R359): no move acts, so that a step drops the head of the agenda and lets time pass. -/

namespace Sys2Proof.Machine

/-- No move of the agenda acts: the device has stopped, and what would act is not to come. -/
def State.inert (s : State) : Prop := (s.fatal || s.recovery) = true ∧ ∀ i, .dev i ∈ s.agenda → s.acts i = false

theorem State.finish_stopped {s : State} (hs : (s.fatal || s.recovery) = true) : s.finish = s.tock := by
  rw [State.finish, if_pos hs]

/-- A move that may not act leaves the state as it is. -/
theorem State.act_stopped {s : State} {m : Move} (hs : (s.fatal || s.recovery) = true)
    (hm : ∀ i, m = .dev i → s.acts i = false) : s.act m = .inl s := by
  cases m with
  | issue site slot => rw [State.act, hs, Bool.true_or, if_pos rfl]
  | dev i => rw [State.act, hm i rfl, Bool.not_false, Bool.or_true, Bool.true_or, if_pos rfl]

theorem State.nextMove_inert {s : State} (hs : s.inert) : s.nextMove = .inl { s with agenda := s.agenda.tail } := by
  obtain ⟨hstop, hacts⟩ := hs
  unfold State.nextMove
  cases hag : s.agenda with
  | nil => exact (if_pos hstop).trans (congrArg (fun a => Sum.inl { s with agenda := a }) hag)
  | cons m rest =>
    exact State.act_stopped (s := { s with agenda := rest }) hstop fun i hm => hacts i (by simp [hag, hm])

theorem step_inert {s : State} (hs : s.inert) : step s = .next { s with agenda := s.agenda.tail }.tock := by
  have hf : { s with agenda := s.agenda.tail }.finish = { s with agenda := s.agenda.tail }.tock :=
    State.finish_stopped hs.1
  rw [step, State.nextMove_inert hs, ← hf]

theorem State.inert_of_dead {s : State} (hd : s.dead = true) : s.inert := by
  simp only [State.dead, Bool.and_eq_true, Bool.not_eq_true', List.contains_eq_mem, decide_eq_false_iff_not] at hd
  obtain ⟨hfatal, hnone⟩ := hd
  refine ⟨by simp [hfatal], fun i hi => ?_⟩
  have hne : i ≠ .deviceReset := fun h => hnone (h ▸ hi)
  simp [State.acts, hfatal, hne]

theorem State.inert_of_recovering {s : State} (hr : s.recovering = true) : s.inert := by
  simp only [State.recovering, Bool.and_eq_true, Bool.not_eq_true', List.all_eq_true] at hr
  obtain ⟨⟨hrec, hfatal⟩, hnone⟩ := hr
  refine ⟨by simp [hrec], fun i hi => ?_⟩
  have hi' := hnone _ hi
  simp only [State.acts, hfatal, hrec, Bool.false_eq_true, if_false, if_true]
  split
  · exact hi'.symm
  · exact hi'.symm
  · rfl

theorem State.dead_tail {s : State} (hd : s.dead = true) : { s with agenda := s.agenda.tail }.tock.dead = true := by
  simp only [State.dead, Bool.and_eq_true, Bool.not_eq_true', List.contains_eq_mem, decide_eq_false_iff_not] at hd ⊢
  exact ⟨hd.1, fun h => hd.2 (List.mem_of_mem_tail h)⟩

theorem State.recovering_tail {s : State} (hr : s.recovering = true) :
    { s with agenda := s.agenda.tail }.tock.recovering = true := by
  simp only [State.recovering, Bool.and_eq_true, Bool.not_eq_true', List.all_eq_true] at hr ⊢
  exact ⟨hr.1, fun m hm => hr.2 m (List.mem_of_mem_tail hm)⟩

/-- Settles O58: a stopped device is inert, its step is a step of time, and what made it inert holds of the agenda's tail. -/
theorem stoppedDevicesStayStopped : Obligations.StoppedDevicesStayStopped := by
  unfold Obligations.StoppedDevicesStayStopped
  intro s t hst
  have stepped (hs : s.inert) : { s with agenda := s.agenda.tail }.tock = t :=
    Host.Outcome.next.inj ((step_inert hs).symm.trans hst)
  refine ⟨fun hd => ?dead, fun hr => ?recovering, fun h => ?time⟩
  case dead =>
    rw [← stepped (State.inert_of_dead hd)]
    exact ⟨State.dead_tail hd, rfl⟩
  case recovering =>
    rw [← stepped (State.inert_of_recovering hr)]
    exact ⟨State.recovering_tail hr, rfl⟩
  case time =>
    rw [← stepped (h.elim State.inert_of_dead State.inert_of_recovering)]
    simp only [State.tock]
    omega

end Sys2Proof.Machine
end

section
/-! The instructions that only compute (07 R106, R121 to R139; 09 R161 to R173): each is the per-lane frame around the value of
its rule, so that `State.perLane_go` and `State.compute_go` say how it ends. -/

namespace Sys2Proof.Machine

/-- Settles O1: every one of these is the per-lane frame around its value. -/
theorem integerArithmeticResults : Obligations.IntegerArithmeticResults := by
  unfold Obligations.IntegerArithmeticResults
  intro s g h sat ty sty d a b c
  refine ⟨fun hi => ?iadd, fun hi => ?isub, fun hi => ?imul, fun hi => ?imul2, fun hi => ?imul3, fun hi => ?imad,
    fun hi => ?idiv, fun hi => ?idiv2, fun hi => ?imin, fun hi => ?imax, fun hi => ?iabs, fun hi => ?ineg,
    fun hi => ?movl, fun hi => ?cvt, fun hi => ?idot4⟩
  case iadd => rw [exec_iadd, execIadd, State.intOp, State.perLane_go (h := h) hi rfl]
  case isub => rw [exec_isub, execIsub, State.intOp, State.perLane_go (h := h) hi rfl]
  case imul => rw [exec_imul, execImul, State.intOp, State.perLane_go (h := h) hi rfl]; rfl
  case imul2 => rw [exec_imul, execImul, State.intOp, State.perLane_go (h := h) hi rfl]; rfl
  case imul3 => rw [exec_imul, execImul, State.perLane_go (h := h) hi rfl]
  case imad => rw [exec_imad, execImad, State.intOp, State.perLane_go (h := h) hi rfl]; rfl
  case idiv => rw [exec_idiv, execIdiv, State.intOp, State.perLane_go (h := h) hi rfl]; rfl
  case idiv2 => rw [exec_idiv, execIdiv, State.intOp, State.perLane_go (h := h) hi rfl]; rfl
  case imin => rw [exec_imin, execImin, State.intOp, State.perLane_go (h := h) hi rfl]; rfl
  case imax => rw [exec_imax, execImax, State.intOp, State.perLane_go (h := h) hi rfl]; rfl
  case iabs => rw [exec_iabs, execIabs, State.intOp, State.perLane_go (h := h) hi rfl]; rfl
  case ineg => rw [exec_ineg, execIneg, State.intOp, State.perLane_go (h := h) hi rfl]; rfl
  case movl => rw [exec_movl, execMovl, State.intOp, State.perLane_go (h := h) hi rfl]; rfl
  case cvt => rw [exec_cvt, execCvt, State.intOp, State.perLane_go (h := h) hi rfl]
  case idot4 => rw [exec_idot4, execIdot4, State.perLane_go (h := h) hi rfl]; rfl

/-- Settles O2: every one of these is the per-lane frame around its value; SEL tests its condition the other way. -/
theorem bitResults : Obligations.BitResults := by
  unfold Obligations.BitResults
  intro s g h fn ty d a b c
  refine ⟨fun hi => ?and, fun hi => ?or, fun hi => ?xor, fun hi => ?andn, fun hi => ?orn, fun hi => ?not,
    fun hi => ?shl, fun hi => ?shr, fun hi => ?sar, fun hi => ?rol, fun hi => ?popc, fun hi => ?clz, fun hi => ?ctz,
    fun hi => ?brev, fun hi => ?bfx, fun hi => ?bfi, fun hi => ?sel, fun hi => ?icmp, fun hi => ?lea, fun hi => ?mov,
    fun hi => ?pack, fun hi => ?unpk⟩
  case and => rw [exec_and, execAnd, State.bitOp, State.perLane_go (h := h) hi rfl]
  case or => rw [exec_or, execOr, State.bitOp, State.perLane_go (h := h) hi rfl]
  case xor => rw [exec_xor, execXor, State.bitOp, State.perLane_go (h := h) hi rfl]
  case andn => rw [exec_andn, execAndn, State.bitOp, State.perLane_go (h := h) hi rfl]
  case orn => rw [exec_orn, execOrn, State.bitOp, State.perLane_go (h := h) hi rfl]
  case not => rw [exec_not, execNot, State.bitOp, State.perLane_go (h := h) hi rfl]
  case shl => rw [exec_shl, execShl, State.bitOp, State.perLane_go (h := h) hi rfl]; rfl
  case shr => rw [exec_shr, execShr, State.bitOp, State.perLane_go (h := h) hi rfl]; rfl
  case sar => rw [exec_sar, execSar, State.bitOp, State.perLane_go (h := h) hi rfl]
  case rol => rw [exec_rol, execRol, State.bitOp, State.perLane_go (h := h) hi rfl]
  case popc => rw [exec_popc, execPopc, State.perLane_go (h := h) hi rfl]
  case clz => rw [exec_clz, execClz, State.perLane_go (h := h) hi rfl]
  case ctz => rw [exec_ctz, execCtz, State.perLane_go (h := h) hi rfl]
  case brev => rw [exec_brev, execBrev, State.bitOp, State.perLane_go (h := h) hi rfl]
  case bfx => rw [exec_bfx, execBfx, State.bitOp, State.perLane_go (h := h) hi rfl]
  case bfi => rw [exec_bfi, execBfi, State.bitOp, State.perLane_go (h := h) hi rfl]
  case sel => simp only [exec_sel, execSel, State.bitOp, State.perLane_go (h := h) hi rfl, ne_eq, ite_not]
  case icmp => rw [exec_icmp, execIcmp, State.perLane_go (h := h) hi rfl]
  case lea => rw [exec_lea, execLea, State.perLane_go (h := h) hi rfl]
  case mov => rw [exec_mov, execMov, State.bitOp, State.perLane_go (h := h) hi rfl]
  case pack => rw [exec_pack, execPack, State.perLane_go (h := h) hi rfl]
  case unpk => rw [exec_unpk, execUnpk, State.perLane_go (h := h) hi rfl]

/-- Settles O3: a read is the per-lane frame; a write takes the value of the lowest lane that executes, if one does. -/
theorem specialRegisterMoves : Obligations.SpecialRegisterMoves := by
  unfold Obligations.SpecialRegisterMoves
  intro s g h r d a
  refine ⟨fun hi => ?read, fun hi => ?exm, fun hi => ?wft, fun hi => ?tagclr⟩
  case read => rw [exec_movsRead, execMovsRead, State.perLane_go (h := h) hi rfl]
  case exm => exact (exec_movsWrite ..).trans (State.compute_go (h := h) hi rfl _)
  case wft => exact (exec_movsWrite ..).trans (State.compute_go (h := h) hi rfl _)
  case tagclr =>
    rw [exec_tagclrWrite, execTagclrWrite, State.issue_go (h := h) hi rfl]
    cases movsVal g h 64 a <;> rfl

theorem toNat_not_isEmpty (ls : List Nat) : (!ls.isEmpty).toNat = if ls.isEmpty then 0 else 1 := by
  cases ls.isEmpty <;> rfl

theorem toNat_decide (p : Prop) [Decidable p] : (decide p).toNat = if p then 1 else 0 := by
  split <;> simp [*]

/-- PMOV between predicates of p and q. -/
theorem State.pmov_bits {s : State} {g : Group} {h : Hdr} {d a : Opd} (hd : d.isG = false) (ha : a.isG = false)
    (hi : s.issues (.pmov h d a) g = true) :
    exec (.pmov h d a) s = s.goes (g.write d 1 false (forLanes (lanesOf g h) fun L => rdN g h 1 a L)) h := by
  rw [exec_pmov, execPmov, State.compute_go (h := h) hi rfl]
  cases a with
  | g => cases ha
  | _ => cases d with
    | g => cases hd
    | _ => rfl

/-- Settles O4: predicate logic is the per-lane frame on one bit; VOTE writes its one result once into g and q, and into every
lane that executes of any other destination. -/
theorem predicateResults : Obligations.PredicateResults := by
  unfold Obligations.PredicateResults
  intro s g h fn d a b n m
  refine ⟨fun hi => ?pand, fun hi => ?por, fun hi => ?pxor, fun hi => ?pnot, fun hi => ?pmovG, fun hi => ?pmovP,
    State.pmov_bits, fun hi => ?vote⟩
  case pand => rw [exec_pand, execPand, State.predOp, State.perLane_go (h := h) hi rfl]
  case por => rw [exec_por, execPor, State.predOp, State.perLane_go (h := h) hi rfl]
  case pxor => rw [exec_pxor, execPxor, State.predOp, State.perLane_go (h := h) hi rfl]
  case pnot => rw [exec_pnot, execPnot, State.predOp, State.perLane_go (h := h) hi rfl]
  case pmovG => rw [exec_pmov, execPmov, State.compute_go (h := h) hi rfl]
  case pmovP => rw [exec_pmov, execPmov, State.compute_go (h := h) hi rfl]
  case vote =>
    rw [exec_vote, execVote, State.compute_go (h := h) hi rfl]
    cases fn with
    | any => simp only [toNat_not_isEmpty]; cases d <;> rfl
    | all => simp only [toNat_decide]; cases d <;> rfl
    | ballot => cases d <;> rfl

/-- Settles O5: every one of these is the per-lane frame around its value; SHFL.up and .down test their bound the other way,
and LANEX.put writes one lane. -/
theorem crossLaneResults : Obligations.CrossLaneResults := by
  unfold Obligations.CrossLaneResults
  intro s g h fn mode excl tbl ty d a b c
  refine ⟨fun hi => ?shfl, fun hi => ?permb, fun hi => ?lscan, fun hi => ?lred, fun hi => ?lanexGet, fun hi => ?lanexPut⟩
  case shfl =>
    rw [exec_shfl, execShfl, State.perLane_go (h := h) hi rfl]
    cases mode with
    | idx => rfl
    | up => simp only [← Nat.not_le, ite_not]
    | down => simp only [← Nat.not_le, ite_not]
    | xor => rfl
  case permb => rw [exec_permb, execPermb, State.perLane_go (h := h) hi rfl]
  case lscan => rw [exec_lscan, execLscan, State.perLane_go (h := h) hi rfl]
  case lred => rw [exec_lred, execLred, State.perLane_go (h := h) hi rfl]
  case lanexGet => rw [exec_lanexGet, execLanexGet, State.perLane_go (h := h) hi rfl]
  case lanexPut => rw [exec_lanexPut, execLanexPut, State.compute_go (h := h) hi rfl]

/-- Settles O6: every one of these is the per-lane frame around its rounded value; FUNC tests %ftv before it. -/
theorem floatResults : Obligations.FloatResults := by
  unfold Obligations.FloatResults
  refine ⟨fun s g h rm sat fn ty sty d a b c => ?perLane, fun s g h fn ty d a hi => ⟨fun hv => ?func, fun hv => ?version⟩⟩
  case perLane =>
    refine ⟨fun hi => ?fadd, fun hi => ?fsub, fun hi => ?fmul, fun hi => ?ffma, fun hi => ?fmin, fun hi => ?fmax,
      fun hi => ?fcmp, fun hi => ?fclass, fun hi => ?frnd, fun hi => ?fcvt, fun hi => ?hfma2, fun hi => ?fdot4,
      fun hi => ?fabs, fun hi => ?fneg, fun hi => ?fcopysign⟩
    case fadd => rw [exec_fadd, execFadd, State.fltOp, State.perLane_go (h := h) hi rfl]
    case fsub => rw [exec_fsub, execFsub, State.fltOp, State.perLane_go (h := h) hi rfl]
    case fmul => rw [exec_fmul, execFmul, State.fltOp, State.perLane_go (h := h) hi rfl]
    case ffma => rw [exec_ffma, execFfma, State.fltOp, State.perLane_go (h := h) hi rfl]
    case fmin => rw [exec_fmin, execFmin, State.fltOp, State.perLane_go (h := h) hi rfl]
    case fmax => rw [exec_fmax, execFmax, State.fltOp, State.perLane_go (h := h) hi rfl]
    case fcmp => rw [exec_fcmp, execFcmp, State.perLane_go (h := h) hi rfl]
    case fclass => rw [exec_fclass, execFclass, State.perLane_go (h := h) hi rfl]
    case frnd => rw [exec_frnd, execFrnd, State.fltOp, State.perLane_go (h := h) hi rfl]
    case fcvt => rw [exec_fcvt, execFcvt, State.perLane_go (h := h) hi rfl]
    case hfma2 => rw [exec_hfma2, execHfma2, State.perLane_go (h := h) hi rfl]
    case fdot4 => rw [exec_fdot4, execFdot4, State.perLane_go (h := h) hi rfl]; rfl
    case fabs => rw [exec_fabs, execFabs, State.fltOp, State.perLane_go (h := h) hi rfl]
    case fneg => rw [exec_fneg, execFneg, State.fltOp, State.perLane_go (h := h) hi rfl]
    case fcopysign => rw [exec_fcopysign, execFcopysign, State.fltOp, State.perLane_go (h := h) hi rfl]
  case func =>
    rw [exec_func, execFunc, State.issue_go (h := h) hi rfl]
    exact if_neg (not_not_intro hv)
  case version =>
    rw [exec_func, execFunc, State.issue_go (h := h) hi rfl]
    exact if_pos hv

end Sys2Proof.Machine
end

section
/-! Transfers of control (07 R107 to R110; 05 R84 to R90; 17 R312): what each does once it is known whether it is taken and what
its target holds. -/

namespace Sys2Proof.Machine

variable {s : State} {g : Group} {h : Hdr}

/-- The group that a taken transfer leaves behind: one instruction more, arrived at its target, in no leg. -/
def State.taken (s : State) (g : Group) (a w : W64) : Out :=
  .next (s.setGroup ((s.arrive { g with ric := g.ric + 1 } a w).endLeg s.now))

/-! BRA: no lane, every lane, some lanes. -/

theorem execBra_none {t : Opd} (hi : s.issues (.bra h t) g = true) (hT : maskOf (lanesOf g h) = 0) :
    execBra h t s = s.goes g h := by
  rw [execBra, State.issue_go (h := h) hi rfl]
  exact if_pos hT

theorem execBra_all {t : Opd} (hi : s.issues (.bra h t) g = true) (hT : maskOf (lanesOf g h) = g.exm) (hx : g.exm ≠ 0) :
    execBra h t s = .next (s.transfer g h (targetOf g h t) (fun _ => true) id) := by
  rw [execBra, State.issue_go (h := h) hi rfl]
  simp only [hT, if_neg hx, if_true]

theorem execBra_some {t : Opd} (hi : s.issues (.bra h t) g = true) (h0 : maskOf (lanesOf g h) ≠ 0)
    (hT : maskOf (lanesOf g h) ≠ g.exm) :
    execBra h t s = .next (s.diverge g h (targetOf g h t) (maskOf (lanesOf g h))) := by
  rw [execBra, State.issue_go (h := h) hi rfl]
  simp only [if_neg h0, if_neg hT]

/-! The transfers that are made once per group. -/

theorem State.goto_taken {i : Instr} {t : Opd} {w : W64} {need : W64 → Bool} {done : Group → Hdr → Group}
    (hi : s.issues i g = true) (hs : i.shape.map (·.h) = some h) (hw : s.target g.id (targetOf g h t) = .ok w)
    (hn : need w = true) (hric : (done g h).ric = g.ric) :
    s.goto i t need done = s.taken (done g h) (targetOf g h t) w := by
  rw [State.goto, State.issue_go hi hs, State.transfer_ok s g h _ w need _ hw hn, State.taken, hric]

theorem State.goto_bad {i : Instr} {t : Opd} {need : W64 → Bool} {done : Group → Hdr → Group}
    (hi : s.issues i g = true) (hs : i.shape.map (·.h) = some h) (hb : s.target g.id (targetOf g h t) = .bad) :
    s.goto i t need done = s.traps g h { cause := .brt } := by
  rw [State.goto, State.issue_go hi hs, State.transfer_bad s g h _ need _ hb, State.traps]

/-- A signpost without the flag that the transfer asks for is no target of it. -/
theorem State.transfer_unfit {a w : W64} {need : W64 → Bool} {done : Group → Group} (hw : s.target g.id a = .ok w)
    (hn : need w = false) : s.transfer g h a need done = s.trap g h { cause := .brt } := by
  rw [State.transfer, hw]
  simp [hn]

theorem State.goto_unfit {i : Instr} {t : Opd} {w : W64} {need : W64 → Bool} {done : Group → Hdr → Group}
    (hi : s.issues i g = true) (hs : i.shape.map (·.h) = some h) (hw : s.target g.id (targetOf g h t) = .ok w)
    (hn : need w = false) : s.goto i t need done = s.traps g h { cause := .brt } := by
  rw [State.goto, State.issue_go hi hs, State.transfer_unfit hw hn, State.traps]

theorem rd64_pred_eq_zero (o : Opd) : rd64 g h o - 1 = 0 ↔ rd64 g h o = 1 := sub_eq_zero

theorem execLoop_last {n : Fin 128} {t : Opd} (hi : s.issues (.loop h (.g n) t) g = true) (h1 : rd64 g h (.g n) = 1) :
    execLoop h (.g n) t s = s.goes (g.putG n.val 0) h := by
  rw [execLoop, State.issue_go (h := h) hi rfl]
  simp only [h1, sub_self, if_true]
  rfl

theorem execLoop_again {n : Fin 128} {t : Opd} (hi : s.issues (.loop h (.g n) t) g = true) (h1 : rd64 g h (.g n) ≠ 1) :
    execLoop h (.g n) t s =
      .next (s.transfer g h (targetOf g h t) spLoop fun g' => g'.putG n.val (rd64 g h (.g n) - 1)) := by
  rw [execLoop, State.issue_go (h := h) hi rfl]
  simp only [rd64_pred_eq_zero, if_neg h1]

/-! BSA compares a slot's allowance with its threshold. -/

theorem execBsa_test {lt : Bool} {slot thr t : Opd} {c : Ctx} (hi : s.issues (.bsa h lt slot thr t) g = true)
    (hc : s.ctx? g.id.ctx = some c) (hk : rd32 g h slot < 32) :
    execBsa h lt slot thr t s =
      if decide (c.allowance (rd32 g h slot) < rd32 g h thr) = lt then
        .next (s.transfer g h (g.at_ + 8 * rd64 g h t) (fun _ => true) id)
      else .next (s.retire g h) := by
  have hlt : (c.allowance (rd32 g h slot) < rd32 g h thr) = (lt = true) ↔
      decide (c.allowance (rd32 g h slot) < rd32 g h thr) = lt := by
    cases lt <;> simp
  rw [execBsa, State.issue_go (h := h) hi rfl]
  simp only [State.withSlot, if_neg (Nat.not_le.mpr hk), hc, hlt]

/-- Settles O7: a transfer that is taken goes through `State.transfer_ok`; one that is not retires. -/
theorem transfersAreTaken : Obligations.TransfersAreTaken := by
  unfold Obligations.TransfersAreTaken
  intro s g h n lt t slot thr w taken
  refine ⟨fun hi => ?nop, fun hi hT => execBra_none hi hT, fun hi hT hx hw => ?bra, fun hi hw => ?brg, fun hi hw => ?jmp,
    fun hi hw => ?ret, fun hi hw hn => ?call, fun hi h1 => execLoop_last hi h1, fun hi h1 hw hn => ?loop,
    fun c hi hc hk hlt => ?bsaFalls, fun c hi hc hk hlt hw => ?bsaTaken⟩
  case nop => rw [exec_nop, execNop, State.compute_go (h := h) hi rfl]
  case bra => rw [exec_bra, execBra_all hi hT hx, State.transfer_ok s g h _ w _ _ hw rfl, id]
  case brg => rw [exec_brg, execBrg, State.goto_taken (h := h) hi rfl hw rfl rfl]; rfl
  case jmp => rw [exec_jmp, execJmp, State.goto_taken (h := h) hi rfl hw rfl rfl]; rfl
  case ret => rw [exec_ret, execRet, State.goto_taken (h := h) hi rfl hw rfl rfl]; rfl
  case call => rw [exec_call, execCall, State.goto_taken (h := h) hi rfl hw hn rfl]; rfl
  case loop => rw [exec_loop, execLoop_again hi h1, State.transfer_ok s g h _ w _ _ hw hn]; rfl
  case bsaFalls => rw [exec_bsa, execBsa_test hi hc hk, hlt, if_neg (Bool.not_not_eq.mpr rfl), State.goes]
  case bsaTaken => rw [exec_bsa, execBsa_test hi hc hk, if_pos hlt, State.transfer_ok s g h _ w _ _ hw rfl, id]

/-! What a divergent BRA answers, in the order of its checks (05 R89). -/

variable {a x w : W64} {T : W32} {b : Block}

theorem State.diverge_noReconv (hb : g.block = some b) (hr : spReconv b.word = 0) :
    s.diverge g h a T = s.trap g h { cause := .brt } := by
  simp only [State.diverge, hb, hr, if_true]

theorem State.diverge_badReconv (hb : g.block = some b)
    (hx : s.target g.id (b.addr + spReconv b.word) = .bad) : s.diverge g h a T = s.trap g h { cause := .brt } := by
  simp [State.diverge, hb, hx]

theorem State.diverge_notRcv (hb : g.block = some b)
    (hx : s.target g.id (b.addr + spReconv b.word) = .ok x) (hv : spRcv x = false) :
    s.diverge g h a T = s.trap g h { cause := .brt } := by
  simp [State.diverge, hb, hx, hv]

theorem State.diverge_badTarget (hb : g.block = some b)
    (hx : s.target g.id (b.addr + spReconv b.word) = .ok x) (hv : spRcv x = true) (ha : s.target g.id a = .bad) :
    s.diverge g h a T = s.trap g h { cause := .brt } := by
  simp [State.diverge, hb, hx, hv, ha]

/-- The two entries of a divergent BRA: the path on top of the reconvergence. -/
def divergeStack (g : Group) (h : Hdr) (b : Block) (T : W32) : List RcEntry :=
  { addr := nextOf g h, mask := g.exm &&& ~~~T, path := true }
    :: { addr := b.addr + spReconv b.word, mask := g.exm, path := false } :: g.stack

/-- Pushes that the hardware stack has room for touch neither memory nor a spill area. -/
theorem State.pushRc_room {es : List RcEntry} (hl : es.length + g.stack.length ≤ Config.stackEntries) :
    s.pushRc g es = some (s, { g with stack := es.reverse ++ g.stack }) := by
  have hmore : (es.reverse ++ g.stack).length - Config.stackEntries = 0 := by
    rw [List.length_append, List.length_reverse]
    omega
  rw [State.pushRc, hmore]
  rfl

theorem State.pushWaits_room {n : Nat} (hl : g.stack.length + n ≤ Config.stackEntries) : s.pushWaits g n = false := by
  simp [State.pushWaits, Nat.not_lt.mpr hl]

theorem State.diverge_pushes (hb : g.block = some b) (hr : spReconv b.word ≠ 0)
    (hx : s.target g.id (b.addr + spReconv b.word) = .ok x) (hv : spRcv x = true) (ha : s.target g.id a = .ok w)
    (hl : g.stack.length ≤ 30) :
    s.diverge g h a T =
      s.transfer { g with stack := divergeStack g h b T } h a (fun _ => true) fun g => { g with exm := T } := by
  have hroom : 2 + g.stack.length ≤ Config.stackEntries := Nat.add_le_add_left hl 2
  simp only [State.diverge, hb, if_neg hr, hx, hv, ha, Bool.not_true, Bool.false_eq_true, if_false]
  rw [State.pushRc_room (by simpa using hroom)]
  simp only [State.pushWaits_room (Nat.add_comm 2 _ ▸ hroom), Bool.false_eq_true, if_false, hb]
  rfl

/-- Settles O9: the checks of `State.diverge` in their order, then the two pushes. -/
theorem divergentBranchPushes : Obligations.DivergentBranchPushes := by
  unfold Obligations.DivergentBranchPushes
  intro s g h t b hi hb h0 hT
  rw [exec_bra, execBra_some hi h0 hT]
  refine ⟨fun hr => ?noReconv, fun hr hx => ?badReconv, fun x hr hx hv => ?notRcv, fun x w hr hx hv ha hl => ?pushes⟩
  case noReconv => rw [State.diverge_noReconv hb hr, State.traps]
  case badReconv => rw [State.diverge_badReconv hb hx, State.traps]
  case notRcv => rw [State.diverge_notRcv hb hx hv, State.traps]
  case pushes =>
    rw [State.diverge_pushes hb hr hx hv ha hl]
    exact congrArg Host.Outcome.next (State.transfer_ok s { g with stack := _ } h _ w _ _ ha rfl)

/-! What counts as a target. -/

theorem State.target_misaligned {id : GroupId} (ha : a.toNat % 8 ≠ 0) : s.target id a = .bad := if_pos ha

theorem State.target_word {id : GroupId} {bs : List Byte} (ha : a.toNat % 8 = 0) (hw : s.codeWord id a = .ok bs) :
    s.target id a = if spOk (wordOf bs) then .ok (wordOf bs) else .bad := by
  simp [State.target, ha, hw]

theorem State.target_notSignpost {id : GroupId} {bs : List Byte} (hw : s.codeWord id a = .ok bs)
    (hk : spOk (wordOf bs) = false) : s.target id a = .bad := by
  by_cases ha : a.toNat % 8 = 0
  · rw [State.target_word ha hw, hk]
    rfl
  · exact State.target_misaligned ha

/-- Settles O8: a bad target traps in every transfer, and a signpost without the flag that CALL or LOOP asks for in those. -/
theorem badTargetsTrap : Obligations.BadTargetsTrap := by
  unfold Obligations.BadTargetsTrap
  intro s g h n t w
  refine ⟨fun b x hi hb h0 hT hr hx hv ha => ?divergent, fun c lt slot thr hi hc hk hlt ha => ?bsa, fun ha => ?bad,
    fun hw => ⟨fun hi hn => ?callUnfit, fun hi h1 hn => ?loopUnfit⟩, fun a ha => State.target_misaligned ha,
    fun a bs hw hk => State.target_notSignpost hw hk, fun a bs ha hw hk => ?signpost⟩
  case divergent => rw [exec_bra, execBra_some hi h0 hT, State.diverge_badTarget hb hx hv ha, State.traps]
  case bsa => rw [exec_bsa, execBsa_test hi hc hk, if_pos hlt, State.transfer_bad _ _ _ _ _ _ ha, State.traps]
  case bad =>
    refine ⟨fun hi hT hx => ?bra, fun hi => ?brg, fun hi => ?jmp, fun hi => ?ret, fun hi => ?call, fun hi h1 => ?loop⟩
    case bra => rw [exec_bra, execBra_all hi hT hx, State.transfer_bad _ _ _ _ _ _ ha, State.traps]
    case brg => rw [exec_brg, execBrg, State.goto_bad (h := h) hi rfl ha]
    case jmp => rw [exec_jmp, execJmp, State.goto_bad (h := h) hi rfl ha]
    case ret => rw [exec_ret, execRet, State.goto_bad (h := h) hi rfl ha]
    case call => rw [exec_call, execCall, State.goto_bad (h := h) hi rfl ha]
    case loop => rw [exec_loop, execLoop_again hi h1, State.transfer_bad _ _ _ _ _ _ ha, State.traps]
  case callUnfit => rw [exec_call, execCall, State.goto_unfit (h := h) hi rfl hw hn]
  case loopUnfit => rw [exec_loop, execLoop_again hi h1, State.transfer_unfit hw hn, State.traps]
  case signpost => rw [State.target_word ha hw, hk]; rfl

/-! Arrivals (05 R90). -/

/-- Without a spilled entry of its own the stack loses its top, and nothing else changes. -/
theorem State.popRc_unspilled (hsp : g.spill ≤ g.spillBase) : s.popRc g = { g with stack := g.stack.tail } := by
  rw [State.popRc, if_neg (Nat.not_lt.mpr hsp)]

/-- Settles O10: the branches of `State.arrive`, one for each case. -/
theorem arrivalsReconverge : Obligations.ArrivalsReconverge := by
  unfold Obligations.ArrivalsReconverge
  intro s g a w e e2 rest
  refine ⟨fun hv => ?plain, fun hv hst hp ha hsp => ?path, fun hv hst hp ha hsp => ?join, fun hv hst => ?empty,
    fun hv hst hp ha => ?otherJoin, fun hv hst hp ha => ?otherPath⟩
  case plain => simp [State.arrive, hv]
  case path => simp [State.arrive, hv, hst, hp, ha, State.popRc_unspilled hsp]
  case join =>
    have hpop : s.popRc { g with pc := a + 8, block := some { addr := a, word := w } }
        = { g with pc := a + 8, block := some { addr := a, word := w }, stack := g.stack.tail } :=
      State.popRc_unspilled hsp
    rw [hst] at hpop
    simp only [State.arrive, hv, hst, hp, ha, hpop, if_true, Bool.false_eq_true, if_false, List.tail_cons]
  case empty => simp [State.arrive, hv, hst]
  case otherJoin => simp [State.arrive, hv, hst, hp, ha]
  case otherPath => simp [State.arrive, hv, hst, hp, ha]

end Sys2Proof.Machine
end

section
/-! Exits (07 R111, R112): the pops of an EXIT that leaves no lane. -/

namespace Sys2Proof.Machine

variable {s : State} {g : Group} {h : Hdr}

/-- Without spilled entries of its own there is nothing to mask in memory. -/
theorem State.maskSpill_unspilled {keep : W32} (hsp : g.spill ≤ g.spillBase) : s.maskSpill g keep = s := by
  rw [State.maskSpill, Nat.sub_eq_zero_of_le hsp]
  split <;> rfl

/-- While a lane is left, nothing is popped. -/
theorem State.popExit_alive {popped : Option W64} (hx : g.exm ≠ 0) : ∀ n, s.popExit g popped n = (g, popped)
  | 0 => rfl
  | _ + 1 => if_pos hx

theorem State.popExit_empty {popped : Option W64} (hst : g.stack = []) : ∀ n, s.popExit g popped n = (g, popped)
  | 0 => rfl
  | _ + 1 => by simp [State.popExit, hst]

/-- One pop: the top entry goes, and its lanes are those that are left. -/
theorem State.popExit_pop {popped : Option W64} {e : RcEntry} {rest : List RcEntry} (hx : g.exm = 0)
    (hst : g.stack = e :: rest) (hsp : g.spill ≤ g.spillBase) (n : Nat) :
    s.popExit g popped (n + 1) = s.popExit { g with stack := rest, exm := e.mask } (some e.addr) n := by
  rw [State.popExit, if_neg (not_not_intro hx), State.popRc_unspilled hsp]
  simp only [hst, List.tail_cons]

/-- Entries without lanes are popped until one has some. -/
theorem State.popExit_until {e : RcEntry} {rest : List RcEntry} (he : e.mask ≠ 0) :
    ∀ (dead : List RcEntry) (g : Group) (popped : Option W64) (n : Nat), g.exm = 0 → g.stack = dead ++ e :: rest →
      g.spill ≤ g.spillBase → (∀ x ∈ dead, x.mask = 0) → dead.length < n →
      s.popExit g popped n = ({ g with stack := rest, exm := e.mask }, some e.addr)
  | [], g, popped, n + 1, hx, hst, hsp, _, _ => by
    rw [State.popExit_pop hx hst hsp, State.popExit_alive he]
  | x :: dead, g, popped, n + 1, hx, hst, hsp, hdead, hn => by
    rw [State.popExit_pop hx hst hsp]
    exact State.popExit_until he dead { g with stack := dead ++ e :: rest, exm := x.mask } _ n
      (hdead x List.mem_cons_self) rfl hsp (fun y hy => hdead y (List.mem_cons_of_mem _ hy)) (Nat.lt_of_succ_lt_succ hn)

/-- Where no entry has lanes, all are popped. -/
theorem State.popExit_all : ∀ (stack : List RcEntry) (g : Group) (popped : Option W64) (n : Nat), g.exm = 0 →
    g.stack = stack → g.spill ≤ g.spillBase → (∀ x ∈ stack, x.mask = 0) → stack.length ≤ n →
    (s.popExit g popped n).1 = { g with stack := [], exm := 0 }
  | [], g, popped, n, hx, hst, _, _, _ => by
    rw [State.popExit_empty hst, ← hst, ← hx]
  | e :: rest, g, popped, n + 1, hx, hst, hsp, hdead, hn => by
    rw [State.popExit_pop hx hst hsp]
    exact State.popExit_all rest { g with stack := rest, exm := e.mask } _ n (hdead e List.mem_cons_self) rfl hsp
      (fun y hy => hdead y (List.mem_cons_of_mem _ hy)) (Nat.le_of_succ_le_succ hn)

/-- The group with the lanes of a mask alone, in %exm and in its stack. -/
def Group.keepLanes (g : Group) (keep : W32) : Group :=
  { g with exm := g.exm &&& keep, stack := g.stack.map fun e => { e with mask := e.mask &&& keep } }

/-- EXIT in terms of the pops that it makes. -/
theorem execExit_pops (hi : s.issues (.exit h) g = true) :
    execExit h s =
      let keep := ~~~(maskOf (lanesOf g h))
      let s1 := s.maskSpill g keep
      let left := s1.popExit (g.keepLanes keep) none (g.stack.length + g.spill)
      if left.1.exm = 0 then .next (s1.exitGroup left.1)
      else match left.2 with
        | none => s1.goes left.1 h
        | some a => .next (s1.setGroup ({ left.1 with pc := a, block := none, ric := left.1.ric + 1 }.endLeg s1.now)) := by
  rw [execExit, State.issue_go (h := h) hi rfl]
  simp only [Group.keepLanes, List.length_map]
  rfl

theorem execHalt_cases (hi : s.issues (.halt h) g = true) :
    execHalt h s = if s.stepsOf g.id then .next s else .next (s.exitGroup g) := by
  rw [execHalt, State.issue_go (h := h) hi rfl]

/-- Settles O11: EXIT pops nothing while lanes remain; else it pops the entries without lanes, by `State.popExit_until` and
`State.popExit_all`. -/
theorem exitsEndGroups : Obligations.ExitsEndGroups := by
  unfold Obligations.ExitsEndGroups
  intro s g h keep g1
  refine ⟨fun hi hx => ?remain, fun hi hx hst => ?last, fun dead rest e hi hx hst hsp hdead he => ?popped,
    fun hi hx hsp hdead => ?allPopped, fun hi => ?exitG, fun hi hm => ?halt, fun hi hm => ?haltWaits⟩
  case remain =>
    have hpop : (s.maskSpill g keep).popExit (g.keepLanes keep) none (g.stack.length + g.spill) = (g1, none) :=
      State.popExit_alive hx _
    rw [exec_exit, execExit_pops hi]
    simp only [keep] at hpop hx ⊢
    rw [hpop]
    exact if_neg hx
  case last =>
    have hpop : (s.maskSpill g keep).popExit (g.keepLanes keep) none (g.stack.length + g.spill) = (g1, none) :=
      State.popExit_empty (by simp [Group.keepLanes, hst]) _
    rw [exec_exit, execExit_pops hi]
    simp only [keep] at hpop hx ⊢
    rw [hpop]
    exact if_pos hx
  case popped =>
    let lane (x : RcEntry) : RcEntry := { x with mask := x.mask &&& keep }
    have hpop : s.popExit (g.keepLanes keep) none (g.stack.length + g.spill)
        = ({ g.keepLanes keep with stack := rest.map lane, exm := e.mask &&& keep }, some e.addr) :=
      State.popExit_until (e := lane e) he (dead.map lane) _ none _ hx (by simp [Group.keepLanes, hst, lane]) hsp
        (by simpa [lane] using hdead) (by simp [hst]; omega)
    rw [exec_exit, execExit_pops hi]
    simp only [keep] at hpop he hx ⊢
    rw [State.maskSpill_unspilled hsp, hpop]
    exact if_neg he
  case allPopped =>
    have hpop : (s.popExit (g.keepLanes keep) none (g.stack.length + g.spill)).1
        = { g.keepLanes keep with stack := [], exm := 0 } :=
      State.popExit_all _ _ none _ hx rfl hsp (by simpa [Group.keepLanes] using hdead) (by simp [Group.keepLanes])
    rw [exec_exit, execExit_pops hi]
    simp only [keep] at hpop hx ⊢
    rw [State.maskSpill_unspilled hsp, hpop]
    exact if_pos rfl
  case exitG => rw [exec_exitG, execExitG, State.issue_go (h := h) hi rfl]
  case halt => rw [exec_halt, execHalt_cases hi, hm]; rfl
  case haltWaits => rw [exec_halt, execHalt_cases hi, hm]; rfl

end Sys2Proof.Machine
end

section
/-! Waits, barriers and YIELD (07 R113 to R117): what each does when its condition holds, and when it does not. -/

namespace Sys2Proof.Machine

variable {s : State} {g : Group} {h : Hdr}

/-! WAIT on tags. -/

theorem State.tagWait_done {i : Instr} {mask : Opd} {w : W64 → Park} (hi : s.issues i g = true)
    (hs : i.shape.map (·.h) = some h)
    (hd : rd64 g h mask = 0 ∨ (w (rd64 g h mask)).tagsHold (s.tagsAt g.site) = true) :
    s.tagWait i mask w =
      let left := g.takeTags (s.tagsAt g.site) (w (rd64 g h mask))
      .next (((s.setTags g.site left.2).retire left.1 h).acquire g.site .job) := by
  rw [State.tagWait, State.issue_go hi hs]
  simp only [Bool.or_eq_true, decide_eq_true_eq, if_pos hd]

theorem State.tagWait_waits {i : Instr} {mask : Opd} {w : W64 → Park} (hi : s.issues i g = true)
    (hs : i.shape.map (·.h) = some h) (h0 : rd64 g h mask ≠ 0)
    (hw : (w (rd64 g h mask)).tagsHold (s.tagsAt g.site) = false) :
    s.tagWait i mask w =
      match s.tagErr g.site (rd64 g h mask) with
      | some r => .next (s.trap g h { cause := .mserr, info := r })
      | none => .next (s.park g h (w (rd64 g h mask))) := by
  rw [State.tagWait, State.issue_go hi hs]
  simp only [Bool.or_eq_true, decide_eq_true_eq, if_neg (not_or.mpr ⟨h0, Bool.eq_false_iff.mp hw⟩)] <;> rfl

/-- There is no tag 64 to clear. -/
theorem bit64_past : bit64 64 = 0 := by decide

theorem Group.takeTags_any (tags m : W64) (c : Bool) (d : Opd) :
    g.takeTags tags (.waitAny m c d) =
      (putDest g d (BitVec.ofNat 64 (lowBit (tags &&& m))), if c then tags &&& ~~~(bit64 (lowBit (tags &&& m))) else tags) := rfl

/-- A range, parted at one of its numbers. -/
theorem range_parted {n m : Nat} (hn : n < m) : ∃ rest, List.range m = List.range n ++ n :: rest := by
  obtain ⟨k, rfl⟩ : ∃ k, m = n + (k + 1) := ⟨m - n - 1, by omega⟩
  exact ⟨(List.range k).map fun j => n + (j + 1), by simp [List.range_add, List.range_succ_eq_map, Function.comp_def]⟩

/-- A wait on no tag takes none. -/
theorem Group.takeTags_none (tags : W64) (c : Bool) (d : Opd) :
    g.takeTags tags (.waitAny 0 c d) = (putDest g d 64, tags) := by
  have hlow : lowBit (tags &&& 0) = 64 := (congrArg lowBit BitVec.and_zero).trans lowBit_zero
  have hclear : tags &&& ~~~(bit64 64) = tags := bit64_past ▸ BitVec.and_allOnes
  rw [Group.takeTags_any, hlow, hclear, ite_self]
  rfl

/-- The lowest tag of a mask whose milestone has an error is the one that a wait on it names. -/
theorem State.tagErr_lowest {site : Site} {mask : W64} {n : Nat} {t : TagRef} {x : Ms} (hn : n < 64)
    (hset : mask.getLsbD n = true) (ht : s.tagRef site n = some t)
    (hx : s.msOf t.gid.ctx site.cluster t.ref = some x) (he : x.err ≠ 0)
    (hlow : ∀ j < n, mask.getLsbD j = true → ∀ u y, s.tagRef site j = some u →
      s.msOf u.gid.ctx site.cluster u.ref = some y → y.err = 0) : s.tagErr site mask = some t.ref := by
  obtain ⟨rest, hparts⟩ := range_parted hn
  rw [State.tagErr, hparts, List.findSome?_append, List.findSome?_eq_none_iff.mpr ?lower, Option.none_or]
  · simp [hset, ht, hx, he]
  case lower =>
    intro j hj
    cases hm : mask.getLsbD j with
    | false => rfl
    | true =>
      cases hu : s.tagRef site j with
      | none => rfl
      | some u =>
        cases hy : s.msOf u.gid.ctx site.cluster u.ref with
        | none => simp [hy]
        | some y => simp [hy, hlow j (List.mem_range.mp hj) hm u y hu hy]

/-! WAIT on a milestone. -/

theorem execWaitMs_there {a m : Opd} {l : Loc} {x : Ms} (hi : s.issues (.waitMs h a m) g = true)
    (hl : s.msAt g (rd64 g h a) = some l) (hx : s.msThere l = some x) :
    execWaitMs h a m s =
      let s1 := s.askMs g l
      if x.err ≠ 0 then s1.traps g h { cause := .mserr, info := rd64 g h a }
      else if reached x.phase (rdN g h 16 m 0) then .next ((s1.retire g h).acquire g.site .job)
      else .next (s1.park g h (.waitMs (rd64 g h a) (rdN g h 16 m 0))) := by
  rw [execWaitMs, State.issue_go (h := h) hi rfl]
  dsimp only
  rw [State.withMs_at hl, State.withRead_there hx]
  rfl

/-- A milestone that is not aligned is none (13 R244). -/
theorem State.withMs_misaligned {r : W64} (hr : r.toNat % 64 ≠ 0) (k : State → Loc → Out) :
    s.withMs g h r k = s.traps g h { cause := .align, info := r } := by
  have href : s.mref g.id.ctx g.site.cluster r = .trap .align := if_pos hr
  rw [State.withMs, href]
  rfl

/-! Parking. -/

theorem State.trySave_noRequest {id : GroupId} (hq : ∀ c, s.ctx? id.ctx = some c → c.prq = false) : s.trySave id = s := by
  rw [State.trySave]
  split
  · rename_i c _ _ hc _
    split
    · simp [hq c hc]
    · rfl
  · rfl

theorem State.settleRegs_none {site : Site} (hg : s.growq = []) : s.settleRegs site = s := by
  rw [State.settleRegs, hg]
  rfl

/-- The group as it stands where it is parked. -/
def Group.parkedOn (g : Group) (s : State) (h : Hdr) (w : Park) : Group :=
  { g with st := .parked w, since := s.now, probeAt := s.now + g.wft.toNat, seq := s.tick, ilen := h.len, ie := h.e }

theorem State.park_plain {c : Ctx} {w : Park} (hc : s.ctx? g.id.ctx = some c) (hq : c.prq = false) (hg : s.growq = []) :
    s.park g h w = s.setGroup (g.parkedOn s h w) := by
  have hnone : ∀ x, (s.setGroup (g.parkedOn s h w)).ctx? g.id.ctx = some x → x.prq = false := fun x hx =>
    Option.some.inj (hc.symm.trans hx) ▸ hq
  have hsave : (s.setGroup (g.parkedOn s h w)).trySave g.id = s.setGroup (g.parkedOn s h w) := State.trySave_noRequest hnone
  have hpark : s.park g h w = ((s.setGroup (g.parkedOn s h w)).trySave g.id).settleRegs g.site := rfl
  rw [hpark, hsave]
  exact State.settleRegs_none hg

/-! BAR and YIELD. -/

theorem execBar_cases {m : Opd} (hi : s.issues (.bar h m) g = true) :
    execBar h m s =
      if s.readsDue g.id then .next s
      else .next ((((s.setGroup (g.parkedOn s h (.bar (rd32 g h m)))).releaseBar g.id.ctx g.id.task (rd32 g h m)).trySave
        g.id).settleRegs g.site) := by
  rw [execBar, State.issue_go (h := h) hi rfl]
  rfl

theorem execYield_cases {c : Ctx} (hi : s.issues (.yield h) g = true) (hc : s.ctx? g.id.ctx = some c) :
    execYield h s =
      if !c.prq || g.tmask then s.goes g h
      else if !s.quiet g.id then .next s
      else
        let live := match s.codeWord g.id (nextOf g h) with | .ok bs => spLive (wordOf bs) | _ => 128
        .next ((s.setGroup ((g.retire h.len true s.now).keepLive live).save).settleRegs g.site) := by
  rw [execYield, State.issue_go (h := h) hi rfl]
  simp only [hc]
  rfl

/-- Settles O12: each wait by whether its condition holds. -/
theorem waitsComplete : Obligations.WaitsComplete := by
  unfold Obligations.WaitsComplete
  intro s g h c d a m tags mask parks
  refine ⟨fun hi => ⟨fun h0 => ?anyEmpty, fun hm => ?anySet, fun h0 hm => ?anyWaits⟩,
    fun hi => ⟨fun hm => ?allSet, fun hm => ?allWaits⟩,
    fun n t x hn hset ht hx he hlow => State.tagErr_lowest hn hset ht hx he hlow, fun l x hi hl hx => ?milestone,
    fun hi hr => ?misaligned, fun x w hc hq hg => State.park_plain hc hq hg, fun hi hd => ?barWaits, fun hi hd => ?bar,
    fun x hi hc hq => ?yieldFalls, fun x w hi hc hq ht hquiet hw => ?yieldSaves⟩
  case anyEmpty =>
    rw [exec_waitAny, execWaitAny, State.tagWait_done (h := h) hi rfl (.inl h0)]
    simp only [mask] at h0
    rw [h0, Group.takeTags_none]
  case anySet =>
    rw [exec_waitAny, execWaitAny, State.tagWait_done (h := h) hi rfl (.inr (by simpa [Park.tagsHold] using hm)),
      Group.takeTags_any]
  case anyWaits =>
    rw [exec_waitAny, execWaitAny, State.tagWait_waits (h := h) hi rfl h0 (by simpa [Park.tagsHold] using hm)]
    exact ⟨fun he => by rw [he], fun r he => by rw [he]; rfl⟩
  case allSet =>
    rw [exec_waitAll, execWaitAll, State.tagWait_done (h := h) hi rfl (.inr (by simpa [Park.tagsHold] using hm))]
    rfl
  case allWaits =>
    have h0 : mask ≠ 0 := fun hz => hm (by simp [hz])
    rw [exec_waitAll, execWaitAll, State.tagWait_waits (h := h) hi rfl h0 (by simpa [Park.tagsHold] using hm)]
    exact ⟨fun he => by rw [he], fun r he => by rw [he]; rfl⟩
  case milestone =>
    rw [exec_waitMs, execWaitMs_there hi hl hx]
    exact ⟨fun he hr => by simp [he, hr], fun he hr => by simp [he, hr], fun he => if_pos he⟩
  case misaligned => rw [exec_waitMs, execWaitMs, State.issue_go (h := h) hi rfl]; exact State.withMs_misaligned hr _
  case barWaits => rw [exec_bar, execBar_cases hi, hd]; rfl
  case bar => rw [exec_bar, execBar_cases hi, hd]; rfl
  case yieldFalls =>
    rw [exec_yield, execYield_cases hi hc]
    exact if_pos (by rcases hq with hq | hq <;> simp [hq])
  case yieldSaves =>
    rw [exec_yield, execYield_cases hi hc]
    simp only [hq, ht, hquiet, hw, Bool.not_true, Bool.or_self, Bool.false_eq_true, if_false]

end Sys2Proof.Machine
end

section
/-! Taking a trap and returning from it (07 R119, R120; 19 R331 to R334). -/

namespace Sys2Proof.Machine

variable {s : State} {g : Group} {h : Hdr} {t : Trap} {l : Launch}

theorem State.handlerOf_launch {id : GroupId} (hl : s.launchOf id = some l) : s.handlerOf id = l.lrec.handler := by
  rw [State.handlerOf, hl]

/-- With an empty stack an arrival goes on behind the signpost, whatever that is. -/
theorem State.arrive_empty (hst : g.stack = []) (a w : W64) :
    s.arrive g a w = { g with pc := a + 8, block := some { addr := a, word := w } } := by
  rw [State.arrive, hst]
  split <;> rfl

/-! What a trap outside a handler comes to, by what the handler's signpost holds. -/

section Handler
variable (hm : g.tmask = false) (hl : s.launchOf g.id = some l) (hh : l.lrec.handler ≠ 0) (tpc next : W64)
  (resume : Option W64) (hops : List W64) (e : Bool)
include hm hl hh

theorem State.trapAt_badHandler (hw : s.target g.id l.lrec.handler = .bad) :
    s.trapAt g tpc next resume hops t e =
      s.endTeam g.id.ctx g.id.task (trapRecord 2 g.id { t with cause := .brt } tpc hops) := by
  simp only [State.trapAt, hm, State.handlerOf_launch hl, if_neg hh, hw, Bool.false_eq_true, if_false]

theorem State.trapAt_uncorrHandler (hw : s.target g.id l.lrec.handler = .uncorr) :
    s.trapAt g tpc next resume hops t e =
      s.endTeam g.id.ctx g.id.task (trapRecord 2 g.id { t with cause := .uncorr } l.lrec.handler hops) := by
  simp only [State.trapAt, hm, State.handlerOf_launch hl, if_neg hh, hw, Bool.false_eq_true, if_false]

theorem State.trapAt_noEntry {w : W64} (hw : s.target g.id l.lrec.handler = .ok w) (he : spEntry w = false) :
    s.trapAt g tpc next resume hops t e =
      s.endTeam g.id.ctx g.id.task (trapRecord 2 g.id { t with cause := .brt } tpc hops) := by
  simp only [State.trapAt, hm, State.handlerOf_launch hl, if_neg hh, hw, he, Bool.not_false, Bool.false_eq_true, if_false, if_true]

/-- The group that a trap leaves behind, before it arrives at its handler. -/
def Group.trapped (g : Group) (tpc next : W64) (resume : Option W64) (t : Trap) (e : Bool) : Group :=
  { g with
    tcause := t.cause, tpc, tinfo := t.info, tlane := t.lanes, tsave := some (g.trapSave next e resume)
    tmask := true, exm := fullMask, stack := [], pend := [], reissue := [] }

theorem State.trapAt_enters {w : W64} (hw : s.target g.id l.lrec.handler = .ok w) (he : spEntry w = true)
    (hd : t.cause ≠ .deadlock) :
    s.trapAt g tpc next resume hops t e =
      s.setGroup ((s.arrive (g.trapped tpc next resume t e) l.lrec.handler w).endLeg s.now) := by
  simp only [State.trapAt, hm, State.handlerOf_launch hl, if_neg hh, hw, he, if_neg hd, Bool.not_true, Bool.false_eq_true,
    if_false, Group.trapped]

end Handler

/-- Settles O15: the trap enters its handler, where the empty stack lets the arrival go on. -/
theorem trapEntersHandler : Obligations.TrapEntersHandler := by
  unfold Obligations.TrapEntersHandler
  intro s g h t l w hm hr hl hh hw he hd
  rw [State.trap_first s g h t hr, State.trapAt_enters hm hl hh _ _ _ _ _ hw he hd, State.arrive_empty rfl]
  simp only [Group.trapped, Group.trapSave, Group.endLeg, hr]

/-! What ending a team leaves: 07 R120. -/

section EndTeam
variable (s) (ctx : Nat) (task : W64) (record : List Byte)

theorem State.endTeam_groups :
    ∀ x ∈ (s.endTeam ctx task record).groups, x.id.ctx = ctx → x.id.task = task → x.st = .exited := by
  intro x hx hc ht
  obtain ⟨y, -, rfl⟩ := List.mem_map.mp hx
  by_cases hy : y.id.ctx = ctx ∧ y.id.task = task
  · simp [hy]
  · simp only [Bool.and_eq_true, decide_eq_true_eq, if_neg hy] at hc ht
    exact absurd ⟨hc, ht⟩ hy

theorem State.endTeam_loads : ∀ x ∈ (s.endTeam ctx task record).loads, ¬(x.gid.ctx = ctx ∧ x.gid.task = task) := by
  intro x hx
  have hkept := (List.mem_filter.mp hx).2
  rw [not_and_or]
  simpa using hkept

theorem State.endTeam_teams :
    ∀ x ∈ (s.endTeam ctx task record).teams, x.ctx = ctx → x.task = task →
      x.version = [] ∧ x.verBad = [] ∧ x.spilled = [] ∧ x.st = .aborting record := by
  intro x hx hc ht
  obtain ⟨y, -, rfl⟩ := List.mem_map.mp hx
  by_cases hy : y.ctx = ctx ∧ y.task = task
  · simp [hy]
  · simp only [Bool.and_eq_true, decide_eq_true_eq, if_neg hy] at hc ht
    exact absurd ⟨hc, ht⟩ hy

/-- The groups of other teams stay as they are. -/
theorem State.endTeam_group?_ne (id : GroupId) (hid : ¬(id.ctx = ctx ∧ id.task = task)) :
    (s.endTeam ctx task record).group? id = s.group? id := by
  have hmap : (s.endTeam ctx task record).groups =
      s.groups.map fun g => if g.id.ctx = ctx && g.id.task = task then { g with st := .exited } else g := rfl
  unfold State.group?
  rw [hmap, find?_map_id (fun g : Group => g.id) id _ (fun g => by split <;> rfl)]
  cases hg : s.groups.find? fun g => g.id = id with
  | none => rfl
  | some x =>
    have hx : x.id = id := by simpa using List.find?_some hg
    simp [hx, hid]

end EndTeam

/-- Settles O16: the ways in which `State.trapAt` ends a team, and what `State.endTeam` leaves. -/
theorem trapEndsTeam : Obligations.TrapEndsTeam := by
  unfold Obligations.TrapEndsTeam
  refine ⟨fun s g h t l hr hl => ?trap, fun s g h hi => ⟨?abort, rfl⟩⟩
  case trap =>
    dsimp only
    rw [State.trap_first s g h t hr]
    refine ⟨fun hm => State.trapAt_nested s g _ _ _ _ t _ hm, fun hm hh => State.trapAt_noHandler s g _ _ _ _ t _ hm ?_,
      fun hm hh hw => State.trapAt_badHandler hm hl hh _ _ _ _ _ hw,
      fun w hm hh hw he => State.trapAt_noEntry hm hl hh _ _ _ _ _ hw he,
      fun hm hh hw => State.trapAt_uncorrHandler hm hl hh _ _ _ _ _ hw,
      fun ctx task record => ⟨s.endTeam_groups ctx task record, s.endTeam_loads ctx task record,
        s.endTeam_teams ctx task record, rfl, s.endTeam_group?_ne ctx task record⟩⟩
    intro l' hl'
    rw [← Option.some.inj (hl.symm.trans hl'), hh]
  case abort => rw [exec_abort, execAbort, State.issue_go (h := h) hi rfl]

/-! TRAPRET (07 R119; 19 R334). -/

theorem State.leaveHandler_outside {i : Instr} (hi : s.issues i g = true) (hs : i.shape.map (·.h) = some h) (next : Bool)
    (hm : g.tmask = false) : s.leaveHandler i next = s.traps g h { cause := .ill } := by
  rw [State.leaveHandler, State.issue_go hi hs, hm]
  rfl

theorem State.leaveHandler_inside {i : Instr} {x : TrapSave} (hi : s.issues i g = true)
    (hs : i.shape.map (·.h) = some h) (next : Bool) (hm : g.tmask = true) (hx : g.tsave = some x) :
    s.leaveHandler i next = .next (s.setGroup (g.trapret x next s.now)) := by
  rw [State.leaveHandler, State.issue_go hi hs, hm, hx]

section Trapret
variable {x : TrapSave} (now : Nat)

theorem Group.trapret_same (hr : x.resume = none) : g.trapret x false now = { g.restore x now with pc := g.tpc } := by
  simp [Group.trapret, hr, Group.restore]

theorem Group.trapret_next {b : Block} (hr : x.resume = none) (hb : x.block = some b) :
    g.trapret x true now =
      let g2 : Group := { g.restore x now with
        started := true, pc := x.next, legPos := x.legPos + 1, block := if x.next = b.stop then none else x.block }
      if x.e || x.next = b.stop then g2.endLeg now else g2 := by
  simp [Group.trapret, hr, hb, Group.restore]

theorem Group.trapret_resumeSame {r : W64} (hr : x.resume = some r) :
    g.trapret x false now = { g.restore x now with pc := r, reissue := g.tpc :: x.reissue } := by
  simp [Group.trapret, hr, Group.restore]

theorem Group.trapret_resumeNext {r : W64} (hr : x.resume = some r) :
    g.trapret x true now = { g.restore x now with pc := r, started := true } := by
  simp [Group.trapret, hr]

end Trapret

/-- Settles O17: outside a handler an ILL, inside it what `Group.trapret` makes of the trap save. -/
theorem trapReturns : Obligations.TrapReturns := by
  unfold Obligations.TrapReturns
  intro s g h t
  refine ⟨fun hi hm => ?sameOutside, fun hi hm => ?nextOutside, fun hi hm ht hr => ?same,
    fun b hi hm ht hr hb he hstop => ?next, fun b hi hm ht hr hb hends => ?nextEndsLeg, fun r hi hm ht hr => ?resumeSame,
    fun r hi hm ht hr => ?resumeNext⟩
  case sameOutside => rw [exec_trapretSame, execTrapretSame, State.leaveHandler_outside (h := h) hi rfl _ hm]
  case nextOutside => rw [exec_trapretNext, execTrapretNext, State.leaveHandler_outside (h := h) hi rfl _ hm]
  case same =>
    rw [exec_trapretSame, execTrapretSame, State.leaveHandler_inside (h := h) hi rfl _ hm ht, Group.trapret_same _ hr]
    rfl
  case next =>
    rw [exec_trapretNext, execTrapretNext, State.leaveHandler_inside (h := h) hi rfl _ hm ht, Group.trapret_next _ hr hb]
    simp only [he, hstop, decide_false, Bool.or_self, Bool.false_eq_true, if_false, Group.restore]
  case nextEndsLeg =>
    refine ⟨g.trapret t true s.now, ?_, ?_⟩
    · rw [exec_trapretNext, execTrapretNext, State.leaveHandler_inside (h := h) hi rfl _ hm ht]
    · rw [Group.trapret_next _ hr hb]
      dsimp only
      rw [if_pos (by simpa using hends)]
      exact ⟨rfl, rfl, rfl, rfl, rfl, rfl, rfl, rfl⟩
  case resumeSame =>
    rw [exec_trapretSame, execTrapretSame, State.leaveHandler_inside (h := h) hi rfl _ hm ht,
      Group.trapret_resumeSame _ hr]
  case resumeNext =>
    rw [exec_trapretNext, execTrapretNext, State.leaveHandler_inside (h := h) hi rfl _ hm ht,
      Group.trapret_resumeNext _ hr]

end Sys2Proof.Machine
end

section
/-! PROOFS. O50: what `fit` gives: the exact value modulo 2^w, or clamped (07 R106). -/

namespace Sys2Proof.Machine

theorem bits_pos (ty : Ty) : 0 < ty.bits := by cases ty <;> decide

/-- The exact value modulo 2^w as a natural number. -/
theorem wrapN_cast (w : Nat) (x : Int) : (wrapN w x : Int) = x % (2 ^ w : Nat) :=
  Int.toNat_of_nonneg (Int.emod_nonneg _ (by simp))

theorem wrapN_lt (w : Nat) (x : Int) : wrapN w x < 2 ^ w := by
  have h : (wrapN w x : Int) < (2 ^ w : Nat) := wrapN_cast w x ▸ Int.emod_lt_of_pos _ (by simp)
  exact_mod_cast h

/-- The two halves of the patterns of a width above 0. -/
theorem two_pow_halves {w : Nat} (hw : 0 < w) : 2 ^ w = 2 * 2 ^ (w - 1) := by
  rw [← Nat.pow_succ', Nat.succ_eq_add_one, Nat.sub_add_cancel hw]

theorem clampI_eq {signed : Bool} {w : Nat} (x : Int) (hr : intMin signed w ≤ intMax signed w) :
    clampI signed w x = max (intMin signed w) (min (intMax signed w) x) := by
  unfold clampI; split
  · omega
  · split <;> omega

theorem intMin_le_intMax (signed : Bool) (w : Nat) : intMin signed w ≤ intMax signed w := by
  unfold intMin intMax
  have h1 : 0 < 2 ^ w := Nat.two_pow_pos w
  have h2 : 0 < 2 ^ (w - 1) := Nat.two_pow_pos _
  split <;> omega

/-- A pattern read as its type: in the type's range, and the value modulo 2^w. -/
theorem toInt_wrapN {signed : Bool} {w : Nat} (hw : 0 < w) (x : Int) :
    intMin signed w ≤ toInt signed w (wrapN w x) ∧ toInt signed w (wrapN w x) ≤ intMax signed w ∧
      (toInt signed w (wrapN w x) - x) % (2 ^ w : Nat) = 0 := by
  have hlt := wrapN_lt w x
  have hmod : (wrapN w x : Int) = x % (2 ^ w : Nat) := wrapN_cast w x
  have hdiv := Int.emod_add_mul_ediv x (2 ^ w : Nat)
  have hhalf := two_pow_halves hw
  have hagree : ((wrapN w x : Int) - x) % (2 ^ w : Nat) = 0 := by rw [hmod]; simp
  have hdown : ((wrapN w x : Int) - 2 ^ w - x) % (2 ^ w : Nat) = 0 := by
    have : (wrapN w x : Int) - 2 ^ w - x = (wrapN w x : Int) - x - (2 ^ w : Nat) := by push_cast; ring
    rw [this, Int.sub_emod_right, hagree]
  unfold toInt intMin intMax
  rw [Nat.mod_eq_of_lt hlt]
  cases signed with
  | false => exact ⟨by simp, by simp only [Bool.false_and, Bool.false_eq_true, if_false]; omega, by simpa using hagree⟩
  | true =>
    by_cases hneg : 2 ^ (w - 1) ≤ wrapN w x
    · have hcast : (2 ^ w : Int) = (2 ^ w : Nat) := by push_cast; rfl
      simp only [Bool.true_and, decide_eq_true_eq, if_pos hneg, if_true]
      exact ⟨by omega, by omega, hdown⟩
    · simp only [Bool.true_and, decide_eq_true_eq, if_neg hneg, if_true]
      exact ⟨by omega, by omega, hagree⟩

/-- A value of the type's range is read back from its pattern. -/
theorem toInt_wrapN_of_range {signed : Bool} {w : Nat} (hw : 0 < w) {x : Int} (h1 : intMin signed w ≤ x)
    (h2 : x ≤ intMax signed w) : toInt signed w (wrapN w x) = x := by
  obtain ⟨hlo, hhi, hmod⟩ := toInt_wrapN (signed := signed) hw x
  have hwidth : intMax signed w - intMin signed w < (2 ^ w : Nat) := by
    have := two_pow_halves hw
    unfold intMin intMax
    split <;> omega
  have hsmall : |toInt signed w (wrapN w x) - x| < (2 ^ w : Nat) := abs_lt.mpr ⟨by omega, by omega⟩
  exact sub_eq_zero.mp (Int.eq_zero_of_abs_lt_dvd (Int.dvd_of_emod_eq_zero hmod) hsmall)

/-- Settles O50: `fit` is the wrapped value, and the clamped one lies in the range and is read back. -/
theorem fitWrapsOrClamps : Obligations.FitWrapsOrClamps := by
  intro ty x
  obtain ⟨hlo, hhi, hmod⟩ := toInt_wrapN (signed := ty.isSigned) (bits_pos ty) x
  refine ⟨⟨hlo, hhi, hmod, wrapN_lt _ _⟩, ?_⟩
  have hr := intMin_le_intMax ty.isSigned ty.bits
  show toInt ty.isSigned ty.bits (wrapN ty.bits (clampI ty.isSigned ty.bits x)) =
    max (intMin ty.isSigned ty.bits) (min (intMax ty.isSigned ty.bits) x)
  rw [clampI_eq x hr]
  exact toInt_wrapN_of_range (bits_pos ty) (le_max_left _ _) (max_le hr (min_le_left _ _))

/-- Settles O54: each word decodes as the spec prints it. -/
theorem specWordsDecode : Obligations.SpecWordsDecode := by
  refine ⟨?_, ?_, ?_, ?_, ?_⟩ <;> decide

theorem munit_reset {u : Nat} (hu : u < 128) : State.reset.munit u = idleUnit := by
  show (List.replicate 128 idleUnit).getD u idleUnit = idleUnit
  rw [List.getD_eq_getElem?_getD, List.getElem?_replicate, if_pos hu]
  rfl

/-- Settles O56: the state after reset is evaluated. -/
theorem resetIsReady : Obligations.ResetIsReady := by
  have hrec : recordFormed State.reset.recBytes = true := by decide +kernel
  exact ⟨rfl, rfl, rfl, by decide, rfl, rfl, rfl, rfl, rfl, rfl, rfl, rfl, rfl, rfl, fun _ hu => munit_reset hu, rfl, rfl, rfl, hrec⟩

end Sys2Proof.Machine
end

section
/-! PROOFS. O55: a step of an issue slot fetches the word at pc and executes what it decodes to (05 R84 to R94; 03 R47). -/

namespace Sys2Proof.Machine

/-- The word at an address, with its literal where it names one, decodes to an instruction (05 R64 to R68). -/
def State.decodesAt (s : State) (g : Group) (a : W64) (stop : W64) (bs : List Byte) (i : Instr) : Prop :=
  (namesLit (wordOf bs) = false ∧ decode (wordOf bs) none = some i) ∨
    (namesLit (wordOf bs) = true ∧ stop ≠ a + 8 ∧
      ∃ ls, s.codeWord g.id (a + 8) = .ok ls ∧ decode (wordOf bs) (some (wordOf ls)) = some i)

section
variable {s : State} {g : Group} {b : Block} {bs : List Byte} {i : Instr} {sh : Shape}

theorem State.fetchWord_ok {a stop : W64} (hw : s.codeWord g.id a = .ok bs) (hd : s.decodesAt g a stop bs i)
    (hs : i.shape = some sh) (hsite : siteOk g.site sh = true) : s.fetchWord g a (some stop) = .ok g i := by
  unfold State.fetchWord
  obtain ⟨hlit, hi⟩ | ⟨hlit, hstop, ls, hl, hi⟩ := hd
  · rw [hw]
    dsimp only
    rw [hlit, if_pos (by rfl), hi]
    dsimp only
    rw [hs]
    exact if_pos hsite
  · rw [hw]
    dsimp only
    rw [hlit, if_neg (by decide), if_neg (by simpa using hstop), hl]
    dsimp only
    rw [hi]
    dsimp only
    rw [hs]
    exact if_pos hsite

theorem State.fetchIn_ok (hf : s.fetchWord g g.pc (some b.stop) = .ok g i) (hs : i.shape = some sh)
    (hleg : g.legPos < Config.legLimit) (hend : i.endsBlock = true → g.pc + BitVec.ofNat 64 (8 * sh.h.len) = b.stop)
    (hy : i.isYield = false) : s.fetchIn g b = .ok g i := by
  unfold State.fetchIn
  have hnend : (i.endsBlock && decide (g.pc + BitVec.ofNat 64 (8 * sh.h.len) ≠ b.stop)) = false := by
    cases he : i.endsBlock <;> simp [he, hend]
  simp only [hf, hs, if_neg (Nat.not_le.mpr hleg), hnend, hy]
  rfl

theorem State.enterBlock_inside (hb : g.block = some b) (n : Nat) : s.enterBlock g (n + 1) = .inr (g, b) := by
  simp [State.enterBlock, hb]

theorem State.fetch_inside (hspill : g.spill = 0 ∨ s.areaFenced g = false) (hre : g.reissue = [])
    (hb : g.block = some b) : s.fetch g = s.fetchIn g b := by
  unfold State.fetch
  have hreach : ¬ (g.spill ≠ 0 && s.areaFenced g) = true := by
    rcases hspill with h | h <;> simp [h]
  rw [if_neg hreach, hre]
  simp only [State.enterBlock_inside hb]

theorem State.fetchRun_ok (hp : g.pend = []) (hf : s.fetch g = .ok g i) :
    s.fetchRun g = .inr (i, { (s.setGroup g).noteFetch g.id (fetchedAt g g i) with cur := some g.id }) := by
  simp [State.fetchRun, hp, hf]

end

theorem State.act_issue {s : State} {site : Site} {slot : Nat} (hf : s.fatal = false) (hr : s.recovery = false)
    (hu : s.fenced (Site.unit site) = false) : s.act (.issue site slot) = s.slotMove site slot := by
  simp [State.act, hf, hr, hu]

/-- The slot that the agenda names, or the one whose turn it is, makes the next move. -/
theorem State.nextMove_issue {s s0 : State} {site : Site} {slot : Nat} {rest : List Move} (hf : s.fatal = false)
    (hr : s.recovery = false) (hu : s.fenced (Site.unit site) = false)
    (hpick : (s.agenda = .issue site slot :: rest ∧ s0 = { s with agenda := rest }) ∨
      (s.agenda = [] ∧ s.turnMove = none ∧ s.issuer = (site, slot) ∧ s0 = { s with focus := (site, slot) })) :
    s.nextMove = s0.slotMove site slot := by
  unfold State.nextMove
  obtain ⟨ha, rfl⟩ | ⟨ha, ht, hi, rfl⟩ := hpick
  · rw [ha]
    exact State.act_issue hf hr hu
  · have hruns : (s.fatal || s.recovery) = false := by rw [hf, hr]; rfl
    simp only [ha, hruns, ht, hi, if_false, Bool.false_eq_true]
    exact State.act_issue hf hr hu

/-- Settles O55: the slot's move is the fetch, and the fetch gives what the word decodes to. -/
theorem stepRunsTheDecodedInstruction : Obligations.StepRunsTheDecodedInstruction := by
  intro s s0 t site slot rest g b bs i sh hf hr hu hpick hin hspill hre hp hb hw hd hs hsite hleg hend hy hexec
  have hfetch : s0.fetch g = .ok g i :=
    (State.fetch_inside hspill hre hb).trans (State.fetchIn_ok (State.fetchWord_ok hw hd hs hsite) hs hleg hend hy)
  have hmove : s.nextMove = .inr (i, { (s0.setGroup g).noteFetch g.id (fetchedAt g g i) with cur := some g.id }) := by
    rw [State.nextMove_issue hf hr hu hpick, State.slotMove, hin]
    exact State.fetchRun_ok hp hfetch
  simp [step, hmove, hexec]

end Sys2Proof.Machine
end

section
/-! PROOFS. O34: CMPS keeps the two highest-ranking elements of four, and CBDEC decodes an index (15 R294, R298). -/

namespace Sys2Proof.Machine

/-! `sortBy` is a stable insertion sort. -/

section Sorting
variable {α : Type} {lt : α → α → Bool}

theorem insertBy_perm (x : α) (l : List α) : (insertBy lt x l).Perm (x :: l) := by
  induction l with
  | nil => exact List.Perm.refl _
  | cons y t ih =>
    unfold insertBy
    split
    · exact List.Perm.refl _
    · exact (ih.cons y).trans (List.Perm.swap x y t)

theorem sortBy_concat (l : List α) (x : α) : sortBy lt (l ++ [x]) = insertBy lt x (sortBy lt l) := by
  simp [sortBy, List.foldl_append]

theorem sortBy_perm (l : List α) : (sortBy lt l).Perm l := by
  induction l using List.reverseRecOn with
  | nil => exact List.Perm.refl _
  | append_singleton l x ih =>
    rw [sortBy_concat]
    exact ((insertBy_perm x _).trans (ih.cons x)).trans (List.perm_append_singleton x l).symm

variable {β : Type} [LinearOrder β] {key : α → β}

/-- With the order of a key, nothing precedes what stands before it. -/
theorem insertBy_sorted (hlt : ∀ a b, lt a b = true ↔ key a < key b) (x : α) {l : List α}
    (hl : l.Pairwise fun a b => key a ≤ key b) : (insertBy lt x l).Pairwise fun a b => key a ≤ key b := by
  induction l with
  | nil => exact List.pairwise_singleton _ _
  | cons y t ih =>
    obtain ⟨hy, ht⟩ := List.pairwise_cons.mp hl
    unfold insertBy
    by_cases hxy : lt x y = true
    · have hle : key x ≤ key y := ((hlt x y).mp hxy).le
      rw [if_pos hxy]
      refine List.pairwise_cons.mpr ⟨fun z hz => ?_, hl⟩
      rcases List.mem_cons.mp hz with rfl | hz
      · exact hle
      · exact hle.trans (hy z hz)
    · have hle : key y ≤ key x := not_lt.mp fun h => hxy ((hlt x y).mpr h)
      rw [if_neg hxy]
      refine List.pairwise_cons.mpr ⟨fun z hz => ?_, ih ht⟩
      rcases List.mem_cons.mp ((insertBy_perm x t).mem_iff.mp hz) with rfl | hz
      · exact hle
      · exact hy z hz

theorem sortBy_sorted (hlt : ∀ a b, lt a b = true ↔ key a < key b) (l : List α) :
    (sortBy lt l).Pairwise fun a b => key a ≤ key b := by
  induction l using List.reverseRecOn with
  | nil => exact List.Pairwise.nil
  | append_singleton l x ih => rw [sortBy_concat]; exact insertBy_sorted hlt x ih

end Sorting

/-! The ranking is that of a linear order: NaN first, infinities next, and then the magnitude (15 R294). -/

/-- What an element ranks by. -/
def rankKey : FVal → WithTop (WithTop ℚ)
  | .nan => ⊤
  | .inf _ => WithTop.some ⊤
  | .num _ m e => WithTop.some (WithTop.some ((m : ℚ) * 2 ^ e))

theorem scaled_cast {m : Nat} {e q : Int} (h : q ≤ e) : ((scaled false m e q : Int) : ℚ) * 2 ^ q = m * 2 ^ e := by
  have hexp : (2 : ℚ) ^ e = 2 ^ (e - q).toNat * 2 ^ q := by
    rw [← zpow_natCast, ← zpow_add₀ two_ne_zero, Int.toNat_of_nonneg (by omega), sub_add_cancel]
  rw [hexp]
  simp [scaled, mul_assoc]

theorem cmp_num_gt {m n : Nat} {e f : Int} :
    FVal.cmp (.num false m e) (.num false n f) = .gt ↔ (n : ℚ) * 2 ^ f < m * 2 ^ e := by
  have hpos : (0 : ℚ) < 2 ^ min e f := zpow_pos two_pos _
  rw [← scaled_cast (min_le_left e f), ← scaled_cast (min_le_right e f), mul_lt_mul_iff_left₀ hpos, Int.cast_lt]
  exact compare_gt_iff_gt

theorem ranksAbove_iff (ty : Ty) (x y : Nat) :
    ranksAbove ty x y = true ↔ rankKey (elemVal ty.code y) < rankKey (elemVal ty.code x) := by
  unfold ranksAbove magOf
  cases elemVal ty.code x <;> cases elemVal ty.code y
  case num.num => simp only [rankKey, WithTop.coe_lt_coe, cmp_num_gt, decide_eq_true_eq]
  all_goals simp only [rankKey, FVal.cmp, WithTop.coe_lt_top, lt_irrefl, WithTop.coe_lt_coe, not_top_lt, if_true, if_false,
    reduceCtorEq, decide_false, decide_true, Bool.false_eq_true]

/-- The first two places of a ranking in ascending order, with the two left out. -/
theorem keptOf_ranked (ty : Ty) (e : Nat → Nat) :
    ∃ a b c d, [a, b, c, d].Perm [0, 1, 2, 3] ∧ keptOf ty e = sortBy (fun (i j : Nat) => decide (i < j)) [a, b] ∧
      [a, b, c, d].Pairwise fun i j => ranksAbove ty (e j) (e i) = false := by
  have hperm := sortBy_perm (lt := fun i j => ranksAbove ty (e i) (e j)) [0, 1, 2, 3]
  have hsorted := sortBy_sorted (lt := fun i j => ranksAbove ty (e i) (e j))
    (key := fun i => OrderDual.toDual (rankKey (elemVal ty.code (e i))))
    (fun i j => ranksAbove_iff ty (e i) (e j)) [0, 1, 2, 3]
  have hkept : keptOf ty e =
    sortBy (· < ·) ((sortBy (fun i j => ranksAbove ty (e i) (e j)) [0, 1, 2, 3]).take 2) := rfl
  obtain ⟨a, b, c, d, hl⟩ := List.length_eq_four.mp hperm.length_eq
  rw [hl] at hperm hsorted hkept
  refine ⟨a, b, c, d, hperm, hkept, hsorted.imp fun {i j} hij => ?_⟩
  exact Bool.eq_false_iff.mpr fun h => not_lt.mpr hij ((ranksAbove_iff ty (e j) (e i)).mp h)

theorem sortBy_two {a b : Nat} (h : a ≠ b) : sortBy (fun (i j : Nat) => decide (i < j)) [a, b] = [min a b, max a b] := by
  rcases Nat.lt_or_gt_of_ne h with h | h <;> simp [sortBy, insertBy, h, h.le, h.not_gt]

theorem kept_two (ty : Ty) (e : Nat → Nat) : ∃ i j, keptOf ty e = [i, j] ∧ i < j ∧ j < 4 ∧
    ∀ n < 4, n ≠ i → n ≠ j → ranksAbove ty (e n) (e i) = false ∧ ranksAbove ty (e n) (e j) = false := by
  obtain ⟨a, b, c, d, hperm, hkept, hrank⟩ := keptOf_ranked ty e
  have hnodup : [a, b, c, d].Nodup := hperm.nodup_iff.mpr (by decide)
  have hlt : ∀ n, n ∈ [a, b, c, d] ↔ n < 4 := fun n => hperm.mem_iff.trans (by simp; omega)
  have ha := (hlt a).mp (by simp)
  have hb := (hlt b).mp (by simp)
  have hne : a ≠ b := by simp at hnodup; tauto
  have hleft : ∀ n < 4, n ≠ a → n ≠ b → ranksAbove ty (e n) (e a) = false ∧ ranksAbove ty (e n) (e b) = false := by
    intro n hn hna hnb
    have hmem := (hlt n).mpr hn
    simp only [List.mem_cons, List.not_mem_nil, or_false, hna, hnb, false_or] at hmem
    simp only [List.pairwise_cons, List.mem_cons, List.not_mem_nil, or_false, forall_eq_or_imp, forall_eq] at hrank
    obtain ⟨⟨-, hac, had⟩, ⟨hbc, hbd⟩, -⟩ := hrank
    rcases hmem with rfl | rfl
    · exact ⟨hac, hbc⟩
    · exact ⟨had, hbd⟩
  rw [sortBy_two hne] at hkept
  rcases Nat.lt_or_gt_of_ne hne with h | h
  · rw [min_eq_left h.le, max_eq_right h.le] at hkept
    exact ⟨a, b, hkept, h, hb, hleft⟩
  · rw [min_eq_right h.le, max_eq_left h.le] at hkept
    exact ⟨b, a, hkept, h, ha, fun n hn hnb hna => (hleft n hn hna hnb).symm⟩

/-- Settles O34: the ranking is a linear order, so that the first two of the sorted run are the kept ones; the values are those of
the per-lane frame. -/
theorem compressionResults : Obligations.CompressionResults := by
  refine ⟨fun s g h ty d a b x hx => ?_, kept_two⟩
  refine ⟨fun hi => ?val, fun hi => ?places, fun hi => ?f32, fun hi => ?e4m3, fun hi hf he => ?other⟩
  case val => rw [exec_cmpsVal, execCmpsVal, State.perLane_go (h := h) hi rfl]
  case places => rw [exec_cmpsMeta, execCmpsMeta, State.perLane_go (h := h) hi rfl]
  case f32 => rw [exec_cbdec, execCbdec, State.perLane_go (h := h) hi rfl, hx]
  case e4m3 => rw [exec_cbdec, execCbdec, State.perLane_go (h := h) hi rfl, hx]
  case other =>
    rw [exec_cbdec, execCbdec, State.perLane_go (h := h) hi rfl, hx]
    cases ty
    case f32 => exact absurd rfl hf
    case e4m3 => exact absurd rfl he
    all_goals rfl

end Sys2Proof.Machine
end

section
/-! PROOFS. O36: a step on an accumulator slot (09 R175 to R177). -/

namespace Sys2Proof.Machine

/-- A running maximum never falls. -/
theorem le_foldl_of_le {α : Type} {f : Int → α → Int} (hf : ∀ a x, a ≤ f a x) (l : List α) (a : Int) : a ≤ l.foldl f a := by
  induction l generalizing a with
  | nil => exact le_refl a
  | cons x l ih => exact (hf a x).trans (ih (f a x))

theorem le_stepExp (e : Int) (elems : List Elem) (prods : List (List FVal)) : e ≤ stepExp e elems prods := by
  have hprod (a : Int) (p : FVal) : a ≤ (match p.need with | some k => max a k | none => a) := by
    split
    · exact le_max_left _ _
    · exact le_refl a
  have helem (a : Int) (x : Elem) : a ≤ (if x.1 = .fin then max a (e + elemNeed x.2) else a) := by
    split
    · exact le_max_left _ _
    · exact le_refl a
  exact (le_foldl_of_le (fun a ps => le_foldl_of_le hprod ps a) prods e).trans (le_foldl_of_le helem elems _)

theorem Slot.step_elem {x : Slot} {prods : List (List FVal)} {n : Nat} {v : Elem} {ps : List FVal} (hv : x.all[n]? = some v)
    (hp : prods[n]? = some ps) : (x.step prods).elems[n]? = some (stepElem x.e (x.step prods).e v ps) := by
  simp [Slot.step, List.zip, List.getElem?_zipWith, hv, hp]

theorem stepElem_nan (e e1 : Int) (k : Int) (ps : List FVal) : stepElem e e1 (.nan, k) ps = (.nan, 0) := by
  simp [stepElem]

/-- Settles O36: the new exponent is a running maximum that begins at the old one. -/
theorem accumulatorExponentOnlyRises : Obligations.AccumulatorExponentOnlyRises := by
  intro x prods n f
  refine ⟨le_stepExp _ _ _, fun v ps hv hp => Slot.step_elem hv hp, fun ps hv hp => ?_, fun e => rfl⟩
  rw [Slot.step_elem hv hp, stepElem_nan]

end Sys2Proof.Machine
end

section
/-! PROOFS. O51: a barrier releases all its groups when the last arrives, and none before (07 R113). -/

namespace Sys2Proof.Machine

/-- The group after the instruction that it was parked on. -/
def Group.completed (g : Group) (now : Nat) : Group :=
  { g.retire g.ilen g.ie now with st := match g.st with | .saved _ => .saved none | _ => .ready, since := now }

theorem State.complete_eq (s : State) (g : Group) : s.complete g = s.setGroup (g.completed s.now) := rfl

@[simp] theorem Group.completed_id (g : Group) (now : Nat) : (g.completed now).id = g.id :=
  (Group.retire_fields g g.ilen g.ie now).1

theorem group?_isSome_of_mem {s : State} {g : Group} (h : g ∈ s.groups) : (s.group? g.id).isSome = true :=
  List.find?_isSome.mpr ⟨g, h, by simp⟩

/-- Completing one group leaves every group that was there. -/
theorem State.group?_complete_isSome {s : State} {g : Group} {i : GroupId} (h : (s.group? i).isSome = true) :
    ((s.complete g).group? i).isSome = true := by
  rw [State.complete_eq]
  by_cases hi : i = g.id
  · subst hi
    have hmem : (s.group? (g.completed s.now).id).isSome = true := by rwa [Group.completed_id]
    have := State.group?_setGroup s (g.completed s.now) hmem
    rw [Group.completed_id] at this
    rw [this]; rfl
  · rwa [State.group?_setGroup_ne _ _ _ (by rwa [Group.completed_id])]

theorem State.completeAll_other {gs : List Group} {i : GroupId} (hi : i ∉ gs.map (·.id)) (s : State) :
    (gs.foldl (fun s g => s.complete g) s).group? i = s.group? i := by
  induction gs generalizing s with
  | nil => rfl
  | cons g gs ih =>
    obtain ⟨hg, hgs⟩ := not_or.mp (List.mem_cons.not.mp (List.map_cons ▸ hi))
    rw [List.foldl_cons, ih hgs, State.complete_eq, State.group?_setGroup_ne _ _ _ (by rwa [Group.completed_id])]

theorem State.completeAll_member {gs : List Group} (hnd : (gs.map (·.id)).Nodup) {s : State}
    (hin : ∀ g ∈ gs, (s.group? g.id).isSome = true) {g : Group} (hg : g ∈ gs) :
    (gs.foldl (fun s g => s.complete g) s).group? g.id = some (g.completed s.now) := by
  induction gs generalizing s with
  | nil => cases hg
  | cons x gs ih =>
    obtain ⟨hx, hgs⟩ := List.nodup_cons.mp (List.map_cons ▸ hnd)
    rw [List.foldl_cons]
    rcases List.mem_cons.mp hg with rfl | hg
    · have hmem : (s.group? (g.completed s.now).id).isSome = true := by
        rw [Group.completed_id]; exact hin g (by simp)
      rw [State.completeAll_other hx, State.complete_eq]
      simpa only [Group.completed_id] using State.group?_setGroup s (g.completed s.now) hmem
    · exact ih hgs (fun y hy => State.group?_complete_isSome (hin y (by simp [hy]))) hg

section
variable {s : State} {ctx : Nat} {task : W64} {n : Nat}

/-- The groups of a team that a barrier counts. -/
def State.barGroups (s : State) (ctx : Nat) (task : W64) : List Group :=
  (s.groupsOf ctx task).filter fun g => g.st ≠ .exited

theorem State.mem_barGroups {g : Group} :
    g ∈ s.barGroups ctx task ↔ g ∈ s.groups ∧ g.id.ctx = ctx ∧ g.id.task = task ∧ g.st ≠ .exited := by
  simp only [State.barGroups, State.groupsOf, List.mem_filter, Bool.and_eq_true, decide_eq_true_eq, and_assoc]

theorem State.releaseBar_last (hne : s.barGroups ctx task ≠ []) (hall : ∀ g ∈ s.barGroups ctx task, g.atBar = some n) :
    s.releaseBar ctx task n = (s.barGroups ctx task).foldl (fun s g => s.complete g) s := by
  have hcond : (!(s.barGroups ctx task).isEmpty && (s.barGroups ctx task).all fun g => g.atBar = some n) = true := by
    simpa [hne] using hall
  exact if_pos hcond

theorem State.releaseBar_early {g : Group} (hg : g ∈ s.barGroups ctx task) (hn : g.atBar ≠ some n) :
    s.releaseBar ctx task n = s := by
  have hcond : ¬ (!(s.barGroups ctx task).isEmpty && (s.barGroups ctx task).all fun g => g.atBar = some n) = true := by
    simp only [Bool.and_eq_true, List.all_eq_true, decide_eq_true_eq, not_and]
    exact fun _ h => hn (h g hg)
  exact if_neg hcond

theorem State.releaseBar_eq_or (s : State) (ctx : Nat) (task : W64) (n : Nat) :
    s.releaseBar ctx task n = (s.barGroups ctx task).foldl (fun s g => s.complete g) s ∨ s.releaseBar ctx task n = s :=
  ite_eq_or_eq _ _ _

end

/-- Settles O51: the release completes the groups that have not exited, each once. -/
theorem barriersReleaseTogether : Obligations.BarriersReleaseTogether := by
  intro s ctx task n hnd
  refine ⟨fun hall g hg hc ht hst => ?_, fun g hg hc ht hst hn => ?_, fun i hi => ?_⟩
  · have hmem : g ∈ s.barGroups ctx task := State.mem_barGroups.mpr ⟨hg, hc, ht, by simp [hst]⟩
    have hsub : ((s.barGroups ctx task).map (·.id)).Nodup :=
      hnd.sublist ((List.filter_sublist.trans List.filter_sublist).map _)
    have hthere : ∀ x ∈ s.barGroups ctx task, (s.group? x.id).isSome = true := fun x hx =>
      group?_isSome_of_mem (State.mem_barGroups.mp hx).1
    rw [State.releaseBar_last (List.ne_nil_of_mem hmem) fun x hx =>
      let ⟨hx, hxc, hxt, hxst⟩ := State.mem_barGroups.mp hx; hall x hx hxc hxt hxst]
    rw [State.completeAll_member hsub hthere hmem, Group.completed, hst]
  · exact State.releaseBar_early (State.mem_barGroups.mpr ⟨hg, hc, ht, hst⟩) hn
  · have hout : i ∉ (s.barGroups ctx task).map (·.id) := by
      rintro hmem
      obtain ⟨x, hx, rfl⟩ := List.mem_map.mp hmem
      obtain ⟨-, hxc, hxt, -⟩ := State.mem_barGroups.mp hx
      exact hi ⟨hxc, hxt⟩
    obtain h | h := State.releaseBar_eq_or s ctx task n
    · rw [h, State.completeAll_other hout]
    · rw [h]

end Sys2Proof.Machine
end

section
/-! PROOFS. O49: what each kind of destination receives, and that lanes without a result keep theirs (05 R70, R73, R81). -/

namespace Sys2Proof.Machine

/-! A p predicate is written bit by bit. -/

/-- The number whose bits are given. -/
def bitSum (b : Nat → Nat) (n : Nat) : Nat := (List.range n).foldl (fun a L => a + b L * 2 ^ L) 0

theorem bitSum_succ (b : Nat → Nat) (n : Nat) : bitSum b (n + 1) = 2 ^ n * b n + bitSum b n := by
  simp [bitSum, List.range_succ, List.foldl_append]
  ring

theorem bitSum_lt {b : Nat → Nat} (hb : ∀ L, b L < 2) (n : Nat) : bitSum b n < 2 ^ n := by
  induction n with
  | zero => simp [bitSum]
  | succ n ih =>
    have hle : 2 ^ n * b n ≤ 2 ^ n := by have := Nat.mul_le_mul_left (2 ^ n) (Nat.lt_succ_iff.mp (hb n)); omega
    rw [bitSum_succ, Nat.pow_succ]
    omega

theorem testBit_bitSum {b : Nat → Nat} (hb : ∀ L, b L < 2) {n K : Nat} (hK : K < n) :
    (bitSum b n).testBit K = decide (b K = 1) := by
  induction n with
  | zero => cases hK
  | succ n ih =>
    rw [bitSum_succ, Nat.testBit_two_pow_mul_add _ (bitSum_lt hb n)]
    rcases Nat.lt_succ_iff_lt_or_eq.mp hK with h | rfl
    · rw [if_pos h, ih h]
    · have hbK : b K = 0 ∨ b K = 1 := by have := hb K; omega
      rw [if_neg (Nat.lt_irrefl K), Nat.sub_self]
      rcases hbK with h | h <;> simp [h]

/-- The bit that a lane of a written p predicate holds. -/
def Group.bitOf (g : Group) (n : Nat) (res : Nat → Option Nat) (L : Nat) : Nat :=
  match res L with | some x => x % 2 | none => ((g.p.getD n 0).getLsbD L).toNat

theorem Group.bitOf_lt (g : Group) (n : Nat) (res : Nat → Option Nat) (L : Nat) : g.bitOf n res L < 2 := by
  unfold Group.bitOf
  split
  · exact Nat.mod_lt _ two_pos
  · exact Bool.toNat_lt _

theorem Group.putP_eq (g : Group) (n : Nat) (res : Nat → Option Nat) :
    g.putP n res = { g with p := g.p.set n (BitVec.ofNat 32 (bitSum (g.bitOf n res) 32)) } := rfl

theorem Group.putP_bit {g : Group} {n K : Nat} (res : Nat → Option Nat) (hn : n < g.p.length) (hK : K < 32) :
    ((g.putP n res).p.getD n 0).getLsbD K = decide (g.bitOf n res K = 1) := by
  have hset : (g.putP n res).p.getD n 0 = BitVec.ofNat 32 (bitSum (g.bitOf n res) 32) := by
    simp [Group.putP_eq, List.getD, hn]
  rw [hset, BitVec.getLsbD_ofNat, testBit_bitSum (g.bitOf_lt n res) hK, decide_eq_true hK, Bool.true_and]

section
variable {g : Group} {w L x : Nat} {signed : Bool} {res : Nat → Option Nat}

/-- A result of one register, extended. -/
def lowWord (w : Nat) (signed : Bool) (res : Nat → Option Nat) (L : Nat) : Option Nat :=
  (res L).map fun x => extend signed w (if w ≤ 32 then 32 else 64) x % 2 ^ 32

/-- The second register of a pair. -/
def highWord (res : Nat → Option Nat) (L : Nat) : Option Nat := (res L).map fun x => x / 2 ^ 32 % 2 ^ 32

theorem Group.write_v (n : Fin 512) : g.write (.v n) w signed res =
    if w ≤ 32 then g.putV n.val (lowWord w signed res)
    else (g.putV n.val (lowWord w signed res)).putV (n.val + 1) (highWord res) := rfl

theorem Group.write_o (n : Fin 32) : g.write (.o n) w signed res =
    if w ≤ 32 then g.putO n.val (lowWord w signed res)
    else (g.putO n.val (lowWord w signed res)).putO (n.val + 1) (highWord res) := rfl

theorem lowWord_one (hr : res L = some x) (h : w ≤ 32) : lowWord w signed res L = some (extend signed w 32 x) := by
  rw [lowWord, hr, Option.map_some, if_pos h, Nat.mod_eq_of_lt (extend_lt signed w 32 x)]

theorem lowWord_pair (hr : res L = some x) (hx : x < 2 ^ 64) : lowWord 64 signed res L = some (x % 2 ^ 32) := by
  simp [lowWord, hr, extend_self64 signed x hx]

theorem highWord_at (hr : res L = some x) : highWord res L = some (x / 2 ^ 32 % 2 ^ 32) := by simp [highWord, hr]

theorem lowWord_none (hr : res L = none) : lowWord w signed res L = none := by simp [lowWord, hr]
theorem highWord_none (hr : res L = none) : highWord res L = none := by simp [highWord, hr]

/-- The two words of a 64-bit result. -/
theorem regs_of_words {a b : Nat} (ha : a = x % 2 ^ 32 % 2 ^ 32) (hb : b = x / 2 ^ 32 % 2 ^ 32 % 2 ^ 32) (hx : x < 2 ^ 64) :
    a + 2 ^ 32 * (b + 2 ^ 32 * 0) = x := by omega

/-! Main-file registers. -/

theorem Group.putV_keeps {n m K : Nat} (hK : K < 32) (hn : n < g.v.length) (hr : res K = none) :
    (g.putV n res).vAt m K = g.vAt m K := by
  by_cases hm : m = n
  · rw [hm, Group.putV_kept g n K res hK hn hr]
  · rw [Group.putV_apart g n m K res hm]

theorem Group.write_v_keeps {n : Fin 512} {m K : Nat} (h0 : 0 < w) (hK : K < 32) (hr : res K = none)
    (hn : n.val + (w + 31) / 32 ≤ g.v.length) : (g.write (.v n) w signed res).vAt m K = g.vAt m K := by
  rw [Group.write_v]
  split
  next h =>
    rw [Group.putV_keeps hK (by omega) (lowWord_none hr)]
  next h =>
    rw [Group.putV_keeps hK (by rw [Group.putV_length]; omega) (highWord_none hr),
      Group.putV_keeps hK (by omega) (lowWord_none hr)]

theorem Group.write_v_one {n : Fin 512} (hL : L < 32) (hr : res L = some x) (h : w ≤ 32) (hn : n.val < g.v.length) :
    (g.write (.v n) w signed res).vAt n.val L = extend signed w 32 x := by
  rw [Group.write_v, if_pos h, Group.putV_at g _ L _ _ hL hn (lowWord_one hr h), Nat.mod_eq_of_lt (extend_lt signed w 32 x)]

theorem Group.write_v_pair {n : Fin 512} (hL : L < 32) (hr : res L = some x) (hx : x < 2 ^ 64)
    (hn : n.val + 1 < g.v.length) : regsAt (fun m => (g.write (.v n) 64 signed res).vAt m L) n.val 2 = x := by
  rw [Group.write_v, if_neg (by decide)]
  have hlow := Group.putV_at g n.val L _ _ hL (by omega) (lowWord_pair (signed := signed) hr hx)
  have hhigh := Group.putV_at (g.putV n.val (lowWord 64 signed res)) (n.val + 1) L _ _ hL
    (by rw [Group.putV_length]; exact hn) (highWord_at hr)
  exact regs_of_words ((Group.putV_apart _ _ _ _ _ (by omega)).trans hlow) hhigh hx

/-! Operand-file registers. -/

theorem Group.putO_keeps {n m K : Nat} (hK : K < 32) (hn : n < g.o.length) (hr : res K = none) :
    (g.putO n res).oAt m K = g.oAt m K := by
  by_cases hm : m = n
  · rw [hm, Group.putO_kept g n K res hK hn hr]
  · rw [Group.putO_apart g n m K res hm]

theorem Group.write_o_keeps {n : Fin 32} {m K : Nat} (h0 : 0 < w) (hK : K < 32) (hr : res K = none)
    (hn : n.val + (w + 31) / 32 ≤ g.o.length) : (g.write (.o n) w signed res).oAt m K = g.oAt m K := by
  rw [Group.write_o]
  split
  next h =>
    rw [Group.putO_keeps hK (by omega) (lowWord_none hr)]
  next h =>
    rw [Group.putO_keeps hK (by rw [Group.putO_length]; omega) (highWord_none hr),
      Group.putO_keeps hK (by omega) (lowWord_none hr)]

theorem Group.write_o_one {n : Fin 32} (hL : L < 32) (hr : res L = some x) (h : w ≤ 32) (hn : n.val < g.o.length) :
    (g.write (.o n) w signed res).oAt n.val L = extend signed w 32 x := by
  rw [Group.write_o, if_pos h, Group.putO_at g _ L _ _ hL hn (lowWord_one hr h), Nat.mod_eq_of_lt (extend_lt signed w 32 x)]

theorem Group.write_o_pair {n : Fin 32} (hL : L < 32) (hr : res L = some x) (hx : x < 2 ^ 64)
    (hn : n.val + 1 < g.o.length) : regsAt (fun m => (g.write (.o n) 64 signed res).oAt m L) n.val 2 = x := by
  rw [Group.write_o, if_neg (by decide)]
  have hlow := Group.putO_at g n.val L _ _ hL (by omega) (lowWord_pair (signed := signed) hr hx)
  have hhigh := Group.putO_at (g.putO n.val (lowWord 64 signed res)) (n.val + 1) L _ _ hL
    (by rw [Group.putO_length]; exact hn) (highWord_at hr)
  exact regs_of_words ((Group.putO_apart _ _ _ _ _ (by omega)).trans hlow) hhigh hx

theorem Group.oAt_unwritten {m : Nat} (h : g.o.getD m none = none) (K : Nat) : g.oAt m K = 0 := by
  rw [Group.oAt, h]

/-! g registers and predicates. -/

theorem Group.write_g {n : Fin 128} (h : lastRes res = some x) :
    g.write (.g n) w signed res = g.putG n.val (BitVec.ofNat 64 (extend signed w 64 x)) := by
  simp only [Group.write, h]

theorem Group.write_q {n : Fin 7} (h : lastRes res = some x) :
    g.write (.q n) w signed res = g.putQ n.val (x % 2 = 1) := by
  simp only [Group.write, h]

theorem Group.putQ_at {n : Nat} {b : Bool} (hn : n < g.q.length) : (g.putQ n b).q.getD n false = b := by
  simp [Group.putQ, List.getD, hn]

theorem Group.putP_at {n : Nat} (hL : L < 32) (hr : res L = some x) (hn : n < g.p.length) :
    ((g.putP n res).p.getD n 0).getLsbD L = decide (x % 2 = 1) := by
  rw [Group.putP_bit res hn hL, Group.bitOf, hr]

theorem Group.putP_kept {n K : Nat} (hK : K < 32) (hr : res K = none) (hn : n < g.p.length) :
    ((g.putP n res).p.getD n 0).getLsbD K = (g.p.getD n 0).getLsbD K := by
  rw [Group.putP_bit res hn hK, Group.bitOf, hr]
  cases (g.p.getD n 0).getLsbD K <;> rfl

end

/-- Settles O49: the rule of each kind of destination. -/
theorem destinationsReceiveTheirResults : Obligations.DestinationsReceiveTheirResults := by
  intro g w L x signed res hL hr h0 h64 hx
  refine ⟨fun n m K hK hn hlen => Group.write_v_keeps h0 hK hn hlen,
    fun n m K hK hn hlen => ⟨Group.write_o_keeps h0 hK hn hlen, fun ho => Group.oAt_unwritten ho K⟩,
    fun n hw hn => Group.write_v_one hL hr hw hn, fun n hw hn => ?vpair, fun n hw hn => Group.write_o_one hL hr hw hn,
    fun n hw hn => ?opair, fun n hn hone => ?greg, fun n hn => ⟨Group.putP_at hL hr hn, fun K hK hnone => Group.putP_kept hK hnone hn⟩,
    fun n hn hone => ?qpred, Group.write_nothing g w signed res⟩
  case vpair => subst hw; exact Group.write_v_pair hL hr hx hn
  case opair => subst hw; exact Group.write_o_pair hL hr hx hn
  case greg => rw [Group.write_g (lastRes_only res L x hL hr hone), Group.putG_at _ _ _ hn]
  case qpred => rw [Group.write_q (lastRes_only res L x hL hr hone), Group.putQ_at hn]

end Sys2Proof.Machine
end

section
/-! PROOFS. O53: the checks at issue come before the effect of every instruction, and what they answer (05 R72 to R79, R94). -/

namespace Sys2Proof.Machine

/-! The frame of issue stops at the checks. -/

section
variable {s : State} {g : Group} {i : Instr} {sh : Shape}

theorem State.issue_checked {k : Group → Hdr → Out} (hs : i.shape = some sh) (hq : sh.h.g = true → guardQ g sh.h = true)
    (hc : s.cur = some g.id) (hg : s.group? g.id = some g) :
    s.issue i k = match s.ready g sh with
      | .hold => .next s
      | .trap c => .next (s.trap g sh.h { cause := c })
      | .go => k g sh.h := by
  have hguard : ¬ (sh.h.g && !guardQ g sh.h) = true := by
    cases hb : sh.h.g <;> simp [hq, hb]
  simp only [State.issue, State.withGroup, hc, hg, hs, if_neg hguard] <;> rfl

theorem exec_checked (hs : i.shape = some sh) (hq : sh.h.g = true → guardQ g sh.h = true) (hc : s.cur = some g.id)
    (hg : s.group? g.id = some g) :
    (∀ c, s.ready g sh = .trap c → exec i s = s.traps g sh.h { cause := c }) ∧
      (s.ready g sh = .hold → exec i s = .next s) := by
  obtain ⟨k, hk⟩ := exec_issues i s (by simp [hs])
  rw [hk, State.issue_checked hs hq hc hg]
  exact ⟨fun c h => by rw [h]; rfl, fun h => by rw [h]⟩

end

/-! The instructions that raise no UNCORR. -/

/-- PREF, CMAINT, ERSV and EREL (11 R212, R213, R220). -/
def isCalm : Instr → Bool
  | .pref .. | .cmaintInv .. | .ersv .. | .erel .. => true
  | _ => false

theorem shape_calm {i : Instr} {sh : Shape} (hs : i.shape = some sh) : sh.calm = isCalm i := by
  have h : i.shape.all (fun sh => sh.calm == isCalm i) = true := by
    cases i
    all_goals rfl
  rw [hs] at h
  exact eq_of_beq h

theorem isCalm_iff (i : Instr) : isCalm i = true ↔ (∃ h llc a b, i = .pref h llc a b) ∨ (∃ h a b, i = .cmaintInv h a b) ∨
    (∃ h d a b, i = .ersv h d a b) ∨ ∃ h a, i = .erel h a := by
  cases i <;> simp [isCalm]

/-! What each check of a field says. -/

section
variable {g : Group} {f : Fld}

/-- A main-file register of the run is empty. -/
def Group.emptyRun (g : Group) (m n : Nat) : Prop := ∃ j < n, g.full.getD (m + j) true = false

theorem emptyV_iff (m n : Nat) : emptyV g m n = true ↔ g.emptyRun m n := by
  simp [emptyV, Group.emptyRun]

theorem Fld.outside_iff (W : Nat) : f.outside W = true ↔ ∃ (m : Fin 512) (ok : Bool) (n : Nat),
    (f = .src (.v m) ok n ∨ f = .dst (.v m) ok n) ∧ W < m.val + n := by
  unfold Fld.outside Fld.vRange
  split
  next m n h =>
    split at h
    next k ok l => cases h; simp
    next k ok l => cases h; simp
    next => cases h
  next h =>
    split at h
    next => cases h
    next => cases h
    next hsrc hdst =>
      refine ⟨fun hf => absurd hf (by decide), ?_⟩
      rintro ⟨m, ok, n, rfl | rfl, -⟩
      · exact (hsrc m ok n rfl).elim
      · exact (hdst m ok n rfl).elim

theorem Fld.legEmpty_iff : f.legEmpty g = true ↔
    (∃ (m : Fin 32) (ok : Bool) (n : Nat), f = .src (.o m) ok n ∧ ∃ j < n, g.o.getD (m.val + j) none = none) ∨
      (∃ (m : Fin 4) (ok : Bool) (n : Nat), f = .src (.l m) ok n ∧ g.l.getD m.val none = none) := by
  unfold Fld.legEmpty
  split
  next m ok n => simp
  next m ok n => simp
  next ho hl =>
    refine ⟨fun hf => absurd hf (by decide), ?_⟩
    rintro (⟨m, ok, n, rfl, -⟩ | ⟨m, ok, n, rfl, -⟩)
    · exact (ho m ok n rfl).elim
    · exact (hl m ok n rfl).elim

theorem Fld.srcEmpty_iff : f.srcEmpty g = true ↔
    ∃ (m : Fin 512) (ok : Bool) (n : Nat), f = .src (.v m) ok n ∧ g.emptyRun m.val n := by
  unfold Fld.srcEmpty
  split
  next m ok n => rw [emptyV_iff]; simp
  next hv =>
    refine ⟨fun hf => absurd hf (by decide), ?_⟩
    rintro ⟨m, ok, n, rfl, -⟩
    exact (hv m ok n rfl).elim

theorem Fld.dstEmpty_iff : f.dstEmpty g = true ↔
    ∃ (m : Fin 512) (ok : Bool) (n : Nat), f = .dst (.v m) ok n ∧ g.emptyRun m.val n := by
  unfold Fld.dstEmpty
  split
  next m ok n => rw [emptyV_iff]; simp
  next hv =>
    refine ⟨fun hf => absurd hf (by decide), ?_⟩
    rintro ⟨m, ok, n, rfl, -⟩
    exact (hv m ok n rfl).elim

end

/-! What the checks answer, in their order. -/

section
variable {s : State} {g : Group} {sh : Shape}

/-- The fields of an instruction. -/
def Shape.fields (sh : Shape) : List Fld := [sh.d, sh.s1, sh.s2, sh.s3]

/-- What an empty main-file source answers under its FE. -/
def answerFe (fe : Bool) : Ready := if fe then .trap .empty else .hold

/-- The full bits of the sources, and of the data that D names. -/
def Group.sourcesFull (g : Group) (sh : Shape) : Ready :=
  srcReady g [(sh.s1, sh.h.fe1), (sh.s2, sh.h.fe2), (sh.s3, sh.h.fe3), (sh.d, false)]

theorem State.ready_of_filled {r : Ready} (h : g.filled sh = r) (hr : r ≠ .go) : s.ready g sh = r := by
  unfold State.ready
  rw [h]
  cases r with
  | go => exact absurd rfl hr
  | hold => rfl
  | trap c => rfl

theorem Group.filled_window (h : (Shape.fields sh).any (Fld.outside g.v.length) = true) : g.filled sh = .trap .window :=
  if_pos h

theorem Group.filled_leg (h : (Shape.fields sh).any (Fld.outside g.v.length) = false)
    (hl : (Shape.fields sh).any (Fld.legEmpty g) = true) : g.filled sh = .trap .legempty :=
  (if_neg (Bool.eq_false_iff.mp h)).trans (if_pos hl)

/-- Past the window and the leg, the full bits decide. -/
theorem Group.filled_full (h : (Shape.fields sh).any (Fld.outside g.v.length) = false)
    (hl : (Shape.fields sh).any (Fld.legEmpty g) = false) :
    g.filled sh = match g.sourcesFull sh with
      | .go => if sh.d.dstEmpty g then .hold else .go
      | r => r :=
  (if_neg (Bool.eq_false_iff.mp h)).trans (if_neg (Bool.eq_false_iff.mp hl))

theorem srcReady_empty {f : Fld} {fe : Bool} {t : List (Fld × Bool)} (h : f.srcEmpty g = true) :
    srcReady g ((f, fe) :: t) = answerFe fe := if_pos h

theorem srcReady_full {f : Fld} {fe : Bool} {t : List (Fld × Bool)} (h : f.srcEmpty g = false) :
    srcReady g ((f, fe) :: t) = srcReady g t := if_neg (by simpa using h)

/-- The instruction awaits a g register that a load has still to write. -/
def State.gWaits (s : State) (g : Group) (sh : Shape) : Bool :=
  (Shape.fields sh).any fun f => f.gRegs.any fun n => s.gPending g.id n

/-- A lane that executes consumes an uncorrectable source. -/
def Group.consumesBad (g : Group) (sh : Shape) : Bool :=
  !sh.calm && !(lanesOf g sh.h).isEmpty && sh.reads.any (Fld.bad g)

theorem State.ready_filled (h : g.filled sh = .go) :
    s.ready g sh = if s.gWaits g sh then .hold else if g.consumesBad sh then .trap .uncorr else .go := by
  unfold State.ready
  rw [h]
  rfl

theorem State.gWaits_iff : s.gWaits g sh = true ↔
    ∃ f ∈ Shape.fields sh, ∃ r ∈ f.gRegs, ∃ l ∈ s.loads, l.gid = g.id ∧ l.dst = .g r := by
  simp [State.gWaits, State.gPending]

theorem Group.consumesBad_iff : g.consumesBad sh = true ↔
    sh.calm = false ∧ lanesOf g sh.h ≠ [] ∧ ∃ f ∈ sh.reads, f.bad g = true := by
  simp [Group.consumesBad, and_assoc]

theorem Group.filled_source {fe : Bool} (h : (Shape.fields sh).any (Fld.outside g.v.length) = false)
    (hl : (Shape.fields sh).any (Fld.legEmpty g) = false) (hsrc : g.sourcesFull sh = answerFe fe) :
    g.filled sh = answerFe fe := by
  rw [Group.filled_full h hl, hsrc]
  cases fe <;> rfl

theorem answerFe_ne_go (fe : Bool) : answerFe fe ≠ .go := by cases fe <;> decide

end

/-- Settles O53: the frame of issue stops at the checks, and the checks are taken in their order. -/
theorem checksComeFirst : Obligations.ChecksComeFirst := by
  intro i s g sh hs hq hc hg
  obtain ⟨htrap, hhold⟩ := exec_checked hs hq hc hg
  refine ⟨htrap, hhold, ?_⟩
  intro fs empty outside legEmpty srcE dstE pending bad
  have houtside : (Shape.fields sh).any (Fld.outside g.v.length) = true ↔ outside := by
    rw [List.any_eq_true]
    exact exists_congr fun f => and_congr_right fun _ => Fld.outside_iff _
  have hleg : (Shape.fields sh).any (Fld.legEmpty g) = true ↔ legEmpty := by
    rw [List.any_eq_true]
    exact exists_congr fun f => and_congr_right fun _ => Fld.legEmpty_iff
  have hsrc (f : Fld) : f.srcEmpty g = true ↔ srcE f := Fld.srcEmpty_iff
  have hdst : sh.d.dstEmpty g = true ↔ dstE := Fld.dstEmpty_iff
  have hpend : s.gWaits g sh = true ↔ pending := State.gWaits_iff
  have hbad : g.consumesBad sh = true ↔ bad := Group.consumesBad_iff
  rw [← houtside, ← hleg, ← hdst, ← hpend, ← hbad, shape_calm hs, isCalm_iff]
  simp only [← hsrc, Bool.not_eq_true]
  refine ⟨trivial, fun hw => State.ready_of_filled (Group.filled_window hw) (by decide),
    fun hw hl => State.ready_of_filled (Group.filled_leg hw hl) (by decide), fun hw hl => ?_⟩
  have hsource {fe : Bool} (h : g.sourcesFull sh = answerFe fe) : s.ready g sh = answerFe fe :=
    State.ready_of_filled (Group.filled_source hw hl h) (answerFe_ne_go fe)
  refine ⟨fun h1 => hsource (srcReady_empty h1), fun h1 h2 => hsource ((srcReady_full h1).trans (srcReady_empty h2)),
    fun h1 h2 h3 => hsource ((srcReady_full h1).trans ((srcReady_full h2).trans (srcReady_empty h3))), fun h1 h2 h3 => ?_⟩
  have hlast : g.sourcesFull sh = srcReady g [(sh.d, false)] :=
    (srcReady_full h1).trans ((srcReady_full h2).trans (srcReady_full h3))
  refine ⟨fun h => ?_, fun hd hdd => ?_⟩
  · by_cases hd : sh.d.srcEmpty g = true
    · exact hsource (fe := false) (hlast.trans (srcReady_empty hd))
    · have hfilled : g.filled sh = .hold := by
        rw [Group.filled_full hw hl, hlast, srcReady_full (by simpa using hd)]
        exact if_pos (h.resolve_left hd)
      exact State.ready_of_filled hfilled (by decide)
  · have hfilled : g.filled sh = .go := by
      rw [Group.filled_full hw hl, hlast, srcReady_full hd]
      exact if_neg (by simpa using hdd)
    rw [State.ready_filled hfilled]
    exact ⟨fun hp => if_pos hp, fun hp hb => by rw [hp, hb]; rfl, fun hp hb => by rw [hp, hb]; rfl⟩

end Sys2Proof.Machine
end

section
/-! PROOFS. O47: the frame of the instructions that only compute (07 R106; 00 R6; 05 R70, R74, R75). -/

namespace Sys2Proof.Machine

/-- What computing a result of w bits for a destination may change: the registers that the destination names, the leg-local files
and their uncorrectable marks. -/
structure Group.Computed (d : Opd) (w : Nat) (g g1 : Group) : Prop where
  rest : g1 = { g with v := g1.v, g := g1.g, p := g1.p, q := g1.q, o := g1.o, l := g1.l, bad := g1.bad }
  main : ∀ k, (∀ n, d = .v n → k < n.val ∨ n.val + (w + 31) / 32 ≤ k) → g1.v[k]? = g.v[k]?
  gs : ∀ k, (∀ n, d = .g n → k ≠ n.val) → g1.g[k]? = g.g[k]?
  ps : ∀ k, (∀ n, d = .p n → k ≠ n.val) → g1.p[k]? = g.p[k]?
  qs : ∀ k, (∀ n, d = .q n → k ≠ n.val) → g1.q[k]? = g.q[k]?

section
variable {d : Opd} {w : Nat}

theorem Group.Computed.refl (g : Group) : g.Computed d w g :=
  ⟨rfl, fun _ _ => rfl, fun _ _ => rfl, fun _ _ => rfl, fun _ _ => rfl⟩

theorem Group.Computed.trans {g g1 g2 : Group} (h1 : g.Computed d w g1) (h2 : g1.Computed d w g2) : g.Computed d w g2 where
  rest := h2.rest.trans (congrArg (fun x : Group =>
    { x with v := g2.v, g := g2.g, p := g2.p, q := g2.q, o := g2.o, l := g2.l, bad := g2.bad }) h1.rest)
  main k hk := (h2.main k hk).trans (h1.main k hk)
  gs k hk := (h2.gs k hk).trans (h1.gs k hk)
  ps k hk := (h2.ps k hk).trans (h1.ps k hk)
  qs k hk := (h2.qs k hk).trans (h1.qs k hk)

/-! Each kind of register. -/

theorem Group.putV_computed (g : Group) {n : Fin 512} {m : Nat} (res : Nat → Option Nat) (hlo : n.val ≤ m)
    (hhi : m < n.val + (w + 31) / 32) : g.Computed (.v n) w (g.putV m res) where
  rest := rfl
  main k hk := List.getElem?_set_ne (by have := hk n rfl; omega)
  gs _ _ := rfl
  ps _ _ := rfl
  qs _ _ := rfl

theorem Group.putO_computed (g : Group) (m : Nat) (res : Nat → Option Nat) : g.Computed d w (g.putO m res) := by
  unfold Group.putO
  split
  · exact .refl g
  · exact ⟨rfl, fun _ _ => rfl, fun _ _ => rfl, fun _ _ => rfl, fun _ _ => rfl⟩

theorem Group.putG_computed (g : Group) (n : Fin 128) (x : W64) : g.Computed (.g n) w (g.putG n.val x) where
  rest := rfl
  main _ _ := rfl
  gs _ hk := List.getElem?_set_ne (hk n rfl).symm
  ps _ _ := rfl
  qs _ _ := rfl

theorem Group.putP_computed (g : Group) (n : Fin 7) (res : Nat → Option Nat) : g.Computed (.p n) w (g.putP n.val res) where
  rest := rfl
  main _ _ := rfl
  gs _ _ := rfl
  ps _ hk := List.getElem?_set_ne (hk n rfl).symm
  qs _ _ := rfl

theorem Group.putQ_computed (g : Group) (n : Fin 7) (b : Bool) : g.Computed (.q n) w (g.putQ n.val b) where
  rest := rfl
  main _ _ := rfl
  gs _ _ := rfl
  ps _ _ := rfl
  qs _ hk := List.getElem?_set_ne (hk n rfl).symm

/-! Destinations, and the push into the last-result file. -/

theorem Group.write_computed (g : Group) (d : Opd) (hw : 0 < w) (signed : Bool) (res : Nat → Option Nat) :
    g.Computed d w (g.write d w signed res) := by
  cases d with
  | v n =>
    rw [Group.write_v]
    split
    next h => exact g.putV_computed _ (le_refl _) (by omega)
    next h => exact (g.putV_computed _ (le_refl _) (by omega)).trans (Group.putV_computed _ _ (by omega) (by omega))
  | o n =>
    rw [Group.write_o]
    split
    next => exact g.putO_computed _ _
    next => exact (g.putO_computed _ _).trans (Group.putO_computed _ _ _)
  | g n =>
    unfold Group.write
    cases lastRes res with
    | some x => exact g.putG_computed n _
    | none => exact .refl g
  | p n => exact g.putP_computed n _
  | q n =>
    unfold Group.write
    cases lastRes res with
    | some x => exact g.putQ_computed n _
    | none => exact .refl g
  | zero => exact .refl g
  | lit => exact .refl g
  | k n => exact .refl g
  | kn n => exact .refl g
  | l n => exact .refl g

theorem Group.push_computed (g : Group) (d' : Opd) (w' : Nat) (signed : Bool) (res : Nat → Option Nat) :
    g.Computed d w (g.push d' w' signed res) :=
  ⟨rfl, fun _ _ => rfl, fun _ _ => rfl, fun _ _ => rfl, fun _ _ => rfl⟩

theorem Group.result_computed (g : Group) (h : Hdr) (d : Opd) (hw : 0 < w) (signed : Bool) (res : Nat → Option Nat) :
    g.Computed d w (g.result h d w signed res) := by
  unfold Group.result
  dsimp only
  split
  · exact (g.write_computed d hw signed res).trans (Group.push_computed _ _ _ _ _)
  · exact g.write_computed d hw signed res

end

/-- Retiring changes the place in the code and in the leg, and counts the instruction. -/
theorem Group.retire_rest (g : Group) (len : Nat) (e : Bool) (now : Nat) :
    g.retire len e now =
      { g with
        ric := g.ric + 1, reissue := (g.retire len e now).reissue, pc := (g.retire len e now).pc
        block := (g.retire len e now).block, legPos := (g.retire len e now).legPos, st := (g.retire len e now).st
        since := (g.retire len e now).since, o := (g.retire len e now).o, l := (g.retire len e now).l
        bad := (g.retire len e now).bad } := by
  unfold Group.retire
  split
  · rfl
  · dsimp only
    split <;> split <;> rfl

/-! The instructions. -/

/-- The instruction computes a result of w bits for d and retires. -/
def Computing (i : Instr) (s : State) (d : Opd) (w : Nat) : Prop :=
  ∃ f : Group → Hdr → Group, exec i s = s.compute i f ∧ ∀ (g : Group) (h : Hdr), g.Computed d w (f g h)

theorem State.perLane_computing {s : State} {i : Instr} {d : Opd} {w : Nat} (hw : 0 < w) {signed : Bool}
    {f : Group → Hdr → Nat → Nat} (he : exec i s = s.perLane i d w signed f) : Computing i s d w :=
  ⟨fun g h => g.result h d w signed (forLanes (lanesOf g h) (f g h)), he, fun g h => g.result_computed h d hw signed _⟩

theorem sregBits_pos (r : SReg) : 0 < sregBits r := by unfold sregBits; split <;> decide

/-- A vote's result goes to g and q once, and to each lane elsewhere (07 R134). -/
theorem vote_computed (g : Group) (h : Hdr) (d : Opd) (b : Bool) (x : W64) (res : Nat → Option Nat) :
    g.Computed d 32 (match d with
      | .g n => g.putG n.val x
      | .q n => g.putQ n.val b
      | _ => g.result h d 32 false res) := by
  split
  next n => exact g.putG_computed n x
  next n => exact g.putQ_computed n b
  next => exact g.result_computed h d (by decide) false res

theorem pmov_computed (g : Group) (h : Hdr) (d a : Opd) :
    g.Computed d 1 (match d, a with
      | .g n, .p m => if (lanesOf g h).isEmpty then g else g.putG n.val ((g.p.getD m.val 0).setWidth 64)
      | _, .g n => g.write d 1 false (forLanes (lanesOf g h) fun L => ((g.gAt n.val).getLsbD L).toNat)
      | _, _ => g.write d 1 false (forLanes (lanesOf g h) fun L => rdN g h 1 a L)) := by
  split
  next n m =>
    split
    · exact .refl g
    · exact g.putG_computed n _
  next => exact g.write_computed d (by decide) false _
  next => exact g.write_computed d (by decide) false _

theorem computes_computing {i : Instr} {d : Opd} {w : Nat} (hc : i.computes = some (d, w)) (s : State) :
    Computing i s d w := by
  cases i
  case iadd => cases hc; exact State.perLane_computing (bits_pos _) (by rw [exec_iadd, execIadd, State.intOp])
  case isub => cases hc; exact State.perLane_computing (bits_pos _) (by rw [exec_isub, execIsub, State.intOp])
  case imad => cases hc; exact State.perLane_computing (bits_pos _) (by rw [exec_imad, execImad, State.intOp])
  case idiv => cases hc; exact State.perLane_computing (bits_pos _) (by rw [exec_idiv, execIdiv, State.intOp])
  case imin => cases hc; exact State.perLane_computing (bits_pos _) (by rw [exec_imin, execImin, State.intOp])
  case imax => cases hc; exact State.perLane_computing (bits_pos _) (by rw [exec_imax, execImax, State.intOp])
  case iabs => cases hc; exact State.perLane_computing (bits_pos _) (by rw [exec_iabs, execIabs, State.intOp])
  case ineg => cases hc; exact State.perLane_computing (bits_pos _) (by rw [exec_ineg, execIneg, State.intOp])
  case and => cases hc; exact State.perLane_computing (bits_pos _) (by rw [exec_and, execAnd, State.bitOp])
  case or => cases hc; exact State.perLane_computing (bits_pos _) (by rw [exec_or, execOr, State.bitOp])
  case xor => cases hc; exact State.perLane_computing (bits_pos _) (by rw [exec_xor, execXor, State.bitOp])
  case andn => cases hc; exact State.perLane_computing (bits_pos _) (by rw [exec_andn, execAndn, State.bitOp])
  case orn => cases hc; exact State.perLane_computing (bits_pos _) (by rw [exec_orn, execOrn, State.bitOp])
  case not => cases hc; exact State.perLane_computing (bits_pos _) (by rw [exec_not, execNot, State.bitOp])
  case shl => cases hc; exact State.perLane_computing (bits_pos _) (by rw [exec_shl, execShl, State.bitOp])
  case shr => cases hc; exact State.perLane_computing (bits_pos _) (by rw [exec_shr, execShr, State.bitOp])
  case sar => cases hc; exact State.perLane_computing (bits_pos _) (by rw [exec_sar, execSar, State.bitOp])
  case rol => cases hc; exact State.perLane_computing (bits_pos _) (by rw [exec_rol, execRol, State.bitOp])
  case popc => cases hc; exact State.perLane_computing (bits_pos _) (by rw [exec_popc, execPopc])
  case clz => cases hc; exact State.perLane_computing (bits_pos _) (by rw [exec_clz, execClz])
  case ctz => cases hc; exact State.perLane_computing (bits_pos _) (by rw [exec_ctz, execCtz])
  case brev => cases hc; exact State.perLane_computing (bits_pos _) (by rw [exec_brev, execBrev, State.bitOp])
  case bfx => cases hc; exact State.perLane_computing (bits_pos _) (by rw [exec_bfx, execBfx, State.bitOp])
  case bfi => cases hc; exact State.perLane_computing (bits_pos _) (by rw [exec_bfi, execBfi, State.bitOp])
  case sel => cases hc; exact State.perLane_computing (bits_pos _) (by rw [exec_sel, execSel, State.bitOp])
  case mov => cases hc; exact State.perLane_computing (bits_pos _) (by rw [exec_mov, execMov, State.bitOp])
  case movl => cases hc; exact State.perLane_computing (bits_pos _) (by rw [exec_movl, execMovl, State.intOp])
  case cvt => cases hc; exact State.perLane_computing (bits_pos _) (by rw [exec_cvt, execCvt, State.intOp])
  case unpk => cases hc; exact State.perLane_computing (bits_pos _) (by rw [exec_unpk, execUnpk])
  case shfl => cases hc; exact State.perLane_computing (bits_pos _) (by rw [exec_shfl, execShfl])
  case lscan => cases hc; exact State.perLane_computing (bits_pos _) (by rw [exec_lscan, execLscan])
  case lred => cases hc; exact State.perLane_computing (bits_pos _) (by rw [exec_lred, execLred])
  case lanexGet => cases hc; exact State.perLane_computing (bits_pos _) (by rw [exec_lanexGet, execLanexGet])
  case lanexPut => cases hc; exact ⟨_, exec_lanexPut .., fun g h => g.result_computed h _ (bits_pos _) _ _⟩
  case fadd => cases hc; exact State.perLane_computing (bits_pos _) (by rw [exec_fadd, execFadd, State.fltOp])
  case fsub => cases hc; exact State.perLane_computing (bits_pos _) (by rw [exec_fsub, execFsub, State.fltOp])
  case fmul => cases hc; exact State.perLane_computing (bits_pos _) (by rw [exec_fmul, execFmul, State.fltOp])
  case ffma => cases hc; exact State.perLane_computing (bits_pos _) (by rw [exec_ffma, execFfma, State.fltOp])
  case fmin => cases hc; exact State.perLane_computing (bits_pos _) (by rw [exec_fmin, execFmin, State.fltOp])
  case fmax => cases hc; exact State.perLane_computing (bits_pos _) (by rw [exec_fmax, execFmax, State.fltOp])
  case frnd => cases hc; exact State.perLane_computing (bits_pos _) (by rw [exec_frnd, execFrnd, State.fltOp])
  case icmp => cases hc; exact State.perLane_computing (bits_pos _) (by rw [exec_icmp, execIcmp])
  case fcvt => cases hc; exact State.perLane_computing (bits_pos _) (by rw [exec_fcvt, execFcvt])
  case fabs => cases hc; exact State.perLane_computing (bits_pos _) (by rw [exec_fabs, execFabs, State.fltOp])
  case fneg => cases hc; exact State.perLane_computing (bits_pos _) (by rw [exec_fneg, execFneg, State.fltOp])
  case fcopysign => cases hc; exact State.perLane_computing (bits_pos _) (by rw [exec_fcopysign, execFcopysign, State.fltOp])
  case imul h fn ty d a b =>
    cases fn
    case lo => cases hc; exact State.perLane_computing (bits_pos _) (by rw [exec_imul, execImul, State.intOp])
    case hi => cases hc; exact State.perLane_computing (bits_pos _) (by rw [exec_imul, execImul, State.intOp])
    case wide => cases hc; exact State.perLane_computing (Nat.mul_pos two_pos (bits_pos _)) (by rw [exec_imul, execImul])
  case pack => cases hc; exact State.perLane_computing (by decide) (by rw [exec_pack, execPack])
  case idot4 => cases hc; exact State.perLane_computing (by decide) (by rw [exec_idot4, execIdot4])
  case vote => cases hc; exact ⟨_, exec_vote .., fun g h => vote_computed g h ..⟩
  case permb => cases hc; exact State.perLane_computing (by decide) (by rw [exec_permb, execPermb])
  case fcmp => cases hc; exact State.perLane_computing (by decide) (by rw [exec_fcmp, execFcmp])
  case fclass => cases hc; exact State.perLane_computing (by decide) (by rw [exec_fclass, execFclass])
  case hfma2 => cases hc; exact State.perLane_computing (by decide) (by rw [exec_hfma2, execHfma2])
  case fdot4 => cases hc; exact State.perLane_computing (by decide) (by rw [exec_fdot4, execFdot4])
  case cmpsVal => cases hc; exact State.perLane_computing (by decide) (by rw [exec_cmpsVal, execCmpsVal])
  case cmpsMeta => cases hc; exact State.perLane_computing (by decide) (by rw [exec_cmpsMeta, execCmpsMeta])
  case cbdec => cases hc; exact State.perLane_computing (by decide) (by rw [exec_cbdec, execCbdec])
  case lea => cases hc; exact State.perLane_computing (by decide) (by rw [exec_lea, execLea])
  case movsRead => cases hc; exact State.perLane_computing (sregBits_pos _) (by rw [exec_movsRead, execMovsRead])
  case pand => cases hc; exact State.perLane_computing (by decide) (by rw [exec_pand, execPand, State.predOp])
  case por => cases hc; exact State.perLane_computing (by decide) (by rw [exec_por, execPor, State.predOp])
  case pxor => cases hc; exact State.perLane_computing (by decide) (by rw [exec_pxor, execPxor, State.predOp])
  case pnot => cases hc; exact State.perLane_computing (by decide) (by rw [exec_pnot, execPnot, State.predOp])
  case pmov => cases hc; exact ⟨_, exec_pmov .., fun g h => pmov_computed g h ..⟩
  all_goals cases hc

theorem State.shape_of_issues {s : State} {i : Instr} {g : Group} (hi : s.issues i g = true) :
    ∃ sh, i.shape = some sh := by
  cases hs : i.shape with
  | none => simp [State.issues, hs] at hi
  | some sh => exact ⟨sh, rfl⟩

/-- Settles O47: the instruction computes its result, and retires. -/
theorem computingChangesOnlyItsDestination : Obligations.ComputingChangesOnlyItsDestination := by
  intro i s t g d w hc hi ht
  obtain ⟨f, he, hf⟩ := computes_computing hc s
  obtain ⟨sh, hs⟩ := State.shape_of_issues hi
  rw [he, State.compute_go (h := sh.h) hi (by rw [hs]; rfl)] at ht
  obtain ⟨hrest, hmain, hgs, hps, hqs⟩ := hf g sh.h
  have hret := Group.retire_rest (f g sh.h) sh.h.len sh.h.e s.now
  refine ⟨(f g sh.h).retire sh.h.len sh.h.e s.now, (Host.Outcome.next.inj ht).symm, ?_⟩
  rw [hret]
  dsimp only
  refine ⟨?_, ?_, ?_, ?_, hmain, hgs, hps, hqs, ?_, ?_, ?_, ?_, ?_, ?_, ?_, ?_, ?_, ?_, ?_, ?_, ?_, ?_⟩
  all_goals rw [hrest]

end Sys2Proof.Machine
end

section
/-! PROOFS. Towards O59 and O60: what each operation of the state leaves of the canonical form of the memories. `CanonIf P` says that
the form is kept where P holds, so that one set of lemmas serves both obligations: with P false the lemmas say only that a next
state is answered. -/

namespace Sys2Proof.Machine

variable {P : Prop}

/-- If P holds, every byte store of the state is in its canonical form. -/
def State.CanonIf (P : Prop) (s : State) : Prop := P → s.memOk = true

/-- The outcome is a next state in which the form is kept. -/
def Out.CanonIf (P : Prop) (o : Out) : Prop := ∃ t, o = .next t ∧ t.CanonIf P

/-- Either branch of a choice does. -/
theorem Out.CanonIf.ite {c : Prop} [Decidable c] {a b : Out} (ha : Out.CanonIf P a) (hb : Out.CanonIf P b) :
    Out.CanonIf P (if c then a else b) := by
  split
  · exact ha
  · exact hb

theorem State.CanonIf.foldl {α : Type} {f : State → α → State} {s : State} (h : s.CanonIf P)
    (hf : ∀ (s : State) (x : α), s.CanonIf P → (f s x).CanonIf P) {l : List α} : (l.foldl f s).CanonIf P := by
  induction l generalizing s with
  | nil => exact h
  | cons x l ih => exact ih (hf s x h)

/-- The state that an option holds, or else another. -/
theorem State.CanonIf.getD {s : State} {o : Option State} (h : s.CanonIf P) (ho : ∀ t, o = some t → t.CanonIf P) :
    (o.getD s).CanonIf P := by
  cases o with
  | none => exact h
  | some t => exact ho t rfl

theorem State.CanonIf.next {s : State} (h : s.CanonIf P) : Out.CanonIf P (.next s) := ⟨s, rfl, h⟩

/-- A state with the same memories. -/
theorem State.CanonIf.of_mem {s t : State} (h : s.CanonIf P) (hm : t.mem = s.mem) (hs : t.scratch = s.scratch)
    (hh : t.hostMem = s.hostMem) : t.CanonIf P := fun hp => by
  have := h hp
  rwa [State.memOk, hm, hs, hh]

theorem State.CanonIf.write_mem {s t : State} (h : s.CanonIf P) {a : Nat} {bs : List Byte}
    (hm : t.mem = cellWrite s.mem a bs) (hs : t.scratch = s.scratch) (hh : t.hostMem = s.hostMem) : t.CanonIf P := fun hp => by
  have h0 := h hp
  simp only [State.memOk, Bool.and_eq_true] at h0 ⊢
  rw [hm, hs, hh]
  exact ⟨⟨cellWrite_wf a bs h0.1.1, h0.1.2⟩, h0.2⟩

theorem State.CanonIf.write_scratch {s t : State} (h : s.CanonIf P) {a : Nat} {bs : List Byte}
    (hm : t.mem = s.mem) (hs : t.scratch = cellWrite s.scratch a bs) (hh : t.hostMem = s.hostMem) : t.CanonIf P := fun hp => by
  have h0 := h hp
  simp only [State.memOk, Bool.and_eq_true] at h0 ⊢
  rw [hm, hs, hh]
  exact ⟨⟨h0.1.1, cellWrite_wf a bs h0.1.2⟩, h0.2⟩

/-- The instruction word issues in a group that is there. -/
structure State.Issuing (P : Prop) (i : Instr) (s : State) : Prop where
  canon : s.CanonIf P
  word : i.shape.isSome = true
  group : ∃ id g, s.cur = some id ∧ s.group? id = some g

/-! Physical memory, scratchpads, contexts and frames. -/

theorem State.CanonIf.writeMem {s : State} {a : Nat} {bs : List Byte} (h : s.CanonIf P) :
    (s.writeMem a bs).CanonIf P := h.write_mem rfl rfl rfl

theorem State.CanonIf.writeScratch {s : State} {cluster off : Nat} {bs : List Byte} (h : s.CanonIf P) :
    (s.writeScratch cluster off bs).CanonIf P := h.write_scratch rfl rfl rfl

theorem State.CanonIf.spoilMem {s : State} {ws : List Nat} (h : s.CanonIf P) : (s.spoilMem ws).CanonIf P := by
  unfold State.spoilMem
  exact h

theorem State.CanonIf.setCtx {s : State} {c : Ctx} (h : s.CanonIf P) : (s.setCtx c).CanonIf P := by
  unfold State.setCtx
  exact h

theorem State.CanonIf.updCtx {s : State} {n : Nat} {f : Ctx → Ctx} (h : s.CanonIf P) : (s.updCtx n f).CanonIf P := by
  unfold State.updCtx
  exact h

theorem State.CanonIf.writeLeaf {s : State} {l : Leaf} (h : s.CanonIf P) : (s.writeLeaf l).CanonIf P := h.writeMem

theorem State.CanonIf.takeFrame {s t : State} {c : Ctx} {pool n : Nat} (h : s.CanonIf P)
    (ht : s.takeFrame c pool = some (n, t)) : t.CanonIf P := by
  unfold State.takeFrame at ht
  split at ht
  · cases ht
  · cases ht
    exact h.write_mem rfl rfl rfl

theorem State.CanonIf.takeFrames {s t : State} {c : Ctx} {pool n : Nat} {fs : List Nat} (h : s.CanonIf P)
    (ht : s.takeFrames c pool n = some (fs, t)) : t.CanonIf P := by
  induction n generalizing s fs with
  | zero => cases ht; exact h
  | succ n ih =>
    unfold State.takeFrames at ht
    split at ht
    · cases ht
    next f s1 h1 =>
      split at ht
      · cases ht
      next fs s2 h2 =>
        cases ht
        exact ih (h.takeFrame h1) h2

theorem State.CanonIf.pubWrite {s : State} {l : Leaf} {ctx ia : Nat} {bs : List Byte} (h : s.CanonIf P) :
    (s.pubWrite l ctx ia bs).CanonIf P := by
  unfold State.pubWrite
  dsimp only
  split
  · split <;> exact h
  · split <;> exact h.writeMem

theorem State.CanonIf.spoilPub {s : State} {l : Leaf} {ctx : Nat} {ws : List Nat} (h : s.CanonIf P) :
    (s.spoilPub l ctx ws).CanonIf P := by
  unfold State.spoilPub
  split
  · exact h
  · exact h.spoilMem

theorem State.CanonIf.writePieces {ctx : Nat} {ps : List Piece} {s : State} {bs : List Byte} (h : s.CanonIf P) :
    (s.writePieces ctx ps bs).CanonIf P := by
  induction ps generalizing s bs with
  | nil => exact h
  | cons x ps ih => exact ih h.pubWrite

theorem State.CanonIf.iaWrite {s : State} {c : Ctx} {ia : Nat} {bs : List Byte} (h : s.CanonIf P) :
    (s.iaWrite c ia bs).CanonIf P := by
  unfold State.iaWrite
  dsimp only
  split
  · exact h.writePieces
  · exact h

theorem State.CanonIf.locWrite {s : State} {l : Loc} {bs : List Byte} (h : s.CanonIf P) : (s.locWrite l bs).CanonIf P := by
  unfold State.locWrite
  split
  · exact h.writeScratch
  · exact h
  · split
    · exact h
    · exact h.iaWrite

/-! Reports. -/

theorem State.CanonIf.putReport {s : State} {i : Nat} {f : Fn} {r : Report} (h : s.CanonIf P) :
    (s.putReport i f r).CanonIf P := fun hp => by
  have h0 := h hp
  unfold State.putReport
  simp only [State.memOk, Bool.and_eq_true] at h0 ⊢
  exact ⟨h0.1, cellWrite_wf _ _ h0.2⟩

theorem State.CanonIf.report {s : State} {i : Nat} {r : Report} (h : s.CanonIf P) : (s.report i r).CanonIf P := by
  unfold State.report
  split
  · exact h
  · split
    · exact h
    · split
      · exact h.putReport
      · exact h

theorem State.CanonIf.flushReports {i n : Nat} {s : State} (h : s.CanonIf P) : (s.flushReports i n).CanonIf P := by
  induction n generalizing s with
  | zero => exact h
  | succ n ih =>
    unfold State.flushReports
    split
    · exact h
    · split
      · exact h
      · split
        · exact ih h.putReport
        · exact h

theorem State.CanonIf.reportCtx {s : State} {ctx : Nat} {r : Report} (h : s.CanonIf P) : (s.reportCtx ctx r).CanonIf P :=
  h.report

theorem State.CanonIf.reportMiss {s : State} {ctx : Nat} {ms : List (Miss × Bool)} {task : W64} (h : s.CanonIf P) :
    (s.reportMiss ctx ms task).CanonIf P :=
  h.foldl fun s1 x h1 => h1.reportCtx

/-! L1 lines and requests for pages. -/

theorem State.CanonIf.request {s : State} {c : Ctx} {cluster ia : Nat} {l : Leaf} (h : s.CanonIf P) :
    (s.request c cluster ia l).CanonIf P := by
  unfold State.request
  dsimp only
  split
  · exact h
  · split <;> exact h

theorem State.CanonIf.dropL1 {s : State} {out : L1Line → Bool} (h : s.CanonIf P) : (s.dropL1 out).CanonIf P := h

theorem State.CanonIf.acquire {s : State} {site : Site} {scope : Scope} (h : s.CanonIf P) :
    (s.acquire site scope).CanonIf P := by
  unfold State.acquire
  split
  · exact h
  · split
    · exact h.dropL1
    · exact h

theorem State.CanonIf.evictL1 {s : State} (h : s.CanonIf P) : (s.evictL1).CanonIf P := h.dropL1

theorem State.CanonIf.l1Put {s : State} {core : Nat} {l : L1Line} (h : s.CanonIf P) : (s.l1Put core l).CanonIf P := by
  unfold State.l1Put
  dsimp only
  exact h

theorem State.CanonIf.touchLine {s : State} {c : Ctx} {site : Site} {lf : Leaf} {line : Nat} (h : s.CanonIf P) :
    (s.touchLine c site lf line).CanonIf P := by
  unfold State.touchLine
  split
  · exact h.request
  · split
    · exact h.request
    · split
      · exact h
      · exact h.request.l1Put

/-! Groups, teams, traps, parking and barriers. -/

theorem State.CanonIf.setGroup {s : State} {g : Group} (h : s.CanonIf P) : (s.setGroup g).CanonIf P := by
  unfold State.setGroup
  exact h

theorem State.CanonIf.updGroup {s : State} {id : GroupId} {f : Group → Group} (h : s.CanonIf P) :
    (s.updGroup id f).CanonIf P := by
  unfold State.updGroup
  exact h

theorem State.CanonIf.updTeam {s : State} {ctx : Nat} {task : W64} {f : Team → Team} (h : s.CanonIf P) :
    (s.updTeam ctx task f).CanonIf P := by
  unfold State.updTeam
  exact h

theorem State.CanonIf.updLaunch {s : State} {ctx : Nat} {serial : W32} {f : Launch → Launch} (h : s.CanonIf P) :
    (s.updLaunch ctx serial f).CanonIf P := by
  unfold State.updLaunch
  exact h

theorem State.CanonIf.retire {s : State} {g : Group} {h : Hdr} (hc : s.CanonIf P) : (s.retire g h).CanonIf P := hc.setGroup

theorem State.CanonIf.complete {s : State} {g : Group} (h : s.CanonIf P) : (s.complete g).CanonIf P := h.setGroup

theorem State.CanonIf.noteLines {s : State} {id : GroupId} {code : Bool} {reads : List (W64 × Nat)} (h : s.CanonIf P) :
    (s.noteLines id code reads).CanonIf P := by
  unfold State.noteLines
  split
  · exact h
  · exact h.foldl fun s1 x h1 => h1.touchLine

theorem State.CanonIf.noteSpan {s : State} {id : GroupId} {va : W64} {w k : Nat} (h : s.CanonIf P) :
    (s.noteSpan id va w k).CanonIf P :=
  h.noteLines

theorem State.CanonIf.leave {s : State} {ctx : Nat} {task : W64} {why : Leave} {ms : List (Miss × Bool)} (h : s.CanonIf P) :
    (s.leave ctx task why ms).CanonIf P := by
  unfold State.leave
  dsimp only
  exact h.foldl fun s1 x h1 => h1.reportCtx

theorem State.CanonIf.missing {s : State} {g : Group} {ms : List (Miss × Bool)} (h : s.CanonIf P) :
    (s.missing g ms).CanonIf P :=
  h.leave

theorem State.CanonIf.endTeam {s : State} {ctx : Nat} {task : W64} {record : List Byte} (h : s.CanonIf P) :
    (s.endTeam ctx task record).CanonIf P := by
  unfold State.endTeam
  dsimp only
  exact h

theorem State.CanonIf.pushRc {s t : State} {g g1 : Group} {es : List RcEntry} (h : s.CanonIf P)
    (ht : s.pushRc g es = some (t, g1)) : t.CanonIf P := by
  unfold State.pushRc at ht
  dsimp only at ht
  split at ht
  · cases ht
    exact h
  · split at ht
    · cases ht
    · split at ht
      · cases ht
      · split at ht
        · cases ht
        · cases ht
          exact h.foldl fun s1 x h1 => h1.writeMem

theorem State.CanonIf.trapAt {s : State} {g : Group} {tpc next : W64} {resume : Option W64} {hops : List W64}
    {t : Trap} {e : Bool} (h : s.CanonIf P) :
    (s.trapAt g tpc next resume hops t e).CanonIf P := by
  unfold State.trapAt
  dsimp only
  split
  · exact h.endTeam
  · split
    · exact h.endTeam
    · split
      · exact h.missing
      · exact h
      · exact h.endTeam
      · exact h.endTeam
      · split
        · exact h.endTeam
        · split
          · exact h.setGroup.reportCtx
          · exact h.setGroup

theorem State.CanonIf.trapIssued {s : State} {g : Group} {len : Nat} {e : Bool} {hops : List W64} {t : Trap} (h : s.CanonIf P) :
    (s.trapIssued g len e hops t).CanonIf P := by
  unfold State.trapIssued
  dsimp only
  split <;> exact h.trapAt

theorem State.CanonIf.trap {s : State} {g : Group} {h : Hdr} {t : Trap} (hc : s.CanonIf P) : (s.trap g h t).CanonIf P :=
  hc.trapIssued

theorem State.CanonIf.transfer {s : State} {g : Group} {h : Hdr} {a : W64} {need : W64 → Bool} {done : Group → Group}
    (hc : s.CanonIf P) :
    (s.transfer g h a need done).CanonIf P := by
  unfold State.transfer
  dsimp only
  split
  · exact hc.trap
  · exact hc.missing
  · exact hc
  · exact hc.setGroup
  · split
    · exact hc.trap
    · exact hc.setGroup

theorem State.CanonIf.trySave {s : State} {id : GroupId} (h : s.CanonIf P) : (s.trySave id).CanonIf P := by
  unfold State.trySave
  dsimp only
  split
  · split
    · split <;> exact h
    · exact h
  · exact h

theorem State.CanonIf.grantGrow {site : Site} {n : Nat} {s : State} (h : s.CanonIf P) : (s.grantGrow site n).CanonIf P := by
  induction n generalizing s with
  | zero => exact h
  | succ n ih =>
    unfold State.grantGrow
    split
    · exact h
    · split
      · exact h
      · split
        · exact ih (State.CanonIf.complete h)
        · exact h

theorem State.CanonIf.settleRegs {s : State} {site : Site} (h : s.CanonIf P) : (s.settleRegs site).CanonIf P := h.grantGrow

theorem State.CanonIf.park {s : State} {g : Group} {h : Hdr} {why : Park} (hc : s.CanonIf P) : (s.park g h why).CanonIf P :=
  hc.setGroup.trySave.settleRegs

theorem State.CanonIf.releaseBar {s : State} {ctx : Nat} {task : W64} {n : Nat} (h : s.CanonIf P) :
    (s.releaseBar ctx task n).CanonIf P := by
  unfold State.releaseBar
  dsimp only
  split
  · exact h.foldl fun s1 x h1 => h1.complete
  · exact h

theorem State.CanonIf.releaseBars {s : State} {ctx : Nat} {task : W64} (h : s.CanonIf P) :
    (s.releaseBars ctx task).CanonIf P :=
  h.foldl fun s1 x h1 => h1.releaseBar

/-! The frame of issue. -/

theorem State.Issuing.issue {s : State} {i : Instr} {k : Group → Hdr → Out} (h : s.Issuing P i)
    (hk : ∀ g hd, Out.CanonIf P (k g hd)) : Out.CanonIf P (s.issue i k) := by
  obtain ⟨hc, hw, id, g, hcur, hg⟩ := h
  obtain ⟨sh, hs⟩ := Option.isSome_iff_exists.mp hw
  unfold State.issue State.withGroup
  rw [hcur]
  dsimp only
  rw [hg]
  dsimp only
  rw [hs]
  dsimp only
  split
  · exact hc.retire.next
  · split
    · exact hc.next
    · exact hc.trap.next
    · exact hk g sh.h

theorem State.Issuing.compute {s : State} {i : Instr} {f : Group → Hdr → Group} (h : s.Issuing P i) :
    Out.CanonIf P (s.compute i f) :=
  h.issue fun g hd => h.canon.retire.next

end Sys2Proof.Machine
end

section
/-! Towards O59 and O60: accesses, milestones and launches. -/

namespace Sys2Proof.Machine

variable {P : Prop}

/-! Ember lines, versions and the publish. -/

theorem State.CanonIf.copyLine {s : State} {ls ld : Leaf} {ctx src dst : Nat} (h : s.CanonIf P) :
    (s.copyLine ls ld ctx src dst).CanonIf P :=
  h.pubWrite.spoilPub

theorem State.CanonIf.copyLines {ls ld : Leaf} {ctx src dst n : Nat} {s : State} (h : s.CanonIf P) :
    (s.copyLines ls ld ctx src dst n).CanonIf P := by
  induction n generalizing s src dst with
  | zero => exact h
  | succ n ih => exact ih h.copyLine

theorem State.CanonIf.cow {s t : State} {c : Ctx} {cluster row entry : Nat} {d : Remap} (h : s.CanonIf P)
    (ht : s.cow c cluster d row entry = .ok t) : t.CanonIf P := by
  unfold State.cow at ht
  dsimp only at ht
  split at ht
  · cases ht
  · split at ht
    · cases ht
    · cases ht
    · split at ht
      · cases ht
        exact h.iaWrite
      · split at ht
        · cases ht
        · cases ht
        · split at ht
          · cases ht
          · split at ht
            · cases ht
            · cases ht
            · split at ht
              · cases ht
              · split at ht
                · split at ht
                  · cases ht
                  · cases ht
                    exact h.iaWrite.copyLines.iaWrite.iaWrite.iaWrite
                · cases ht
                · cases ht
                · cases ht
                · cases ht

theorem State.CanonIf.spillLine {s : State} {c : Ctx} {task : W64} {line e : Nat} (h : s.CanonIf P) :
    (s.spillLine c task line e).CanonIf P := by
  unfold State.spillLine
  dsimp only
  split
  · exact h
  · exact h.writeMem.spoilMem.updTeam

theorem State.CanonIf.versionLine {s t : State} {c : Ctx} {task : W64} {line : Nat} (h : s.CanonIf P)
    (ht : s.versionLine c task line = some t) : t.CanonIf P := by
  unfold State.versionLine at ht
  dsimp only at ht
  split at ht
  · cases ht
  · split at ht
    · cases ht
      exact h
    · split at ht
      · cases ht
        exact h
      · split at ht
        · cases ht
          exact h
        · split at ht
          · cases ht
          · split at ht
            · cases ht
              exact h.spillLine
            · cases ht
              exact h.spillLine

theorem State.CanonIf.respill {s : State} {c : Ctx} {task : W64} {ia : Nat} {bs : List Byte} (h : s.CanonIf P) :
    (s.respill c task ia bs).CanonIf P := by
  unfold State.respill
  split
  · exact h
  · split
    · exact h
    · split
      · exact h
      · exact h.writeMem.writeMem

theorem State.CanonIf.holdStore {s t : State} {c : Ctx} {task : W64} {ia : Nat} {bs : List Byte} (h : s.CanonIf P)
    (ht : s.holdStore c task ia bs = some t) : t.CanonIf P := by
  unfold State.holdStore at ht
  split at ht
  · cases ht
  · cases ht
    exact ((h.versionLine ‹_›).updTeam).respill

theorem State.CanonIf.publish {s : State} {ctx : Nat} {task : W64} (h : s.CanonIf P) : (s.publish ctx task).1.CanonIf P := by
  unfold State.publish
  dsimp only
  split
  · refine State.CanonIf.of_mem ?_ rfl rfl rfl
    refine h.foldl fun s1 x h1 => ?_
    split
    · exact h1.pubWrite.spoilPub
    · exact h1
  · exact h

theorem State.CanonIf.pubChange {s : State} {lf : Leaf} {ctx ia : Nat} {bs : List Byte} {drop_ : L1Line → Bool}
    (h : s.CanonIf P) :
    (s.pubChange lf ctx ia bs drop_).CanonIf P :=
  h.pubWrite.dropL1

theorem State.CanonIf.addLoad {s : State} {g : Group} {h : Hdr} {dst : LDst} {kind : LKind} (hc : s.CanonIf P) :
    (s.addLoad g h dst kind).CanonIf P := by
  unfold State.addLoad
  dsimp only
  exact hc

theorem State.CanonIf.touchLines {s : State} {g : Group} {ts : List ATgt} (h : s.CanonIf P) :
    (s.touchLines g ts).CanonIf P := by
  unfold State.touchLines
  split
  · exact h
  · exact h.foldl fun s1 x h1 => h1.touchLine

theorem State.CanonIf.askLines {s : State} {g : Group} {ts : List ATgt} (h : s.CanonIf P) : (s.askLines g ts).CanonIf P := by
  unfold State.askLines
  split
  · exact h
  · exact h.foldl fun s1 x h1 => h1.request

theorem State.CanonIf.askAddrs {s : State} {g : Group} {h : Hdr} {sp : Space} {k : AKind} {w : Nat}
    {addrs : List (Nat × W64)} (hc : s.CanonIf P) :
    (s.askAddrs g h sp k w addrs).CanonIf P := by
  unfold State.askAddrs
  split
  · exact hc.askLines
  · exact hc

/-! Milestones and their instructions' reads. -/

theorem State.CanonIf.hold {s : State} {ctx : Nat} {task : W64} {x : Held} (h : s.CanonIf P) :
    (s.hold ctx task x).CanonIf P :=
  h.updTeam

theorem State.CanonIf.putMs {s : State} {l : Loc} {m : Ms} {flip : Bool} {init : Bool} (h : s.CanonIf P) :
    (s.putMs l m flip init).CanonIf P := by
  unfold State.putMs
  split
  · exact h.hold
  · exact h.locWrite

theorem State.CanonIf.setTags {s : State} {site : Site} {v : W64} (h : s.CanonIf P) : (s.setTags site v).CanonIf P := by
  unfold State.setTags
  exact h

/-! Acceptance of launches. -/

theorem State.CanonIf.fresh {s : State} (h : s.CanonIf P) : s.fresh.2.CanonIf P := h

theorem State.CanonIf.cancel {s : State} {l : Launch} (h : s.CanonIf P) : (s.cancel l).CanonIf P := by
  unfold State.cancel
  dsimp only
  exact h

theorem State.CanonIf.testDep {s : State} {l : Launch} (h : s.CanonIf P) : (s.testDep l).CanonIf P := by
  unfold State.testDep
  dsimp only
  split
  · exact h
  · split
    · exact h.updLaunch
    · split
      · exact h.cancel.reportCtx
      · exact h.reportMiss.updLaunch
      · split
        · exact h
        · split
          · exact h.cancel.reportCtx
          · split
            · exact h
            · split
              · exact h.cancel
              · split
                · exact h.updLaunch
                · exact h

theorem State.CanonIf.testDeps {s : State} (h : s.CanonIf P) : (s.testDeps).CanonIf P := by
  unfold State.testDeps
  refine h.foldl fun s1 x h1 => ?_
  split
  · split
    · exact h1.testDep
    · exact h1
  · exact h1

theorem State.CanonIf.acceptLaunch {s : State} {c : Ctx} {r : LRec} {depth : Nat} {parent : Option W32} (h : s.CanonIf P) :
    (s.acceptLaunch c r depth parent).1.CanonIf P := by
  unfold State.acceptLaunch
  dsimp only
  refine State.CanonIf.testDep ?_
  exact h

theorem State.CanonIf.tryLaunch_done {s t : State} {c : Ctx} {addr : W64} (h : s.CanonIf P)
    (ht : s.tryLaunch c addr = .done t) : t.CanonIf P := by
  unfold State.tryLaunch at ht
  split at ht
  · cases ht; exact h.reportCtx
  · cases ht; exact h.reportCtx
  · split at ht
    · cases ht
    · cases ht; exact h
  · cases ht
  · split at ht
    · cases ht; exact h.reportCtx
    · split at ht
      · cases ht
      · cases ht; exact h.acceptLaunch

theorem State.CanonIf.tryLaunch_wait {s t : State} {c : Ctx} {addr : W64} {w : Option Hold} (h : s.CanonIf P)
    (ht : s.tryLaunch c addr = .wait t w) : t.CanonIf P := by
  unfold State.tryLaunch at ht
  split at ht
  · cases ht
  · cases ht
  · split at ht
    · cases ht; exact h.reportCtx
    · cases ht
  · cases ht; exact h
  · split at ht
    · cases ht
    · split at ht
      · cases ht; exact h
      · cases ht

theorem State.CanonIf.joinLaunch {s : State} {ctx : Nat} {addr : W64} (h : s.CanonIf P) :
    (s.joinLaunch ctx addr).CanonIf P := by
  unfold State.joinLaunch
  split
  · exact h
  · split
    next s1 h1 => exact h.tryLaunch_done h1
    next s1 hold h1 =>
      have h2 := h.tryLaunch_wait h1
      exact h2

theorem State.CanonIf.retryJoins {s : State} {ctx : Nat} {hold : Option Hold} (h : s.CanonIf P) :
    (s.retryJoins ctx hold).CanonIf P := by
  unfold State.retryJoins
  refine h.foldl fun s1 x h1 => ?_
  refine State.CanonIf.joinLaunch ?_
  exact h1

/-! Updates of milestones and all that follows them. -/

theorem State.CanonIf.wakeOne {s : State} {site : Site} {id : GroupId} (h : s.CanonIf P) :
    (s.wakeOne site id).CanonIf P := by
  unfold State.wakeOne
  dsimp only
  split
  · exact h
  · split
    · split
      · exact h.setTags.complete.acquire
      · exact h
    · exact h

theorem State.CanonIf.setTag {s : State} {site : Site} {n : Nat} (h : s.CanonIf P) : (s.setTag site n).CanonIf P :=
  h.setTags.foldl fun s1 x h1 => h1.wakeOne

theorem State.CanonIf.offer {s : State} {t : Start} (h : s.CanonIf P) : (s.offer t).CanonIf P := by
  unfold State.offer
  split <;> exact h

theorem State.CanonIf.update {s : State} {ctx : Nat} {task : W64} {l : Loc} {u : MsUpd} (h : s.CanonIf P) :
    (s.update ctx task l u).1.CanonIf P := by
  unfold State.update
  dsimp only
  split
  · exact h.hold
  · split
    · exact h.reportCtx
    · split
      · exact h.reportCtx
      · split
        · exact h
        · split
          · exact h.reportCtx
          · exact h.locWrite

theorem State.CanonIf.dropTrigger {s : State} {t : Trigger} (h : s.CanonIf P) : (s.dropTrigger t).CanonIf P := by
  unfold State.dropTrigger
  exact h

theorem State.CanonIf.markTrigger {s : State} {t : Trigger} {fires : Bool} (h : s.CanonIf P) :
    (s.markTrigger t fires).CanonIf P := by
  unfold State.markTrigger
  exact h

theorem State.CanonIf.fireTrigger {s : State} {t : Trigger} (h : s.CanonIf P) : (s.fireTrigger t).1.CanonIf P := by
  unfold State.fireTrigger
  dsimp only
  split
  · exact h.reportCtx
  · split
    · exact h.reportCtx
    · exact h.fresh.offer

theorem State.CanonIf.defer {s : State} {ctx : Nat} {task : W64} {cluster : Nat} {ref : W64} {upd : MsUpd} {hold : Hold}
    (h : s.CanonIf P) :
    (s.defer ctx task cluster ref upd hold).CanonIf P := by
  unfold State.defer
  exact h

theorem State.CanonIf.doTodo {s : State} {x : Todo} (h : s.CanonIf P) : (s.doTodo x).1.CanonIf P := by
  unfold State.doTodo
  dsimp only
  split
  · split
    · exact h.update
    · split
      · split
        · exact h.defer
        · exact h.update
      · split
        · exact h.reportCtx.defer
        · exact h
      · exact h.reportCtx
  · exact h.setTag
  · split
    · exact h.markTrigger
    · split
      · exact h.dropTrigger.fireTrigger
      · exact h
  · split
    · exact h.markTrigger
    · split
      · exact h.dropTrigger
      · exact h
  · exact h.joinLaunch
  · exact h.reportCtx

theorem doAll_canon {n : Nat} {s : State} {xs : List Todo} (h : s.CanonIf P) : (State.doAll n s xs).CanonIf P := by
  induction n generalizing s xs with
  | zero => exact h
  | succ n ih =>
    cases xs with
    | nil => exact h
    | cons x xs => exact ih h.doTodo

theorem State.CanonIf.run {s : State} {xs : List Todo} (h : s.CanonIf P) : (s.run xs).CanonIf P := by
  unfold State.run
  exact (doAll_canon h).testDeps

theorem State.CanonIf.updRef {s : State} {ctx : Nat} {task : W64} {cluster : Nat} {r : W64} {u : MsUpd} (h : s.CanonIf P) :
    (s.updRef ctx task cluster r u).CanonIf P :=
  h.run

theorem State.CanonIf.updLoc {s : State} {ctx : Nat} {task : W64} {l : Loc} {u : MsUpd} (h : s.CanonIf P) :
    (s.updLoc ctx task l u).CanonIf P :=
  h.run

theorem State.CanonIf.change {s : State} {ctx : Nat} {task : W64} {l : Loc} {m m2 : Ms} {flip : Bool} (h : s.CanonIf P) :
    (s.change ctx task l m m2 flip).CanonIf P := by
  unfold State.change
  dsimp only
  split
  · exact h.putMs
  · exact h.putMs.run

theorem State.CanonIf.settleTriggers {s : State} {cluster : Nat} (h : s.CanonIf P) : (s.settleTriggers cluster).CanonIf P :=
  h.run

theorem State.CanonIf.retryAll {s : State} (h : s.CanonIf P) : (s.retryAll).CanonIf P := by
  unfold State.retryAll
  dsimp only
  split
  · exact h
  · refine State.CanonIf.run ?_
    exact h

theorem State.CanonIf.retryLate {s : State} {ctx : Nat} {hold : Hold} (h : s.CanonIf P) : (s.retryLate ctx hold).CanonIf P := by
  unfold State.retryLate
  dsimp only
  refine State.CanonIf.run ?_
  exact h

end Sys2Proof.Machine
end

section
/-! Towards O59 and O60: the instructions that end in more than a result. -/

namespace Sys2Proof.Machine

variable {P : Prop}

/-! FUNC. -/

theorem execFunc_canon {s : State} {h : Hdr} {fn : FuncFn} {ty : Ty} {d a : Opd} (hc : s.Issuing P (.func h fn ty d a)) :
    Out.CanonIf P (execFunc h fn ty d a s) := by
  unfold execFunc
  refine hc.issue fun g hd => ?_
  split
  · exact hc.canon.trap.next
  · exact hc.canon.retire.next

/-! MOVS. -/

theorem execMovsWrite_canon {s : State} {h : Hdr} {r : SReg} {a : Opd} (hc : s.Issuing P (.movsWrite h r a)) :
    Out.CanonIf P (execMovsWrite h r a s) :=
  hc.compute

theorem execTagclrWrite_canon {s : State} {h : Hdr} {a : Opd} (hc : s.Issuing P (.tagclrWrite h a)) :
    Out.CanonIf P (execTagclrWrite h a s) := by
  unfold execTagclrWrite
  dsimp only
  refine hc.issue fun g hd => ?_
  split
  · exact hc.canon.retire.next
  · exact hc.canon.retire.setTags.next

/-! Transfers, ends, waits and traps. -/

theorem execNop_canon {s : State} {h : Hdr} (hc : s.Issuing P (.nop h)) : Out.CanonIf P (execNop h s) := hc.compute

theorem State.CanonIf.trapWord {s : State} {g : Group} {a : W64} (h : s.CanonIf P) : (s.trapWord g a).CanonIf P := h.trapAt

theorem State.CanonIf.diverge {s : State} {g : Group} {h : Hdr} {a : W64} {T : W32} (hc : s.CanonIf P) :
    (s.diverge g h a T).CanonIf P := by
  unfold State.diverge
  dsimp only
  split
  · exact hc.trap
  · split
    · exact hc.trap
    · split
      · exact hc.trap
      · exact hc.missing
      · exact hc
      · exact hc.trapWord
      · split
        · exact hc.trap
        · split
          · exact hc.trap
          · exact hc.missing
          · exact hc
          · split
            · exact hc.trap
            · split
              · exact hc
              · exact (hc.pushRc ‹_›).transfer

theorem execBra_canon {s : State} {h : Hdr} {t : Opd} (hc : s.Issuing P (.bra h t)) : Out.CanonIf P (execBra h t s) := by
  unfold execBra
  dsimp only
  refine hc.issue fun g hd => ?_
  split
  · exact hc.canon.retire.next
  · split
    · exact hc.canon.transfer.next
    · exact hc.canon.diverge.next

theorem State.Issuing.goto {s : State} {i : Instr} {t : Opd} {need : W64 → Bool} {done : Group → Hdr → Group}
    (h : s.Issuing P i) :
    Out.CanonIf P (s.goto i t need done) :=
  h.issue fun g hd => h.canon.transfer.next

theorem execBrg_canon {s : State} {h : Hdr} {t : Opd} (hc : s.Issuing P (.brg h t)) : Out.CanonIf P (execBrg h t s) := hc.goto

theorem execJmp_canon {s : State} {h : Hdr} {t : Opd} (hc : s.Issuing P (.jmp h t)) : Out.CanonIf P (execJmp h t s) := hc.goto

theorem execCall_canon {s : State} {h : Hdr} {d t : Opd} (hc : s.Issuing P (.call h d t)) :
    Out.CanonIf P (execCall h d t s) :=
  hc.goto

theorem execRet_canon {s : State} {h : Hdr} {a : Opd} (hc : s.Issuing P (.ret h a)) : Out.CanonIf P (execRet h a s) := hc.goto

theorem execLoop_canon {s : State} {h : Hdr} {d t : Opd} (hc : s.Issuing P (.loop h d t)) :
    Out.CanonIf P (execLoop h d t s) := by
  unfold execLoop
  dsimp only
  refine hc.issue fun g hd => ?_
  split
  · exact hc.canon.retire.next
  · exact hc.canon.transfer.next

theorem State.CanonIf.maskSpill {s : State} {g : Group} {keep : W32} (h : s.CanonIf P) : (s.maskSpill g keep).CanonIf P := by
  unfold State.maskSpill
  split
  · intro hp
    have h0 := h hp
    simp only [State.memOk, Bool.and_eq_true] at h0 ⊢
    exact ⟨⟨List.foldlRecOn (motive := fun m => Memory.wf m = true) _ _ h0.1.1 fun m hm j _ => cellWrite_wf _ _ hm, h0.1.2⟩, h0.2⟩
  · exact h

theorem State.CanonIf.exitGroup {s : State} {g : Group} (h : s.CanonIf P) : (s.exitGroup g).CanonIf P := h.setGroup.releaseBars

theorem execExit_canon {s : State} {h : Hdr} (hc : s.Issuing P (.exit h)) : Out.CanonIf P (execExit h s) := by
  unfold execExit
  dsimp only
  refine hc.issue fun g hd => ?_
  split
  · exact hc.canon.maskSpill.exitGroup.next
  · split
    · exact hc.canon.maskSpill.retire.next
    · exact hc.canon.maskSpill.setGroup.next

theorem execExitG_canon {s : State} {h : Hdr} (hc : s.Issuing P (.exitG h)) : Out.CanonIf P (execExitG h s) :=
  hc.issue fun g hd => hc.canon.exitGroup.next

theorem execHalt_canon {s : State} {h : Hdr} (hc : s.Issuing P (.halt h)) : Out.CanonIf P (execHalt h s) := by
  unfold execHalt
  refine hc.issue fun g hd => ?_
  split
  · exact hc.canon.next
  · exact hc.canon.exitGroup.next

theorem execBar_canon {s : State} {h : Hdr} {n : Opd} (hc : s.Issuing P (.bar h n)) : Out.CanonIf P (execBar h n s) := by
  unfold execBar
  dsimp only
  refine hc.issue fun g hd => ?_
  split
  · exact hc.canon.next
  · exact hc.canon.setGroup.releaseBar.trySave.settleRegs.next

theorem execYield_canon {s : State} {h : Hdr} (hc : s.Issuing P (.yield h)) : Out.CanonIf P (execYield h s) := by
  unfold execYield
  dsimp only
  refine hc.issue fun g hd => ?_
  split
  · split
    · exact hc.canon.retire.next
    · split
      · exact hc.canon.next
      · exact hc.canon.setGroup.settleRegs.next
  · split
    · exact hc.canon.retire.next
    · split
      · exact hc.canon.next
      · exact hc.canon.setGroup.settleRegs.next

theorem State.Issuing.tagWait {s : State} {i : Instr} {mask : Opd} {w : W64 → Park} (h : s.Issuing P i) :
    Out.CanonIf P (s.tagWait i mask w) := by
  unfold State.tagWait
  dsimp only
  refine h.issue fun g hd => ?_
  split
  · exact h.canon.setTags.retire.acquire.next
  · split
    · exact h.canon.trap.next
    · exact h.canon.park.next

theorem execWaitAny_canon {s : State} {h : Hdr} {c : Bool} {d m : Opd} (hc : s.Issuing P (.waitAny h c d m)) :
    Out.CanonIf P (execWaitAny h c d m s) :=
  hc.tagWait

theorem execWaitAll_canon {s : State} {h : Hdr} {c : Bool} {m : Opd} (hc : s.Issuing P (.waitAll h c m)) :
    Out.CanonIf P (execWaitAll h c m s) :=
  hc.tagWait

theorem State.CanonIf.withMs {s : State} {g : Group} {hd : Hdr} {r : W64} {k : State → Loc → Out} (h : s.CanonIf P)
    (hk : ∀ s l, s.CanonIf P → Out.CanonIf P (k s l)) : Out.CanonIf P (s.withMs g hd r k) := by
  unfold State.withMs
  split
  · exact h.trap.next
  · exact h.missing.next
  · split
    · exact h.next
    · exact hk _ _ h

theorem State.CanonIf.askMs {s : State} {g : Group} {l : Loc} (h : s.CanonIf P) : (s.askMs g l).CanonIf P := by
  unfold State.askMs
  split
  · exact h
  · exact h.foldl fun s1 x h1 => h1.request

theorem State.CanonIf.withRead {s : State} {g : Group} {hd : Hdr} {l : Loc} {k : State → Ms → Out} (h : s.CanonIf P)
    (hk : ∀ s m, s.CanonIf P → Out.CanonIf P (k s m)) : Out.CanonIf P (s.withRead g hd l k) := by
  unfold State.withRead
  split
  · exact h.trap.next
  · split
    · exact h.next
    · exact hk _ _ h.askMs

theorem execWaitMs_canon {s : State} {h : Hdr} {a ph : Opd} (hc : s.Issuing P (.waitMs h a ph)) :
    Out.CanonIf P (execWaitMs h a ph s) := by
  unfold execWaitMs
  dsimp only
  refine hc.issue fun g hd => ?_
  refine hc.canon.withMs fun s1 l h1 => ?_
  refine h1.withRead fun s2 m h2 => ?_
  split
  · exact h2.trap.next
  · split
    · exact h2.retire.acquire.next
    · exact h2.park.next

theorem execFfr_canon {s : State} {h : Hdr} {c : Bool} {d m : Opd} (hc : s.Issuing P (.ffr h c d m)) :
    Out.CanonIf P (execFfr h c d m s) := by
  unfold execFfr
  dsimp only
  refine hc.issue fun g hd => ?_
  split
  · exact hc.canon.retire.next
  · refine State.CanonIf.next ?_
    refine State.CanonIf.acquire ?_
    refine State.CanonIf.retire ?_
    split
    · exact hc.canon.setTags
    · exact hc.canon

theorem State.Issuing.software {s : State} {i : Instr} {code : Opd} {cause : Cause} (h : s.Issuing P i) :
    Out.CanonIf P (s.software i code cause) := by
  unfold State.software
  refine h.issue fun g hd => ?_
  split
  · exact h.canon.retire.next
  · exact h.canon.trap.next

theorem execTrapSys_canon {s : State} {h : Hdr} {code : Opd} (hc : s.Issuing P (.trapSys h code)) :
    Out.CanonIf P (execTrapSys h code s) :=
  hc.software

theorem execTrapBrk_canon {s : State} {h : Hdr} {code : Opd} (hc : s.Issuing P (.trapBrk h code)) :
    Out.CanonIf P (execTrapBrk h code s) :=
  hc.software

theorem State.Issuing.leaveHandler {s : State} {i : Instr} {next : Bool} (h : s.Issuing P i) :
    Out.CanonIf P (s.leaveHandler i next) := by
  unfold State.leaveHandler
  refine h.issue fun g hd => ?_
  split
  · exact h.canon.setGroup.next
  · exact h.canon.trap.next

theorem execTrapretSame_canon {s : State} {h : Hdr} (hc : s.Issuing P (.trapretSame h)) :
    Out.CanonIf P (execTrapretSame h s) :=
  hc.leaveHandler

theorem execTrapretNext_canon {s : State} {h : Hdr} (hc : s.Issuing P (.trapretNext h)) :
    Out.CanonIf P (execTrapretNext h s) :=
  hc.leaveHandler

theorem execAbort_canon {s : State} {h : Hdr} (hc : s.Issuing P (.abort h)) : Out.CanonIf P (execAbort h s) :=
  hc.issue fun g hd => hc.canon.endTeam.next

/-! Room for ember lines. -/

theorem State.CanonIf.dropEmber {s : State} {ctx line : Nat} (h : s.CanonIf P) : (s.dropEmber ctx line).CanonIf P := by
  unfold State.dropEmber
  exact h

theorem State.CanonIf.takeLate {s t : State} {c : Ctx} {l l1 : Leaf} (h : s.CanonIf P)
    (ht : s.takeLate c l = some (l1, t)) : t.CanonIf P := by
  unfold State.takeLate at ht
  dsimp only at ht
  split at ht
  · cases ht
    exact h
  · split at ht
    · cases ht
    · cases ht
      exact ((h.takeFrame ‹_›).writeMem).writeLeaf

theorem State.CanonIf.evictEmber {s t : State} {e : Ember} (h : s.CanonIf P) (ht : s.evictEmber e = some t) : t.CanonIf P := by
  unfold State.evictEmber at ht
  split at ht
  · cases ht
  · split at ht
    · cases ht
    · split at ht
      · cases ht
      · cases ht
        exact (((h.takeLate ‹_›).writeMem).spoilMem).dropEmber

theorem State.CanonIf.leaveEmber {s : State} {e : Ember} (h : s.CanonIf P) : (s.leaveEmber e).CanonIf P := by
  unfold State.leaveEmber
  split
  · exact h.evictEmber ‹_›
  · exact h.reportCtx

theorem State.CanonIf.freeLine {s t : State} {ctx cluster slice : Nat} (h : s.CanonIf P)
    (ht : s.freeLine ctx cluster slice = .ok t) : t.CanonIf P := by
  unfold State.freeLine at ht
  dsimp only at ht
  split at ht
  next s1 h1 =>
    cases ht
    obtain ⟨e, -, he⟩ := List.exists_of_findSome?_eq_some h1
    exact h.evictEmber he
  next => cases ht; exact h
  next => cases ht

theorem State.CanonIf.emberRoom {s t : State} {ctx ia : Nat} {l : Leaf} (h : s.CanonIf P)
    (ht : s.emberRoom ctx ia l = .ok t) : t.CanonIf P := by
  unfold State.emberRoom at ht
  split at ht
  · cases ht; exact h
  · exact h.freeLine ht

theorem State.CanonIf.roomFor {ctx : Nat} {ps : List Piece} {s t : State} (h : s.CanonIf P)
    (ht : s.roomFor ctx ps = .ok t) : t.CanonIf P := by
  induction ps generalizing s with
  | nil => cases ht; exact h
  | cons x ps ih =>
    unfold State.roomFor at ht
    split at ht
    · cases ht
    next s1 h1 => exact ih (h.emberRoom h1) ht

theorem State.CanonIf.otherPool {s : State} {ctx owner : Nat} (h : s.CanonIf P) : (s.otherPool ctx owner).CanonIf P := by
  unfold State.otherPool
  split
  · exact h
  · exact h.reportCtx

/-! Loads, stores, fences and prefetches. -/

theorem State.CanonIf.withChecked {s : State} {g : Group} {hd : Hdr} {sp : Space} {k : AKind} {align w : Nat}
    {addrs : List (Nat × W64)} {next : List (Nat × W64 × ATgt) → Out} {lost : List (Miss × Bool) → Out} (h : s.CanonIf P)
    (hn : ∀ accs, Out.CanonIf P (next accs)) (hl : ∀ ms, Out.CanonIf P (lost ms)) :
    Out.CanonIf P (s.withChecked g hd sp k align w addrs next lost) := by
  unfold State.withChecked
  split
  · exact h.trap.next
  · exact hl _
  · exact h.next
  · exact hn _

theorem State.CanonIf.placeRoom {s t : State} {g : Group} {sp : Space} {k : AKind} {w : Nat} {va : W64} {x y : ATgt}
    (h : s.CanonIf P) (ht : s.placeRoom g sp k w va x = .ok t y) : t.CanonIf P := by
  unfold State.placeRoom at ht
  split at ht
  · split at ht
    · cases ht
    · split at ht
      · cases ht
        exact h.roomFor ‹_›
      · cases ht
  · cases ht
    exact h

theorem State.CanonIf.place1 {s t : State} {g : Group} {sp : Space} {k : AKind} {w : Nat} {va : W64} {x : ATgt}
    (h : s.CanonIf P) (ht : s.place1 g sp k w va = .ok t x) : t.CanonIf P := by
  have placed {s : State} (h : s.CanonIf P)
      (ht : (match s.resolve g sp k w va with
        | .prot => .prot
        | .miss ms => .miss ms
        | .wait | .held => .wait
        | .ok t => s.placeRoom g sp k w va t : Placed) = .ok t x) : t.CanonIf P := by
    split at ht
    · cases ht
    · cases ht
    · cases ht
    · cases ht
    · exact h.placeRoom ht
  unfold State.place1 at ht
  dsimp only at ht
  split at ht
  · split at ht
    · exact placed h ht
    · split at ht
      · cases ht
      · cases ht
      · cases ht
      next s1 h1 => exact placed (h.cow h1) ht
  · exact placed h ht

/-- What a lane does keeps the memories in their form. -/
def KeepsCanon (P : Prop) (act : LaneFn) : Prop :=
  ∀ (L : Nat) (x : ATgt) (s t : State) (n : Nat), s.CanonIf P → act L x s = .ok n t → t.CanonIf P

theorem beside_ne_ok {a b : Made} (ha : ∀ xs s, a ≠ .ok xs s) (xs : List (ATgt × Nat × Nat)) (s : State) :
    a.beside b ≠ .ok xs s := by
  cases a with
  | ok ys t => exact absurd rfl (ha ys t)
  | trap x => cases b <;> (unfold Made.beside; dsimp only; (repeat' split) <;> nofun)
  | miss ms os => cases b <;> (unfold Made.beside; dsimp only; (repeat' split) <;> nofun)
  | wait => cases b <;> (unfold Made.beside; dsimp only; (repeat' split) <;> nofun)

theorem State.CanonIf.eachLane {g : Group} {hd : Hdr} {sp : Space} {k : AKind} {w : Nat} {act : LaneFn}
    (ha : KeepsCanon P act) {addrs : List (Nat × W64)} {s t : State} {xs : List (ATgt × Nat × Nat)} (h : s.CanonIf P)
    (ht : s.eachLane g hd sp k w act addrs = .ok xs t) : t.CanonIf P := by
  induction addrs generalizing s xs with
  | nil => cases ht; exact h
  | cons x rest ih =>
    obtain ⟨L, va⟩ := x
    unfold State.eachLane at ht
    dsimp only at ht
    split at ht
    · exact absurd ht (beside_ne_ok (by nofun) _ _)
    · exact absurd ht (beside_ne_ok (by nofun) _ _)
    · exact absurd ht (beside_ne_ok (by nofun) _ _)
    · exact absurd ht (beside_ne_ok (by nofun) _ _)
    next s1 x h1 =>
      split at ht
      · exact absurd ht (beside_ne_ok (by nofun) _ _)
      · exact absurd ht (beside_ne_ok (by nofun) _ _)
      next n s2 h2 =>
        have hc := ha L x s1 s2 n (h.place1 h1) h2
        split at ht
        next ys s3 h3 =>
          cases ht
          exact ih hc h3
        next r hr => exact ih hc ht

theorem State.CanonIf.made {s t : State} {g : Group} {hd : Hdr} {sp : Space} {k : AKind} {align w : Nat}
    {addrs : List (Nat × W64)} {act : LaneFn} {xs : List (ATgt × Nat × Nat)} (h : s.CanonIf P) (ha : KeepsCanon P act)
    (ht : s.made g hd sp k align w addrs act = .ok xs t) : t.CanonIf P := by
  unfold State.made at ht
  split at ht
  · cases ht
  · cases ht
  · exact h.eachLane ha ht

theorem State.CanonIf.made_out {s0 s : State} {m : Made} {g : Group} {hd : Hdr} {next : List (Nat × Nat) → State → Out}
    (h0 : s0.CanonIf P) (h : s.CanonIf P) (hm : ∀ xs t, m = .ok xs t → t.CanonIf P)
    (hn : ∀ xs s, s.CanonIf P → Out.CanonIf P (next xs s)) : Out.CanonIf P (m.out s0 s g hd next) := by
  unfold Made.out
  split
  · exact h0.trap.next
  · exact (State.CanonIf.missing (h.foldl fun s x h => h.otherPool)).next
  · exact h.next
  · exact hn _ _ (State.CanonIf.askLines (hm _ _ rfl))

theorem State.CanonIf.withRelease {s : State} {g : Group} {scope : Scope} {next : State → Out} {pub : Bool}
    {early : State → Option Out} (h : s.CanonIf P) (hn : ∀ s, s.CanonIf P → Out.CanonIf P (next s))
    (he : ∀ s o, s.CanonIf P → early s = some o → Out.CanonIf P o) :
    Out.CanonIf P (s.withRelease g scope next pub early) := by
  have hs : (if (pub && 2 ≤ scope.code) = true then s.publish g.id.ctx g.id.task else (s, [])).1.CanonIf P := by
    split
    · exact h.publish
    · exact h
  unfold State.withRelease
  dsimp only
  generalize (if (pub && decide (2 ≤ scope.code)) = true then s.publish g.id.ctx g.id.task else (s, [])) = r at hs ⊢
  split
  · exact hs.missing.next
  · split
    · exact hs.next
    · split
      next o ho => exact he _ o hs ho
      next =>
        split
        · exact hn _ hs
        · exact hs.next

theorem execLd_canon {s : State} {h : Hdr} {ord : Order} {sp : Space} {ty : Ty} {d a b : Opd} {scope : Scope}
    (hc : s.Issuing P (.ld h ord sp ty d a b scope)) :
    Out.CanonIf P (execLd h ord sp ty d a b scope s) := by
  unfold execLd
  dsimp only
  refine hc.issue fun g hd => ?_
  split
  · exact hc.canon.retire.next
  · refine hc.canon.withChecked (fun accs => ?_) (fun ms => hc.canon.missing.next)
    refine State.CanonIf.next ?_
    split
    · exact hc.canon.touchLines.addLoad.acquire
    · exact hc.canon.touchLines.addLoad

theorem State.CanonIf.apertureStart {s : State} {g : Group} {off : Nat} {x : W64} (h : s.CanonIf P) :
    (s.apertureStart g off x).CanonIf P :=
  h.fresh.offer

theorem State.CanonIf.storePieces {g : Group} {c : Ctx} {direct : Bool} {ps : List Piece} {s t : State} {bs : List Byte} {n : Nat}
    (h : s.CanonIf P) (ht : s.storePieces g c direct ps bs = .ok n t) : t.CanonIf P := by
  induction ps generalizing s bs with
  | nil => cases ht; exact h
  | cons x ps ih =>
    unfold State.storePieces at ht
    dsimp only at ht
    split at ht
    · exact ih h.pubWrite ht
    · split at ht
      · exact ih h.pubChange ht
      · split at ht
        · cases ht
        · split at ht
          · cases ht
          next s1 h1 => exact ih (h.holdStore h1) ht

theorem State.CanonIf.storeLane {s t : State} {g : Group} {direct : Bool} {x : ATgt} {bs : List Byte} {n : Nat}
    (h : s.CanonIf P) (ht : s.storeLane g direct x bs = .ok n t) : t.CanonIf P := by
  unfold State.storeLane at ht
  split at ht
  · cases ht; exact h.writeScratch
  · cases ht; exact h.apertureStart
  · split at ht
    · cases ht; exact h
    · exact h.storePieces ht

theorem storeFn_canon {g : Group} {h : Hdr} {ty : Ty} {d : Opd} {direct : Bool} : KeepsCanon P (storeFn g h ty d direct) :=
  fun _ _ _ _ _ hc ht => hc.storeLane ht

theorem execSt_canon {s : State} {h : Hdr} {ord : Order} {sp : Space} {ty : Ty} {d a b : Opd} {scope : Scope}
    (hc : s.Issuing P (.st h ord sp ty d a b scope)) : Out.CanonIf P (execSt h ord sp ty d a b scope s) := by
  unfold execSt
  dsimp only
  refine hc.issue fun g hd => ?_
  have store {s1 : State} (h : s1.CanonIf P) : Out.CanonIf P
      ((s1.made g hd sp .store (ty.bits / 8) (ty.bits / 8) (laneAddrs g hd a b)
        (storeFn g hd ty d (decide (ord = .rel) && decide (2 ≤ scope.code)))).out s s1 g hd fun _ s2 => .next (s2.retire g hd)) :=
    State.CanonIf.made_out hc.canon h (fun xs t ht => h.made storeFn_canon ht) fun _ s2 h2 => h2.retire.next
  split
  · exact hc.canon.retire.next
  · refine hc.canon.withChecked (fun accs => ?_) fun _ => store hc.canon
    split
    · exact hc.canon.trap.next
    · split
      · exact hc.canon.next
      · split
        · refine hc.canon.withRelease (fun s1 h => store h) fun s1 o _ ho => ?_
          obtain ⟨t, -, rfl⟩ := Option.map_eq_some_iff.mp ho
          exact hc.canon.trap.next
        · exact store hc.canon

theorem execFence_canon {s : State} {h : Hdr} {ord : Order} {scope : Scope} (hc : s.Issuing P (.fence h ord scope)) :
    Out.CanonIf P (execFence h ord scope s) := by
  unfold execFence
  dsimp only
  refine hc.issue fun g hd => ?_
  split
  · refine hc.canon.withRelease (fun s1 h1 => ?_) (fun s1 o h1 a => nomatch a)
    refine State.CanonIf.next ?_
    split
    · exact h1.retire.acquire
    · exact h1.retire
  · split
    · exact hc.canon.next
    · refine State.CanonIf.next ?_
      split
      · exact hc.canon.retire.acquire
      · exact hc.canon.retire

theorem execPref_canon {s : State} {h : Hdr} {llc : Bool} {a b : Opd} (hc : s.Issuing P (.pref h llc a b)) :
    Out.CanonIf P (execPref h llc a b s) := by
  unfold execPref
  dsimp only
  refine hc.issue fun g hd => ?_
  refine State.CanonIf.next ?_
  refine State.CanonIf.retire ?_
  split
  · exact hc.canon.askLines
  · exact hc.canon.touchLines

theorem execCmaintInv_canon {s : State} {h : Hdr} {a b : Opd} (hc : s.Issuing P (.cmaintInv h a b)) :
    Out.CanonIf P (execCmaintInv h a b s) := by
  unfold execCmaintInv
  dsimp only
  refine hc.issue fun g hd => ?_
  split
  · exact hc.canon.retire.next
  · split
    · exact hc.canon.next
    · exact hc.canon.retire.dropL1.next

theorem execCmaintInvall_canon {s : State} {h : Hdr} (hc : s.Issuing P (.cmaintInvall h)) :
    Out.CanonIf P (execCmaintInvall h s) :=
  hc.issue fun g hd => hc.canon.retire.dropL1.next

/-! Atomics and ordered contributions. -/

theorem State.CanonIf.changePieces {s : State} {ctx : Nat} {ps : List Piece} {bs : List Byte} {drop_ : L1Line → Bool}
    (h : s.CanonIf P) :
    (s.changePieces ctx ps bs drop_).CanonIf P :=
  h.writePieces.dropL1

theorem State.CanonIf.atomLane {s : State} {g : Group} {owns : Bool} {fn : AtomFn} {ty : Ty} {t : ATgt} {x : Nat}
    (h : s.CanonIf P) : (s.atomLane g owns fn ty t x).2.CanonIf P := by
  unfold State.atomLane
  dsimp only
  split
  · exact h.writeScratch
  · exact h.changePieces
  · exact h

theorem atomLaneFn_canon {g : Group} {h : Hdr} {owns : Bool} {fn : AtomFn} {ty : Ty} {b : Opd} :
    KeepsCanon P (atomLaneFn g h owns fn ty b) := fun L x s t n hc ht => by
  unfold atomLaneFn at ht
  cases ht
  exact hc.atomLane

theorem getD_canon {o : Option Out} {x : Out} (hx : Out.CanonIf P x) (ho : ∀ y, o = some y → Out.CanonIf P y) :
    Out.CanonIf P (o.getD x) := by
  cases o with
  | none => exact hx
  | some y => exact ho y rfl

theorem atomEarly_canon {bads : List Nat} {m : Made} {f : Trap → Out} {x : List Nat → Out} {o : Out}
    (hf : ∀ t, Out.CanonIf P (f t)) (hx : ∀ ls, Out.CanonIf P (x ls))
    (ho : (match bads with | [] => m.trap?.map f | bads => some (x bads)) = some o) : Out.CanonIf P o := by
  split at ho
  · obtain ⟨t, -, rfl⟩ := Option.map_eq_some_iff.mp ho
    exact hf t
  · cases ho
    exact hx _

theorem execAtom_canon {s : State} {hd : Hdr} {fn : AtomFn} {ord : Order} {scope : Scope} {sp : Space} {ty : Ty} {d a b : Opd}
    (hc : s.Issuing P (.atom hd fn ord scope sp ty d a b)) : Out.CanonIf P (execAtom hd fn ord scope sp ty d a b s) := by
  have done {s : State} (h : s.CanonIf P) {g : Group} :
      Out.CanonIf P (.next (if (decide (ord = .acq) || decide (ord = .ar)) = true then s.acquire g.site scope else s)) := by
    refine State.CanonIf.next ?_
    split
    · exact h.acquire
    · exact h
  unfold execAtom
  dsimp only
  refine hc.issue fun g hd => ?_
  have trapped (t : Trap) : Out.CanonIf P (.next (s.trap g hd t)) := hc.canon.trap.next
  split
  · exact hc.canon.retire.next
  · refine hc.canon.withChecked (fun _ => ?_) fun _ => ?_
    · split
      · refine hc.canon.withRelease (fun s1 h => getD_canon ?_ fun o ho => ?_) fun s1 o _ ho => ?_
        · refine State.CanonIf.made_out hc.canon h (fun xs t ht => h.made atomLaneFn_canon ht) fun vals s2 h2 => done ?_
          split
          · exact h2.retire
          · exact h2.addLoad
        · exact atomEarly_canon trapped (fun _ => done hc.canon.askAddrs.addLoad) ho
        · exact atomEarly_canon trapped (fun _ => done hc.canon.askAddrs.addLoad) ho
      · refine getD_canon ?_ fun o ho => ?_
        · refine State.CanonIf.made_out hc.canon hc.canon (fun xs t ht => hc.canon.made atomLaneFn_canon ht)
            fun vals s2 h2 => done ?_
          split
          · exact h2.retire
          · exact h2.addLoad
        · exact atomEarly_canon trapped (fun _ => done hc.canon.askAddrs.addLoad) ho
    · exact State.CanonIf.made_out hc.canon hc.canon (fun xs t ht => hc.canon.made atomLaneFn_canon ht) fun _ s1 h => h.next

theorem atomoFn_canon {g : Group} {h : Hdr} {fn : FoldFn} {ty : Ty} {b c : Opd} : KeepsCanon P (atomoFn g h fn ty b c) :=
  fun L x s t n hc ht => by
  unfold atomoFn at ht
  split at ht
  · cases ht; exact hc
  · cases ht; exact hc

theorem execAtomo_canon {s : State} {h : Hdr} {fn : FoldFn} {ty : Ty} {a b c : Opd} (hc : s.Issuing P (.atomo h fn ty a b c)) :
    Out.CanonIf P (execAtomo h fn ty a b c s) := by
  unfold execAtomo
  dsimp only
  refine hc.issue fun g hd => ?_
  split
  · exact hc.canon.retire.next
  · exact hc.canon.made_out hc.canon (fun xs t a1 => hc.canon.made atomoFn_canon ‹_›) fun xs s1 h1 => h1.retire.next

theorem State.CanonIf.applyOrdered {s : State} {ps : List Piece} {o : Ordered} (h : s.CanonIf P) :
    (s.applyOrdered ps o).CanonIf P :=
  h.writePieces

theorem State.CanonIf.dropOrdered {s : State} {id : Nat} (h : s.CanonIf P) : (s.dropOrdered id).CanonIf P := by
  unfold State.dropOrdered
  exact h

theorem State.CanonIf.drainOrdered {ps : List Piece} {ctx ia n : Nat} {s : State} (h : s.CanonIf P) :
    (s.drainOrdered ps ctx ia n).CanonIf P := by
  induction n generalizing s with
  | zero => exact h
  | succ n ih =>
    unfold State.drainOrdered
    split
    · exact h
    · split
      · exact ih h.dropOrdered.reportCtx
      · exact ih h.dropOrdered.applyOrdered

theorem State.CanonIf.arriveOrdered {s : State} {o : Ordered} (h : s.CanonIf P) : (s.arriveOrdered o).CanonIf P := by
  unfold State.arriveOrdered
  dsimp only
  split
  · exact h
  · split
    · exact h.dropOrdered.reportCtx
    · split
      · exact h.dropOrdered.reportCtx
      · split
        · exact h.dropOrdered.applyOrdered.drainOrdered
        · split <;> exact h

theorem execAtomoArrival_canon {s : State} {n : Nat} (h : s.CanonIf P) : Out.CanonIf P (execAtomoArrival n s) := by
  unfold execAtomoArrival
  split
  · exact h.next
  · split
    · exact h.next
    · exact h.arriveOrdered.next

theorem execAtomoResend_canon {s : State} {n : Nat} (h : s.CanonIf P) : Out.CanonIf P (execAtomoResend n s) := by
  unfold execAtomoResend
  split
  · exact h.next
  · exact ⟨_, rfl, h⟩

/-! Milestone instructions. -/

theorem State.CanonIf.dropUpdate {s : State} {g : Group} {l : Loc} (h : s.CanonIf P) : (s.dropUpdate g l).CanonIf P :=
  h.reportCtx

theorem execMsinit_canon {s : State} {h : Hdr} {kind : MsKind} {rearm chunk : Bool} {d a b c : Opd}
    (hc : s.Issuing P (.msinit h kind rearm chunk d a b c)) : Out.CanonIf P (execMsinit h kind rearm chunk d a b c s) := by
  unfold execMsinit
  refine hc.issue fun g hd => hc.canon.withMs fun s l h => ?_
  extract_lets x m s1 s2
  have h1 : s1.CanonIf P := h.askMs.retire.putMs
  have h2 : s2.CanonIf P := h1.of_mem rfl rfl rfl
  split
  · exact h.trap.next
  · refine State.CanonIf.next ?_
    split
    · exact h2
    · exact h2.run

theorem State.CanonIf.uncorrAt {s s1 : State} {g : Group} {hd : Hdr} {l : Loc} {o : Out} (h : s.CanonIf P)
    (ho : s.uncorrAt g hd l s1 = some o) : Out.CanonIf P o := by
  unfold State.uncorrAt at ho
  split at ho
  · cases ho; exact h.trap.next
  · cases ho

theorem execMsarrArr_canon {s : State} {h : Hdr} {rel : Bool} {d a b : Opd} {scope : Scope}
    (hc : s.Issuing P (.msarrArr h rel d a b scope)) :
    Out.CanonIf P (execMsarrArr h rel d a b scope s) := by
  unfold execMsarrArr
  dsimp only
  refine hc.issue fun g hd => ?_
  refine hc.canon.withMs fun s1 l h1 => ?_
  split
  · refine h1.withRead (fun s2 m h2 => ?_)
    refine h1.withRelease (fun s3 h3 => ?_) fun s3 o h3 a1 => h1.uncorrAt ‹_›
    refine h3.withRead fun s4 m1 h4 => ?_
    split
    · exact h4.retire.dropUpdate.next
    · exact h4.retire.change.next
  · refine h1.withRead (fun s2 m h2 => ?_)
    split
    · exact h2.retire.dropUpdate.next
    · exact h2.retire.change.next

theorem execMsarrExp_canon {s : State} {h : Hdr} {d a b : Opd} (hc : s.Issuing P (.msarrExp h d a b)) :
    Out.CanonIf P (execMsarrExp h d a b s) := by
  unfold execMsarrExp
  dsimp only
  refine hc.issue fun g hd => ?_
  refine hc.canon.withMs fun s1 l h1 => ?_
  refine h1.withRead fun s2 m h2 => ?_
  split
  · exact h2.retire.dropUpdate.next
  · exact h2.retire.change.next

theorem State.CanonIf.noteBind {s : State} {g : Group} {tag : Nat} {r : W64} (h : s.CanonIf P) :
    (s.noteBind g tag r).CanonIf P := by
  unfold State.noteBind
  dsimp only
  refine State.CanonIf.updTeam ?_
  exact h

theorem execMsbind_canon {s : State} {h : Hdr} {a b : Opd} (hc : s.Issuing P (.msbind h a b)) :
    Out.CanonIf P (execMsbind h a b s) := by
  unfold execMsbind
  dsimp only
  refine hc.issue fun g hd => ?_
  refine hc.canon.withMs fun s1 l h1 => ?_
  refine h1.withRead fun s2 m h2 => ?_
  split
  · exact h2.retire.dropUpdate.next
  · refine State.CanonIf.next ?_
    split
    · exact h2.retire.putMs.noteBind.setTags.setTag
    · exact h2.retire.putMs.noteBind.setTags

theorem execMsbindUnbind_canon {s : State} {h : Hdr} {a : Opd} (hc : s.Issuing P (.msbindUnbind h a)) :
    Out.CanonIf P (execMsbindUnbind h a s) := by
  unfold execMsbindUnbind
  refine hc.issue fun g hd => ?_
  refine hc.canon.withMs fun s1 l h1 => ?_
  refine h1.withRead fun s2 m h2 => ?_
  split
  · exact h2.retire.dropUpdate.next
  · exact h2.retire.putMs.next

theorem execMsqry_canon {s : State} {h : Hdr} {field : MsField} {acq : Bool} {d a : Opd}
    (hc : s.Issuing P (.msqry h field acq d a)) :
    Out.CanonIf P (execMsqry h field acq d a s) := by
  unfold execMsqry
  dsimp only
  refine hc.issue fun g hd => ?_
  refine hc.canon.withMs fun s1 l h1 => ?_
  refine h1.withRead fun s2 m h2 => ?_
  refine State.CanonIf.next ?_
  split
  · exact h2.retire.acquire
  · exact h2.retire

theorem execTrig_canon {s : State} {h : Hdr} {a b c : Opd} (hc : s.Issuing P (.trig h a b c)) :
    Out.CanonIf P (execTrig h a b c s) := by
  unfold execTrig
  dsimp only
  refine hc.issue fun g hd => hc.canon.withMs fun s1 l h1 => .ite h1.trap.next (h1.withRead fun s2 m h2 => ?_)
  refine .ite h2.trap.next (.ite h2.next (.ite h2.park.next (.ite h2.retire.dropUpdate.next (.ite ?_ ?_))))
  · exact h2.retire.fireTrigger.run.next
  · exact ⟨_, rfl, h2⟩

theorem execTdef_canon {s : State} {h : Hdr} {a b : Opd} (hc : s.Issuing P (.tdef h a b)) :
    Out.CanonIf P (execTdef h a b s) := by
  unfold execTdef
  dsimp only
  refine hc.issue fun g hd => ?_
  split
  · exact hc.canon.trap.next
  · split
    · exact hc.canon.trap.next
    · split
      · exact hc.canon.trap.next
      · exact hc.canon.missing.next
      · exact hc.canon.next
      · exact hc.canon.trap.next
      · split
        · exact hc.canon.noteSpan.trap.next
        · exact hc.canon.noteSpan.retire.updCtx.next

theorem execTdefClr_canon {s : State} {h : Hdr} {b : Opd} (hc : s.Issuing P (.tdefClr h b)) :
    Out.CanonIf P (execTdefClr h b s) := by
  unfold execTdefClr
  dsimp only
  refine hc.issue fun g hd => ?_
  split
  · exact hc.canon.trap.next
  · exact hc.canon.retire.updCtx.next

theorem State.CanonIf.unclaim {s : State} {g : Group} {l : Loc} (h : s.CanonIf P) : (s.unclaim g l).CanonIf P := by
  unfold State.unclaim
  exact h

theorem State.CanonIf.resolve2 {s : State} {g : Group} {h : Hdr} {l : Loc} {v : W64} (hc : s.CanonIf P) :
    Out.CanonIf P (s.resolve2 g h l v) := by
  unfold State.resolve2
  dsimp only
  refine hc.withRelease (fun s1 h1 => ?_) fun s1 o h1 a => hc.unclaim.uncorrAt ‹_›
  refine h1.withRead fun s2 m h2 => ?_
  split
  · split
    · split
      · exact h2.unclaim.retire.change.next
      · exact h2.unclaim.retire.dropUpdate.next
    · exact h2.unclaim.retire.reportCtx.next
  · split
    · split
      · exact h2.unclaim.retire.change.next
      · exact h2.unclaim.retire.dropUpdate.next
    · exact h2.unclaim.retire.reportCtx.next

theorem execFres_canon {s : State} {h : Hdr} {a b : Opd} (hc : s.Issuing P (.fres h a b)) :
    Out.CanonIf P (execFres h a b s) := by
  unfold execFres
  dsimp only
  refine hc.issue fun g hd => ?_
  refine hc.canon.withMs fun s1 l h1 => ?_
  split
  · exact h1.resolve2
  · refine h1.withRead (fun s2 m h2 => ?_)
    split
    · exact h2.trap.next
    · split
      · exact h2.trap.next
      · refine State.CanonIf.resolve2 ?_
        exact h2

theorem execFreg_canon {s : State} {h : Hdr} {d a b : Opd} (hc : s.Issuing P (.freg h d a b)) :
    Out.CanonIf P (execFreg h d a b s) := by
  unfold execFreg
  dsimp only
  refine hc.issue fun g hd => ?_
  refine hc.canon.withMs fun s1 l h1 => ?_
  split
  · exact h1.trap.next
  · exact h1.missing.next
  · split
    · exact h1.next
    · refine h1.withRead (fun s2 m h2 => ?_)
      split
      · exact h2.trap.next
      · split
        · exact h2.trap.next
        · split
          · exact h2.retire.dropUpdate.next
          · split
            · exact h2.retire.putMs.next
            · split
              · exact h2.retire.updRef.next
              · exact h2.retire.next

/-! LAUNCH, RGROW, RSHRK and PROBE. -/

theorem execLaunch_canon {s : State} {h : Hdr} {d a : Opd} (hc : s.Issuing P (.launch h d a)) :
    Out.CanonIf P (execLaunch h d a s) := by
  unfold execLaunch
  dsimp only
  refine hc.issue fun g hd => ?_
  split
  · split
    · exact hc.canon.trap.next
    · split
      · exact hc.canon.trap.next
      · split
        · exact hc.canon.trap.next
        · exact hc.canon.missing.next
        · exact hc.canon.next
        · exact hc.canon.trap.next
        · split
          · exact hc.canon.noteSpan.trap.next
          · split
            · exact hc.canon.noteSpan.trap.next
            · split
              · exact hc.canon.noteSpan.trap.next
              · refine hc.canon.withRelease (fun s1 h1 => ?_) (fun s1 o h1 a1 => nomatch a1)
                split
                · exact h1.noteSpan.park.next
                · exact h1.noteSpan.retire.acceptLaunch.next
  · exact hc.canon.next

theorem State.CanonIf.grantLaunches {ctx n : Nat} {s : State} (h : s.CanonIf P) : (s.grantLaunches ctx n).CanonIf P := by
  induction n generalizing s with
  | zero => exact h
  | succ n ih =>
    unfold State.grantLaunches
    split
    · exact h
    · split
      · exact h
      · split
        · exact ih (State.CanonIf.acceptLaunch (State.CanonIf.complete h))
        · exact h

theorem execRgrow_canon {s : State} {h : Hdr} {a : Opd} (hc : s.Issuing P (.rgrow h a)) :
    Out.CanonIf P (execRgrow h a s) := by
  unfold execRgrow
  dsimp only
  refine hc.issue fun g hd => ?_
  split
  · exact hc.canon.next
  · split
    · exact hc.canon.trap.next
    · split
      · exact hc.canon.retire.next
      · split
        · split
          · exact hc.canon.trap.next
          · exact hc.canon.retire.next
        · split
          · exact hc.canon.retire.next
          · refine State.CanonIf.next ?_
            refine State.CanonIf.park ?_
            exact hc.canon

theorem execRshrk_canon {s : State} {h : Hdr} {a : Opd} (hc : s.Issuing P (.rshrk h a)) :
    Out.CanonIf P (execRshrk h a s) := by
  unfold execRshrk
  dsimp only
  refine hc.issue fun g hd => ?_
  split
  · exact hc.canon.trap.next
  · split
    · exact hc.canon.retire.next
    · split
      · exact hc.canon.next
      · exact hc.canon.retire.settleRegs.next

theorem execProbe_canon {s : State} {h : Hdr} {a : Opd} (hc : s.Issuing P (.probe h a)) :
    Out.CanonIf P (execProbe h a s) := by
  unfold execProbe
  dsimp only
  refine hc.issue fun g hd => ?_
  refine hc.canon.withMs fun s1 l h1 => ?_
  refine h1.withRead fun s2 m h2 => ?_
  split
  · exact h2.retire.next
  · refine State.CanonIf.next ?_
    refine State.CanonIf.park ?_
    exact h2

end Sys2Proof.Machine
end

section
/-! Towards O59 and O60: tier moves, ember pages, remap windows and matrix units. -/

namespace Sys2Proof.Machine

variable {P : Prop}

/-! Tier moves, migrations, ember pages and remap windows. -/

theorem execTier_canon {s : State} {h : Hdr} {lp : Bool} {a b m : Opd} (hc : s.Issuing P (.tier h lp a b m)) :
    Out.CanonIf P (execTier h lp a b m s) := by
  unfold execTier
  dsimp only
  refine hc.issue fun g hd => ?_
  split
  · exact hc.canon.next
  · split
    · exact hc.canon.trap.next
    · split
      · exact hc.canon.trap.next
      · split
        · exact hc.canon.trap.next
        · refine State.CanonIf.next ?_
          exact hc.canon

theorem State.CanonIf.copyFrame {s : State} {src dst : Nat} (h : s.CanonIf P) : (s.copyFrame src dst).CanonIf P := h.writeMem

theorem State.CanonIf.copyPoison {s : State} {src dst : Nat} (h : s.CanonIf P) : (s.copyPoison src dst).CanonIf P := h.spoilMem

theorem State.CanonIf.setTier {s : State} {t : Tier} (h : s.CanonIf P) : (s.setTier t).CanonIf P := by
  unfold State.setTier
  exact h

theorem State.CanonIf.freeFrame {s : State} {ctx frame : Nat} (h : s.CanonIf P) : (s.freeFrame ctx frame).CanonIf P :=
  h.reportCtx

theorem State.CanonIf.tierPage {s : State} {t : Tier} (h : s.CanonIf P) : (s.tierPage t).CanonIf P := by
  unfold State.tierPage
  dsimp only
  split
  · split
    · exact h.setTier
    · split
      · exact h.setTier
      · split
        · exact h
        · split
          · exact h.setTier
          · split
            · exact h.setTier
            · split
              · exact h.setTier
              · exact ((((h.takeFrame ‹_›).copyFrame).writeLeaf).freeFrame).setTier
  · exact h

theorem execTierPageMove_canon {s : State} {n : Nat} (h : s.CanonIf P) : Out.CanonIf P (execTierPageMove n s) := by
  unfold execTierPageMove
  split
  · exact h.next
  · exact h.tierPage.next

theorem State.CanonIf.finishAt {s t : State} {ctx cluster bytes err : Nat} {task ms : W64} {rep : Nat → Report} (h : s.CanonIf P)
    (ht : s.finishAt ctx task cluster ms bytes err rep = some t) : t.CanonIf P := by
  unfold State.finishAt at ht
  dsimp only at ht
  split at ht
  · split at ht
    · cases ht
      exact h
    · cases ht
      exact h.reportCtx
  · split at ht
    · split at ht
      · cases ht
        exact h.reportCtx
      · cases ht
        exact h.reportCtx
    · cases ht
    · split at ht
      · cases ht
        exact h.updRef
      · cases ht
        exact h.updRef

theorem execTierComplete_canon {s : State} {n : Nat} (h : s.CanonIf P) : Out.CanonIf P (execTierComplete n s) := by
  unfold execTierComplete
  dsimp only
  split
  · exact h.next
  · split
    · refine State.CanonIf.next ?_
      refine State.CanonIf.finishAt ?_ ‹_›
      exact h
    · split
      · exact ((h.foldl (fun s1 x h1 => h1.reportCtx)).setTier).next
      · exact h.next

theorem State.CanonIf.movePage {s : State} {m : Migration} (h : s.CanonIf P) : (s.movePage m).CanonIf P := by
  unfold State.movePage
  dsimp only
  split
  · exact h
  · split
    · exact h
    · split
      · refine State.CanonIf.of_mem ?_ rfl rfl rfl
        refine State.CanonIf.writeLeaf ?_
        exact h
      · split
        · exact h
        · refine State.CanonIf.of_mem ?_ rfl rfl rfl
          refine State.CanonIf.freeFrame ?_
          refine State.CanonIf.writeLeaf ?_
          refine State.CanonIf.copyPoison ?_
          refine State.CanonIf.copyFrame ?_
          refine State.CanonIf.takeFrame ?_ ‹_›
          exact h

theorem State.CanonIf.migrate {s : State} {m : Migration} (h : s.CanonIf P) : (s.migrate m).CanonIf P := by
  unfold State.migrate
  dsimp only
  exact h.movePage.retryLate.retryJoins

theorem execPageMigration_canon {s : State} {n : Nat} (h : s.CanonIf P) : Out.CanonIf P (execPageMigration n s) := by
  unfold execPageMigration
  split
  · exact h.next
  · exact h.migrate.next

theorem execErsv_canon {s : State} {h : Hdr} {d a b : Opd} (hc : s.Issuing P (.ersv h d a b)) :
    Out.CanonIf P (execErsv h d a b s) := by
  unfold execErsv
  dsimp only
  refine hc.issue fun g hd => ?_
  split
  · exact hc.canon.next
  · split
    · exact hc.canon.retire.next
    · split
      · exact hc.canon.retire.updCtx.next
      · exact hc.canon.retire.next

theorem execErel_canon {s : State} {h : Hdr} {a : Opd} (hc : s.Issuing P (.erel h a)) : Out.CanonIf P (execErel h a s) :=
  hc.issue fun g hd => hc.canon.retire.updCtx.next

theorem State.CanonIf.zeroBytes {s : State} {l : Leaf} {ctx ia n : Nat} (h : s.CanonIf P) :
    (s.zeroBytes l ctx ia n).CanonIf P := by
  unfold State.zeroBytes
  split
  · exact h
  · exact h.pubWrite

theorem State.CanonIf.discard {s : State} {c : Ctx} {x : Piece} (h : s.CanonIf P) : (s.discard c x).CanonIf P := by
  unfold State.discard
  dsimp only
  split
  · exact h
  · split
    · exact h.zeroBytes
    · split
      · split
        · refine State.CanonIf.reportCtx ?_
          refine State.CanonIf.writeLeaf ?_
          exact h
        · exact h
      · refine State.CanonIf.zeroBytes ?_
        refine State.CanonIf.zeroBytes ?_
        exact h

theorem execEdisc_canon {s : State} {h : Hdr} {a b : Opd} (hc : s.Issuing P (.edisc h a b)) :
    Out.CanonIf P (execEdisc h a b s) := by
  unfold execEdisc
  dsimp only
  refine hc.issue fun g hd => ?_
  split
  · exact hc.canon.trap.next
  · split
    · exact hc.canon.next
    · split
      · exact hc.canon.next
      · split
        · exact hc.canon.trap.next
        · exact hc.canon.missing.next
        · split
          · exact hc.canon.next
          · exact ((hc.canon.foldl (fun s1 x h1 => h1.discard)).retire).next

theorem State.CanonIf.emberMove {s : State} {ctx page : Nat} {l : Leaf} {cluster : Nat} (h : s.CanonIf P) :
    (s.emberMove ctx page l cluster).CanonIf P := by
  unfold State.emberMove
  dsimp only
  split
  · exact h
  · refine State.CanonIf.foldl ?_ (fun s1 x h1 => ?_)
    · refine State.CanonIf.writeLeaf ?_
      exact h
    · split
      · exact h1.leaveEmber
      · exact h1

theorem execEmig_canon {s : State} {h : Hdr} {a b c : Opd} (hc : s.Issuing P (.emig h a b c)) :
    Out.CanonIf P (execEmig h a b c s) := by
  unfold execEmig
  dsimp only
  refine hc.issue fun g hd => ?_
  split
  · exact hc.canon.trap.next
  · split
    · exact hc.canon.next
    · split
      · exact hc.canon.trap.next
      · split
        · exact hc.canon.trap.next
        · split
          · exact hc.canon.next
          · split
            · exact hc.canon.trap.next
            · exact hc.canon.missing.next
            · split
              · exact hc.canon.next
              · exact ((hc.canon.foldl (fun s1 x h1 => h1.emberMove)).retire).next

theorem execEmberLineEvict_canon {s : State} {n : Nat} (h : s.CanonIf P) : Out.CanonIf P (execEmberLineEvict n s) := by
  unfold execEmberLineEvict
  split
  · exact h.next
  · split
    · exact h.leaveEmber.next
    · exact h.next

theorem State.CanonIf.withWindow {s : State} {g : Group} {hd : Hdr} {w : Opd} {out : Group → Hdr → Remap → Bool}
    {k : State → Ctx → Remap → Out} (h : s.CanonIf P) (hk : ∀ s c x, s.CanonIf P → Out.CanonIf P (k s c x)) :
    Out.CanonIf P (s.withWindow g hd w out k) := by
  unfold State.withWindow
  dsimp only
  split
  · exact h.next
  · split
    · exact h.trap.next
    · split
      · exact h.trap.next
      · refine h.withRelease (fun s hs => ?_) fun s1 o _ ho => ?_
        · split
          · exact hs.missing.next
          · exact hs.next
          · exact h.trap.next
          · exact hk _ _ _ hs
        · split at ho
          · cases ho; exact h.trap.next
          · split at ho
            · cases ho; exact h.trap.next
            · cases ho
          · cases ho

theorem State.Issuing.rowEntry {s : State} {i : Instr} {d w row : Opd} {new : Option Opd} (h : s.Issuing P i) :
    Out.CanonIf P (s.rowEntry i d w row new) := by
  unfold State.rowEntry
  dsimp only
  refine h.issue fun g hd => ?_
  refine h.canon.withWindow fun s1 c x h1 => ?_
  split
  · exact h1.missing.next
  · exact h1.next
  · refine State.CanonIf.next ?_
    refine State.CanonIf.acquire ?_
    split
    · exact h1.retire.iaWrite
    · exact h1.retire

theorem execRmset_canon {s : State} {h : Hdr} {d a b c : Opd} (hc : s.Issuing P (.rmset h d a b c)) :
    Out.CanonIf P (execRmset h d a b c s) :=
  hc.rowEntry

theorem execRmsetGet_canon {s : State} {h : Hdr} {d a b : Opd} (hc : s.Issuing P (.rmsetGet h d a b)) :
    Out.CanonIf P (execRmsetGet h d a b s) :=
  hc.rowEntry

theorem State.CanonIf.pushBlock {s t : State} {c : Ctx} {cluster : Nat} {task : W64} {d : Remap} {b : Nat} (h : s.CanonIf P)
    (ht : s.pushBlock c cluster task d b = .done t) : t.CanonIf P := by
  unfold State.pushBlock at ht
  dsimp only at ht
  split at ht
  · cases ht
    exact h.reportCtx
  · split at ht
    · cases ht
    · cases ht
    · cases ht
      exact h.iaWrite.iaWrite

theorem State.Issuing.refCount {s : State} {i : Instr} {d w block : Opd} {f : Group → Hdr → RefFn} (h : s.Issuing P i) :
    Out.CanonIf P (s.refCount i d w block f) := by
  unfold State.refCount
  dsimp only
  refine h.issue fun g hd => ?_
  refine h.canon.withWindow fun s1 c x h1 => ?_
  split
  · exact h1.missing.next
  · exact h1.next
  · split
    · split
      · exact h1.missing.next
      · exact h1.next
      · exact (((h1.iaWrite.pushBlock ‹_›).retire).acquire).next
    · exact h1.iaWrite.retire.acquire.next

theorem execRmrefInc_canon {s : State} {h : Hdr} {d a b : Opd} (hc : s.Issuing P (.rmrefInc h d a b)) :
    Out.CanonIf P (execRmrefInc h d a b s) :=
  hc.refCount

theorem execRmrefDec_canon {s : State} {h : Hdr} {d a b : Opd} (hc : s.Issuing P (.rmrefDec h d a b)) :
    Out.CanonIf P (execRmrefDec h d a b s) :=
  hc.refCount

theorem execRmrefGet_canon {s : State} {h : Hdr} {d a b : Opd} (hc : s.Issuing P (.rmrefGet h d a b)) :
    Out.CanonIf P (execRmrefGet h d a b s) :=
  hc.refCount

theorem execRmrefSet_canon {s : State} {h : Hdr} {d a b c : Opd} (hc : s.Issuing P (.rmrefSet h d a b c)) :
    Out.CanonIf P (execRmrefSet h d a b c s) :=
  hc.refCount

/-! Matrix units. -/

theorem State.CanonIf.setUnit {s : State} {u : Nat} {m : MUnit} (h : s.CanonIf P) : (s.setUnit u m).CanonIf P := by
  unfold State.setUnit
  exact h

theorem State.CanonIf.queueStep {s : State} {u : Nat} {t : MStep} (h : s.CanonIf P) : (s.queueStep u t).CanonIf P := h.setUnit

theorem State.CanonIf.grantSlots {u n : Nat} {s : State} (h : s.CanonIf P) : (s.grantSlots u n).CanonIf P := by
  induction n generalizing s with
  | zero => exact h
  | succ n ih =>
    unfold State.grantSlots
    split
    · split
      · split
        · exact h
        · exact ih (State.CanonIf.setGroup h)
      · exact h
    · exact h

theorem State.CanonIf.grantSteps {u n : Nat} {s : State} (h : s.CanonIf P) : (s.grantSteps u n).CanonIf P := by
  induction n generalizing s with
  | zero => exact h
  | succ n ih =>
    unfold State.grantSteps
    split
    · exact h
    · split
      · exact h
      · split
        · exact ih h.queueStep.complete
        · exact h

theorem State.CanonIf.trapParked {s : State} {g : Group} {t : Trap} (h : s.CanonIf P) : (s.trapParked g t).CanonIf P :=
  h.trapIssued

theorem State.CanonIf.loadCodebook {s : State} {g : Group} {a : W64} {trap : Trap → State} {done : State → State}
    (h : s.CanonIf P) (ht : ∀ t, (trap t).CanonIf P) (hd : ∀ s, s.CanonIf P → (done s).CanonIf P) :
    (s.loadCodebook g a trap done).CanonIf P := by
  unfold State.loadCodebook
  split
  · exact ht _
  · exact h.missing
  · exact h.setGroup
  · exact ht _
  · exact hd _ h.noteSpan.updCtx

theorem State.CanonIf.finishCblds {s : State} (h : s.CanonIf P) : (s.finishCblds).CanonIf P := by
  unfold State.finishCblds
  refine h.foldl fun s1 x h1 => ?_
  split
  · split
    · exact h1
    · exact h1.loadCodebook (fun t => h1.trapParked) fun s2 h2 => h2.complete
  · exact h1

theorem State.CanonIf.enterUnit {s : State} {u : Nat} (h : s.CanonIf P) : (s.enterUnit u).CanonIf P := by
  unfold State.enterUnit
  dsimp only
  split
  · exact h
  · split <;> exact h

theorem State.CanonIf.unitService {s : State} {u : Nat} (h : s.CanonIf P) : (s.unitService u).CanonIf P :=
  h.setUnit.enterUnit.grantSlots.grantSteps.finishCblds

theorem execMatrixStepBegin_canon {s : State} {unit : Nat} (h : s.CanonIf P) :
    Out.CanonIf P (execMatrixStepBegin unit s) := by
  unfold execMatrixStepBegin
  dsimp only
  split
  · exact h.next
  · split
    · exact h.setUnit.next
    · exact h.next

theorem execMatrixStepComplete_canon {s : State} {unit : Nat} (h : s.CanonIf P) :
    Out.CanonIf P (execMatrixStepComplete unit s) := by
  unfold execMatrixStepComplete
  dsimp only
  split
  · exact h.next
  · split
    · refine State.CanonIf.next ?_
      refine State.CanonIf.unitService ?_
      split
      · split
        · exact h.setUnit
        · exact h.setUnit.reportCtx
      · split
        · exact h.setUnit
        · exact h.setUnit.reportCtx
    · exact h.next

theorem State.CanonIf.noteRef {s : State} {g : Group} {a : W64} {n : Nat} (h : s.CanonIf P) :
    (s.noteRef g a n).CanonIf P := by
  unfold State.noteRef
  split
  · exact h
  · exact h.noteSpan

theorem State.CanonIf.noteScales {s : State} {g : Group} {f : FmtBlock} {b : List Byte} {klog : Nat} (h : s.CanonIf P) :
    (s.noteScales g f b klog).CanonIf P := by
  unfold State.noteScales
  dsimp only
  split
  · split
    · exact h
    · exact h.noteRef
  · refine State.CanonIf.noteRef ?_
    split
    · exact h
    · exact h.noteRef

theorem State.CanonIf.withRd {s seen : State} {g : Group} {hd : Hdr} {r : Rd} {k : List Byte → Out} (h : s.CanonIf P)
    (hs : seen.CanonIf P) (hk : ∀ b, Out.CanonIf P (k b)) : Out.CanonIf P (s.withRd g hd r k seen) := by
  unfold State.withRd
  split
  · exact hs.trap.next
  · exact h.missing.next
  · exact h.next
  · exact hs.trap.next
  · exact hk _

theorem State.CanonIf.placeStep_fresh {s : State} {g : Group} {hd : Hdr} {u : Nat} {t : MStep} {m : MUnit} {d : Opd}
    {queue : State → Group → MStep → State} (h : s.CanonIf P) (hq : ∀ s g t, s.CanonIf P → (queue s g t).CanonIf P) :
    (State.placeStep.fresh s g hd u t m d queue).CanonIf P := by
  unfold State.placeStep.fresh
  split
  · split
    · exact hq _ _ _ h.setUnit
    · exact h.park
  · exact h.park

theorem State.CanonIf.placeStep {s : State} {g : Group} {hd : Hdr} {u : Nat} {d : Option Opd} {t : MStep} (h : s.CanonIf P) :
    (s.placeStep g hd u d t).CanonIf P := by
  have queue (s : State) (g : Group) (t : MStep) (h : s.CanonIf P) :
      (if ((s.munit u).full || !(s.parkedBy (Park.onSteps u)).isEmpty) = true then s.park g hd (.steps u t)
        else (s.queueStep u t).retire { g with granted := none } hd).CanonIf P := by
    split
    · exact h.park
    · exact h.queueStep.retire
  unfold State.placeStep
  dsimp only
  split
  · exact queue _ _ _ h
  · split
    · split
      · exact queue _ _ _ h
      · exact h.placeStep_fresh queue
    · exact h.placeStep_fresh queue

theorem State.Issuing.mma {s : State} {i : Instr} {d : Option Opd} {ctl fb : Opd} {md : Option Opd} (h : s.Issuing P i) :
    Out.CanonIf P (s.mma i d ctl fb md) := by
  unfold State.mma
  dsimp only
  refine h.issue fun g hd => ?_
  split
  · exact h.canon.trap.next
  · split
    · exact h.canon.next
    · split
      · exact h.canon.park.next
      · split
        · exact h.canon.trap.next
        · split
          · exact h.canon.trap.next
          · refine h.canon.withRd h.canon (fun b => ?_)
            split
            · exact h.canon.noteRef.trap.next
            · refine h.canon.withRd h.canon.noteRef (fun b1 => ?_)
              split
              · exact h.canon.noteRef.noteScales.placeStep.next
              · split
                · exact h.canon.noteRef.noteScales.trap.next
                · exact h.canon.withRd h.canon.noteRef.noteScales fun b2 => h.canon.noteRef.noteScales.noteRef.placeStep.next

theorem execMma_canon {s : State} {h : Hdr} {a b : Opd} (hc : s.Issuing P (.mma h a b)) : Out.CanonIf P (execMma h a b s) :=
  hc.mma

theorem execMmaNew_canon {s : State} {h : Hdr} {d a b : Opd} (hc : s.Issuing P (.mmaNew h d a b)) :
    Out.CanonIf P (execMmaNew h d a b s) :=
  hc.mma

theorem execMmas_canon {s : State} {h : Hdr} {a b c : Opd} (hc : s.Issuing P (.mmas h a b c)) :
    Out.CanonIf P (execMmas h a b c s) :=
  hc.mma

theorem execMmasNew_canon {s : State} {h : Hdr} {d a b c : Opd} (hc : s.Issuing P (.mmasNew h d a b c)) :
    Out.CanonIf P (execMmasNew h d a b c s) :=
  hc.mma

theorem execAccrel_canon {s : State} {h : Hdr} {a : Opd} (hc : s.Issuing P (.accrel h a)) :
    Out.CanonIf P (execAccrel h a s) := by
  unfold execAccrel
  dsimp only
  refine hc.issue fun g hd => ?_
  split
  · exact hc.canon.trap.next
  · split
    · exact hc.canon.next
    · split
      · exact hc.canon.trap.next
      · exact hc.canon.retire.setUnit.unitService.next

theorem execAccdr_canon {s : State} {h : Hdr} {ty : Ty} {d a b : Opd} (hc : s.Issuing P (.accdr h ty d a b)) :
    Out.CanonIf P (execAccdr h ty d a b s) := by
  unfold execAccdr
  dsimp only
  refine hc.issue fun g hd => ?_
  split
  · exact hc.canon.trap.next
  · split
    · exact hc.canon.retire.next
    · exact hc.canon.addLoad.next

theorem State.CanonIf.failLoad {s : State} {l : Load} {t : Trap} (h : s.CanonIf P) : (s.failLoad l t).CanonIf P := by
  unfold State.failLoad
  dsimp only
  refine State.CanonIf.updGroup ?_
  exact h

theorem execAccdrRead_canon {s : State} {n : Nat} (h : s.CanonIf P) : Out.CanonIf P (execAccdrRead n s) := by
  unfold execAccdrRead
  dsimp only
  split
  · exact h.next
  · split
    · split
      · exact h.next
      · split
        · exact h.failLoad.next
        · split
          · exact h.failLoad.next
          · exact ⟨_, rfl, h⟩
    · exact h.next

theorem execCbld_canon {s : State} {h : Hdr} {a : Opd} (hc : s.Issuing P (.cbld h a)) : Out.CanonIf P (execCbld h a s) := by
  unfold execCbld
  dsimp only
  refine hc.issue fun g hd => ?_
  split
  · exact hc.canon.trap.next
  · split
    · exact (hc.canon.loadCodebook (fun t => hc.canon.trap) (fun s1 h1 => h1.retire)).next
    · exact hc.canon.park.next

theorem execStrmCnt_canon {s : State} {h : Hdr} {d a : Opd} (hc : s.Issuing P (.strmCnt h d a)) :
    Out.CanonIf P (execStrmCnt h d a s) := by
  unfold execStrmCnt
  dsimp only
  refine hc.issue fun g hd => ?_
  split
  · exact hc.canon.trap.next
  · split
    · exact hc.canon.next
    · split
      · exact hc.canon.park.next
      · exact hc.canon.retire.next

theorem execStrmDrop_canon {s : State} {h : Hdr} {d a b : Opd} (hc : s.Issuing P (.strmDrop h d a b)) :
    Out.CanonIf P (execStrmDrop h d a b s) := by
  unfold execStrmDrop
  dsimp only
  refine hc.issue fun g hd => ?_
  split
  · exact hc.canon.trap.next
  · split
    · exact hc.canon.next
    · split
      · exact hc.canon.park.next
      · split
        · exact hc.canon.retire.next
        · split
          · exact hc.canon.park.next
          · exact hc.canon.retire.setUnit.unitService.next

/-! The quasi-random unit. -/

theorem execQld_canon {s : State} {h : Hdr} {a b c : Opd} (hc : s.Issuing P (.qld h a b c)) :
    Out.CanonIf P (execQld h a b c s) := by
  unfold execQld
  dsimp only
  refine hc.issue fun g hd => ?_
  split
  · exact hc.canon.retire.next
  · split
    · split
      · exact hc.canon.trap.next
      · split
        · exact hc.canon.retire.updCtx.next
        · split
          · exact hc.canon.trap.next
          · exact hc.canon.withRd hc.canon fun b1 => hc.canon.noteSpan.retire.updCtx.next
    · split
      · exact hc.canon.trap.next
      · split
        · exact hc.canon.retire.updCtx.next
        · split
          · exact hc.canon.trap.next
          · exact hc.canon.withRd hc.canon fun b1 => hc.canon.noteSpan.retire.updCtx.next

theorem execQset_canon {s : State} {h : Hdr} {a : Opd} (hc : s.Issuing P (.qset h a)) : Out.CanonIf P (execQset h a s) :=
  hc.issue fun g hd => hc.canon.retire.updCtx.next

theorem State.CanonIf.askQ {s : State} {site : Site} {ctx : Nat} (h : s.CanonIf P) : (s.askQ site ctx).CanonIf P := by
  unfold State.askQ
  split
  · split <;> exact h
  · exact h

theorem execQrs_canon {s : State} {h : Hdr} {ty : Ty} {d a b : Opd} (hc : s.Issuing P (.qrs h ty d a b)) :
    Out.CanonIf P (execQrs h ty d a b s) := by
  unfold execQrs
  dsimp only
  refine hc.issue fun g hd => ?_
  split
  · exact hc.canon.next
  · split
    · exact hc.canon.askQ.next
    · split
      · exact hc.canon.trap.next
      · exact hc.canon.retire.next

theorem execQrsStateLoad_canon {s : State} {core : Nat} (h : s.CanonIf P) : Out.CanonIf P (execQrsStateLoad core s) := by
  unfold execQrsStateLoad
  split
  · exact h.next
  · exact ⟨_, rfl, h⟩

end Sys2Proof.Machine
end

section
/-! Towards O59 and O60: the fabric and the block transfer engines. -/

namespace Sys2Proof.Machine

variable {P : Prop}

/-! The fabric. -/

theorem State.CanonIf.bind {s : State} {c : Ctx} {k : Nat} {b : Option Binding} (h : s.CanonIf P) :
    (s.bind c k b).CanonIf P :=
  h.updCtx

theorem State.CanonIf.passOn {s : State} {part : Nat} {k hop : Option Nat} {cost : Nat} (h : s.CanonIf P) :
    (s.passOn part k hop cost).CanonIf P := by
  unfold State.passOn
  split
  · exact h.updCtx
  · exact h

theorem State.CanonIf.withSlot {s : State} {g : Group} {hd : Hdr} {o : Opd} {k : Nat → Out} (h : s.CanonIf P)
    (hk : ∀ n, Out.CanonIf P (k n)) : Out.CanonIf P (s.withSlot g hd o k) := by
  unfold State.withSlot
  dsimp only
  split
  · exact h.trap.next
  · exact hk _

theorem State.CanonIf.unq {s : State} {id : GroupId} (h : s.CanonIf P) : (s.unq id).CanonIf P := by
  unfold State.unq
  exact h

theorem State.CanonIf.withAllowance {s : State} {g : Group} {hd : Hdr} {k cost : Nat} {next : State → Out} (h : s.CanonIf P)
    (hn : ∀ s, s.CanonIf P → Out.CanonIf P (next s)) : Out.CanonIf P (s.withAllowance g hd k cost next) := by
  unfold State.withAllowance
  split
  · exact h.next
  · split
    · exact h.next
    · split
      · refine (State.CanonIf.park ?_).next
        split
        · exact h
        · exact h
      · exact hn _ h.unq.updCtx

theorem State.CanonIf.withBinding {s : State} {g : Group} {hd : Hdr} {o : Opd} {k : Ctx → Place5 → Nat → Binding → Out}
    (h : s.CanonIf P) (hk : ∀ c x n b, Out.CanonIf P (k c x n b)) : Out.CanonIf P (s.withBinding g hd o k) := by
  unfold State.withBinding
  refine h.withSlot fun n => ?_
  split
  · exact h.next
  · split
    · exact h.trap.next
    · exact hk _ _ _ _

theorem State.CanonIf.expectAcks {s : State} {g : Group} {b : Binding} {dsts : List (List Nat)} {tag : Nat}
    {until_ : Option Nat} (h : s.CanonIf P) :
    (s.expectAcks g b dsts tag until_).CanonIf P := by
  unfold State.expectAcks
  dsimp only
  split
  · exact h
  · split <;> exact h.updRef

theorem State.CanonIf.noteSent {s : State} {id : GroupId} {x : Place5} {seq : Nat} (h : s.CanonIf P) :
    (s.noteSent id x seq).CanonIf P := by
  unfold State.noteSent
  exact h

theorem State.CanonIf.send {s : State} {part cost : Nat} {x : Place5} {b : Binding} {body : Landing} (h : s.CanonIf P) :
    (s.send part x b cost body).CanonIf P := by
  unfold State.send
  exact h

theorem execSabind_canon {s : State} {h : Hdr} {a b c : Opd} (hc : s.Issuing P (.sabind h a b c)) :
    Out.CanonIf P (execSabind h a b c s) := by
  unfold execSabind
  dsimp only
  refine hc.issue fun g hd => ?_
  refine hc.canon.withSlot fun n => ?_
  split
  · exact hc.canon.next
  · split
    · exact hc.canon.trap.next
    · split
      · exact hc.canon.retire.bind.next
      · split
        · exact hc.canon.trap.next
        · exact hc.canon.missing.next
        · split
          · exact hc.canon.next
          · exact hc.canon.retire.bind.next

theorem execSabindDst_canon {s : State} {h : Hdr} {a b : Opd} (hc : s.Issuing P (.sabindDst h a b)) :
    Out.CanonIf P (execSabindDst h a b s) := by
  unfold execSabindDst
  dsimp only
  refine hc.issue fun g hd => ?_
  refine hc.canon.withBinding fun c x n b1 => ?_
  split
  · exact hc.canon.trap.next
  · split
    · split
      · exact hc.canon.trap.next
      · exact hc.canon.retire.updCtx.next
    · split
      · exact hc.canon.trap.next
      · exact hc.canon.retire.updCtx.next

theorem execSabindClr_canon {s : State} {h : Hdr} {a : Opd} (hc : s.Issuing P (.sabindClr h a)) :
    Out.CanonIf P (execSabindClr h a s) := by
  unfold execSabindClr
  refine hc.issue fun g hd => ?_
  refine hc.canon.withSlot fun n => ?_
  split
  · exact hc.canon.next
  · exact hc.canon.retire.bind.next

theorem execPcnt_canon {s : State} {h : Hdr} {d a : Opd} (hc : s.Issuing P (.pcnt h d a)) :
    Out.CanonIf P (execPcnt h d a s) := by
  unfold execPcnt
  dsimp only
  refine hc.issue fun g hd => ?_
  split
  · exact hc.canon.next
  · split
    · exact hc.canon.trap.next
    · exact hc.canon.retire.next

theorem execBsa_canon {s : State} {h : Hdr} {lt : Bool} {slot thr t : Opd} (hc : s.Issuing P (.bsa h lt slot thr t)) :
    Out.CanonIf P (execBsa h lt slot thr t s) := by
  unfold execBsa
  dsimp only
  refine hc.issue fun g hd => ?_
  refine hc.canon.withSlot fun n => ?_
  split
  · split
    · exact hc.canon.transfer.next
    · exact hc.canon.retire.next
  · split
    · exact hc.canon.transfer.next
    · exact hc.canon.retire.next

theorem execRst_canon {s : State} {h : Hdr} {ty : Ty} {d a b : Opd} (hc : s.Issuing P (.rst h ty d a b)) :
    Out.CanonIf P (execRst h ty d a b s) := by
  unfold execRst
  dsimp only
  refine hc.issue fun g hd => ?_
  refine hc.canon.unq.withBinding fun c x n b1 => ?_
  split
  · exact hc.canon.unq.trap.next
  · split
    · exact hc.canon.unq.retire.next
    · exact hc.canon.withAllowance fun s1 h1 => h1.retire.expectAcks.noteSent.send.next

theorem State.CanonIf.setRedCount {s : State} {c : Contribution} {n : Nat} (h : s.CanonIf P) :
    (s.setRedCount c n).CanonIf P := by
  unfold State.setRedCount
  exact h

theorem State.CanonIf.updLink {s : State} {i : Nat} {f : Link → Link} (h : s.CanonIf P) : (s.updLink i f).CanonIf P := by
  unfold State.updLink
  split <;> exact h

theorem State.CanonIf.dropStale {s : State} {r : Rejoin} (h : s.CanonIf P) : (s.dropStale r).CanonIf P := h.updLink

theorem State.CanonIf.deliver {s : State} {coord : List Nat} {body : Landing} (h : s.CanonIf P) :
    (s.deliver coord body).CanonIf P := by
  unfold State.deliver
  split
  · exact h
  · split
    · exact h.dropStale
    · exact h

theorem State.CanonIf.passRound {s : State} {r : Round} (h : s.CanonIf P) : (s.passRound r).CanonIf P := by
  unfold State.passRound
  refine h.foldl fun s1 x h1 => ?_
  split
  · exact h1
  · exact h1.passOn

theorem State.CanonIf.flushRounds {c : Contribution} {n : Nat} {s : State} (h : s.CanonIf P) : (s.flushRounds c n).CanonIf P := by
  induction n generalizing s with
  | zero => exact h
  | succ n ih =>
    unfold State.flushRounds
    split
    · exact h
    next r hr => exact ih (State.CanonIf.passRound (State.CanonIf.deliver (s := { s with rounds := _ }) h))

theorem State.CanonIf.joinRound {s : State} {c : Contribution} (h : s.CanonIf P) : (s.joinRound c).CanonIf P := by
  have hcount (k : Nat) (c1 : Contribution) : (if k = c.round then s else s.setRedCount c1 (k + 1)).CanonIf P := by
    split
    · exact h
    · exact h.setRedCount
  unfold State.joinRound
  split
  · exact h.dropStale
  · dsimp only
    split
    · exact State.CanonIf.flushRounds (hcount _ _)
    · exact State.CanonIf.flushRounds (hcount _ _)

theorem execRred_canon {s : State} {h : Hdr} {fn : FoldFn} {ty : Ty} {d a b c : Opd} (hc : s.Issuing P (.rred h fn ty d a b c)) :
    Out.CanonIf P (execRred h fn ty d a b c s) := by
  unfold execRred
  dsimp only
  refine hc.issue fun g hd => ?_
  refine hc.canon.unq.withBinding fun c1 x n b1 => ?_
  split
  · exact hc.canon.unq.trap.next
  · split
    · exact hc.canon.unq.trap.next
    · split
      · exact hc.canon.unq.trap.next
      · split
        · exact hc.canon.unq.trap.next
        · split
          · exact hc.canon.unq.retire.next
          · exact hc.canon.withAllowance fun s1 h1 => h1.retire.expectAcks.noteSent.setRedCount.joinRound.next

theorem State.Issuing.remoteRead {s : State} {i : Instr} {ty : Ty} {d a slot : Opd} {load : Bool}
    {op : Group → Hdr → List (Nat × Nat) → RemOp} (h : s.Issuing P i) :
    Out.CanonIf P (s.remoteRead i ty d a slot load op) := by
  unfold State.remoteRead
  dsimp only
  refine h.issue fun g hd => ?_
  refine h.canon.unq.withBinding fun c x n b => ?_
  split
  · exact h.canon.unq.trap.next
  · split
    · exact h.canon.unq.trap.next
    · split
      · exact h.canon.unq.retire.next
      · refine h.canon.withAllowance (fun s1 h1 => ?_)
        refine State.CanonIf.next ?_
        refine State.CanonIf.send ?_
        split
        · exact h1.addLoad
        · exact h1.addLoad.expectAcks

theorem execRatom_canon {s : State} {h : Hdr} {fn : AtomFn} {ty : Ty} {d a b c : Opd}
    (hc : s.Issuing P (.ratom h fn ty d a b c)) :
    Out.CanonIf P (execRatom h fn ty d a b c s) :=
  hc.remoteRead

theorem execRld_canon {s : State} {h : Hdr} {ty : Ty} {d a b : Opd} (hc : s.Issuing P (.rld h ty d a b)) :
    Out.CanonIf P (execRld h ty d a b s) :=
  hc.remoteRead

theorem execRcopy_canon {s : State} {h : Hdr} {a b : Opd} (hc : s.Issuing P (.rcopy h a b)) :
    Out.CanonIf P (execRcopy h a b s) := by
  unfold execRcopy
  dsimp only
  refine hc.issue fun g hd => ?_
  refine hc.canon.withBinding fun c x n b1 => ?_
  split
  · exact hc.canon.trap.next
  · split
    · exact hc.canon.trap.next
    · split
      · exact hc.canon.trap.next
      · exact hc.canon.retire.fresh.expectAcks.offer.next

theorem State.CanonIf.hop {s : State} {i : Nat} {f : FCopy} (h : s.CanonIf P) : (s.hop i f).CanonIf P := by
  unfold State.hop
  dsimp only
  split
  · split
    · split
      · refine State.CanonIf.deliver ?_
        exact h
      · exact h
    · refine State.CanonIf.of_mem ?_ rfl rfl rfl
      split
      · refine State.CanonIf.deliver ?_
        exact h
      · exact h
  · refine State.CanonIf.foldl ?_ (fun s1 x h1 => h1.deliver)
    refine State.CanonIf.passOn ?_
    exact h

theorem execSwitchCopy_canon {s : State} {n : Nat} {fromPeer : Option Contribution} (h : s.CanonIf P) :
    Out.CanonIf P (execSwitchCopy n fromPeer s) := by
  unfold execSwitchCopy
  split
  · exact h.joinRound.next
  · split
    · exact h.next
    · split
      · exact h.hop.next
      · exact h.next

theorem State.CanonIf.slotUpd {s : State} {ctx cluster : Nat} {ms : W64} {u : MsUpd} (h : s.CanonIf P) :
    (s.slotUpd ctx cluster ms u).CanonIf P := by
  unfold State.slotUpd
  split
  · exact h
  · split
    · exact h.reportCtx
    · exact h.updRef

theorem State.CanonIf.roundFails {s : State} {r : Round} (h : s.CanonIf P) : (s.roundFails r).CanonIf P := by
  unfold State.roundFails
  dsimp only
  split
  · exact h
  · split <;> split <;> exact h

theorem execRoundTimeout_canon {s : State} {n : Nat} (h : s.CanonIf P) : Out.CanonIf P (execRoundTimeout n s) := by
  unfold execRoundTimeout
  dsimp only
  split
  · exact h.next
  · split
    · exact h.next
    · refine State.CanonIf.next ?_
      refine State.CanonIf.flushRounds ?_
      refine State.CanonIf.roundFails ?_
      refine State.CanonIf.foldl ?_ fun s1 x h1 => ?_
      · refine State.CanonIf.foldl ?_ (fun s1 x h1 => ?_)
        · refine State.CanonIf.passRound ?_
          exact h
        · split
          · exact h1.setRedCount
          · exact h1
      · split
        · exact h1
        · refine State.CanonIf.slotUpd ?_
          exact h1

theorem State.CanonIf.landWait {s : State} {i : Nat} {a : Arrived} {ctx : Nat} {ps : List (Miss × Bool)} (h : s.CanonIf P) :
    (s.landWait i a ctx ps).CanonIf P := by
  unfold State.landWait
  dsimp only
  exact h.foldl fun s1 x h1 => h1.reportCtx

theorem State.CanonIf.sendAcks {s : State} {l : Landing} {err : Nat} (h : s.CanonIf P) : (s.sendAcks l err).CanonIf P := by
  unfold State.sendAcks
  dsimp only
  refine h.foldl fun s1 x h1 => ?_
  split <;> exact h1

theorem State.CanonIf.servesOwn {s : State} {l : Landing} (h : s.CanonIf P) : (s.servesOwn l).CanonIf P := by
  unfold State.servesOwn
  split
  · split
    · exact h.dropL1
    · exact h
  · exact h

theorem State.CanonIf.respond {s : State} {l : Landing} {err : Nat} {lanes : List (Nat × W64)} (h : s.CanonIf P) :
    (s.respond l err lanes).CanonIf P := by
  unfold State.respond
  split
  · exact h
  · split <;> exact h

theorem State.CanonIf.landMs {s : State} {c : Ctx} {r : Range} {l : Landing} {bytes err : Nat} (h : s.CanonIf P) :
    (s.landMs c r l bytes err).1.CanonIf P := by
  unfold State.landMs
  dsimp only
  split
  · exact h
  · split
    · split
      · exact h.reportCtx
      · exact h.updLoc
    · exact h.reportCtx

theorem State.CanonIf.setSeen {s : State} {e : SegSeen} {keep : Bool} (h : s.CanonIf P) : (s.setSeen e keep).CanonIf P := by
  unfold State.setSeen
  dsimp only
  exact h

theorem State.CanonIf.landChunks {s : State} {c : Ctx} {r : Range} {l : Landing} {e : SegSeen} (h : s.CanonIf P) :
    (s.landChunks c r l e).CanonIf P := by
  unfold State.landChunks
  dsimp only
  split
  · exact h
  · split
    · split
      · exact h
      · split
        · exact h
        · exact h.updLoc
    · exact h

theorem State.CanonIf.landPieces {c : Ctx} {xs : List (List Piece × List Byte)} {s t : State} (h : s.CanonIf P)
    (ht : s.landPieces c xs = .ok t) : t.CanonIf P := by
  induction xs generalizing s with
  | nil => cases ht; exact h
  | cons x xs ih =>
    unfold State.landPieces at ht
    split at ht
    · cases ht
    next s1 h1 => exact ih (h.roomFor h1).iaWrite ht

theorem State.CanonIf.landFull {s : State} {i : Nat} {a : Arrived} {ctx owner : Nat} (h : s.CanonIf P) :
    (s.landFull i a ctx owner).CanonIf P :=
  h.otherPool.landWait

theorem State.CanonIf.landStore {s : State} {i : Nat} {a : Arrived} {c : Ctx} {r : Range} (h : s.CanonIf P) :
    (s.landStore i a c r).CanonIf P := by
  unfold State.landStore
  extract_lets l ps checks err0 msChk waits oks bytes
  split
  · exact h.landWait
  · split
    · exact h
    · split
      · exact h.landFull
      next s1 hs1 =>
        have h1 : s1.CanonIf P := State.CanonIf.landPieces (s := { s with landings := s.landings.eraseIdx i }) h hs1
        split
        · split
          · split
            · exact h1.setSeen.landChunks
            · exact h1.setSeen.landChunks.landMs
          · exact h1.setSeen.landChunks.landMs.sendAcks
        · exact h1.landMs.sendAcks

theorem State.CanonIf.landAtom {s t : State} {c : Ctx} {r : Range} {fn : AtomFn} {ty : Ty} {L off x : Nat}
    {vs : List (Nat × W64)} {es : List (Nat × Nat)} (h : s.CanonIf P) (ht : s.landAtom c r fn ty L off x = .ok vs es t) :
    t.CanonIf P := by
  unfold State.landAtom at ht
  dsimp only at ht
  split at ht
  · split at ht
    · cases ht
      exact h
    · split at ht
      · cases ht
      · cases ht
        exact (h.roomFor ‹_›).writePieces
  · cases ht
    exact h
  · cases ht
    exact h

theorem State.CanonIf.landAtoms {c : Ctx} {r : Range} {fn : AtomFn} {ty : Ty} {xs : List (Nat × Nat × W64 × W64)}
    {s t : State} {vs : List (Nat × W64)} {es : List (Nat × Nat)} (h : s.CanonIf P)
    (ht : s.landAtoms c r fn ty xs = .ok vs es t) : t.CanonIf P := by
  induction xs generalizing s vs es with
  | nil => cases ht; exact h
  | cons x xs ih =>
    obtain ⟨L, off, x, y⟩ := x
    unfold State.landAtoms at ht
    split at ht
    · cases ht
    next v e s1 h1 =>
      split at ht
      · cases ht
      next v2 e2 s2 h2 =>
        cases ht
        exact ih (h.landAtom h1) h2

theorem State.CanonIf.land {s : State} {i : Nat} {a : Arrived} (h : s.CanonIf P) : (s.land i a).CanonIf P := by
  unfold State.land
  extract_lets l gone
  have hgone : gone.CanonIf P := h
  split
  · split
    · exact hgone.respond
    · exact hgone.respond.sendAcks
    · exact hgone
    · exact hgone.sendAcks
  · split
    · extract_lets checks waits errs
      split
      · exact h.landWait
      · split
        · exact h
        · split
          · exact hgone.servesOwn.respond
          · exact hgone.respond
    · extract_lets checks fails msChk waits
      split
      · exact h.landWait
      · split
        · exact h
        · split
          · exact h.landFull
          next vals errs s1 hs1 =>
            have h1 : s1.CanonIf P := hgone.landAtoms hs1
            obtain ⟨e, bad⟩ := respErr errs
            refine State.CanonIf.sendAcks (State.CanonIf.respond (State.CanonIf.servesOwn ?_))
            change State.CanonIf P (if e = 0 then (s1, 0) else s1.landMs _ _ l 0 e).1
            split
            · exact h1
            · exact h1.landMs
    · exact h.landStore

theorem execRemoteLanding_canon {s : State} {n : Nat} {fromPeer : Option Landing} (h : s.CanonIf P) :
    Out.CanonIf P (execRemoteLanding n fromPeer s) := by
  unfold execRemoteLanding
  dsimp only
  split
  · refine State.CanonIf.next ?_
    split
    · exact h
    · exact h.deliver
  · split
    · split
      · exact h.land.next
      · exact h.next
    · split
      · exact h.deliver.land.next
      · exact h.deliver.next

theorem State.CanonIf.unawaited {s : State} {peer : List Nat} {tag : Nat} (h : s.CanonIf P) :
    (s.unawaited peer tag).CanonIf P := by
  unfold State.unawaited
  split
  · exact h.dropStale
  · exact h

theorem State.CanonIf.ackAt {s : State} {a : Ack} (h : s.CanonIf P) : (s.ackAt a).CanonIf P := by
  unfold State.ackAt
  dsimp only
  split
  · exact h.unawaited
  · split
    · exact h.dropStale
    · refine State.CanonIf.slotUpd ?_
      exact h

theorem execAckArrival_canon {s : State} {n : Nat} {fromPeer : Option Ack} (h : s.CanonIf P) :
    Out.CanonIf P (execAckArrival n fromPeer s) := by
  unfold execAckArrival
  split
  · exact h.ackAt.next
  · split
    · exact h.next
    · refine State.CanonIf.next ?_
      refine State.CanonIf.ackAt ?_
      exact h

theorem execAcknowledgementTimeout_canon {s : State} {n : Nat} (h : s.CanonIf P) :
    Out.CanonIf P (execAcknowledgementTimeout n s) := by
  unfold execAcknowledgementTimeout
  dsimp only
  split
  · exact h.next
  · split
    · exact h.next
    · refine State.CanonIf.next ?_
      refine State.CanonIf.slotUpd ?_
      exact h

theorem State.CanonIf.response {s : State} {r : Response} (h : s.CanonIf P) : (s.response r).CanonIf P := by
  unfold State.response
  dsimp only
  split
  · exact h.unawaited
  · split
    · split
      · exact h.dropStale
      · split
        · exact h
        · split
          · exact h.failLoad
          · exact h.failLoad.slotUpd
    · exact h

theorem execRemoteResponse_canon {s : State} {n : Nat} {fromPeer : Option Response} (h : s.CanonIf P) :
    Out.CanonIf P (execRemoteResponse n fromPeer s) := by
  unfold execRemoteResponse
  split
  · exact h.response.next
  · split
    · exact h.next
    · refine State.CanonIf.next ?_
      refine State.CanonIf.response ?_
      exact h

theorem execRemoteTimeout_canon {s : State} {n : Nat} (h : s.CanonIf P) : Out.CanonIf P (execRemoteTimeout n s) := by
  unfold execRemoteTimeout
  dsimp only
  split
  · exact h.next
  · split
    · split
      · exact h.next
      · refine State.CanonIf.next ?_
        split
        · exact h.failLoad
        · exact h.failLoad.slotUpd
    · exact h.next

theorem execAllowanceReturn_canon {s : State} {ctx slot grant : Nat} (h : s.CanonIf P) :
    Out.CanonIf P (execAllowanceReturn ctx slot grant s) := by
  unfold execAllowanceReturn
  split
  · exact h.next
  · split
    · exact h.updCtx.next
    · exact h.next

theorem execLaneSparing_canon {s : State} {link lane : Nat} (h : s.CanonIf P) :
    Out.CanonIf P (execLaneSparing link lane s) :=
  h.updLink.next

theorem execPeerRejoin_canon {s : State} {link : Nat} {peer : Peer} {key : Nat} (h : s.CanonIf P) :
    Out.CanonIf P (execPeerRejoin link peer key s) := by
  unfold execPeerRejoin
  dsimp only
  refine State.CanonIf.next ?_
  refine State.CanonIf.updLink ?_
  exact h

theorem execMarginSampling_canon {s : State} {link : Nat} {corrected margin : W32} (h : s.CanonIf P) :
    Out.CanonIf P (execMarginSampling link corrected margin s) :=
  h.updLink.next

theorem execFabricManagerAssignment_canon {s : State} {a : Assignment} (h : s.CanonIf P) :
    Out.CanonIf P (execFabricManagerAssignment a s) := by
  unfold execFabricManagerAssignment
  dsimp only
  split
  · exact h.next
  · exact ⟨_, rfl, h⟩

/-! The block transfer engines. -/

theorem acc_bind_ok {α β : Type} {a : Acc α} {k : α → Acc β} {y : β} (h : a.bind k = .ok y) : ∃ x, a = .ok x ∧ k x = .ok y := by
  cases a with
  | ok x => exact ⟨x, rfl, h⟩
  | err e => cases h
  | miss ms => cases h
  | full o => cases h
  | moving => cases h

theorem State.CanonIf.requests {s : State} {c : Ctx} {cluster : Nat} {ps : List Piece} (h : s.CanonIf P) :
    (s.requests c cluster ps).CanonIf P :=
  h.foldl fun s1 x h1 => h1.request

theorem State.CanonIf.bteRead {s t : State} {c : Ctx} {cluster n : Nat} {cw : Bool} {va : W64} {bs : List Byte}
    (h : s.CanonIf P) (ht : s.bteRead c cluster cw va n = .ok (bs, t)) : t.CanonIf P := by
  unfold State.bteRead at ht
  split at ht
  · split at ht
    · cases ht
    · split at ht
      · cases ht
      · split at ht
        · cases ht
        · cases ht; exact h
  · obtain ⟨xs, -, hx⟩ := acc_bind_ok ht
    dsimp only at hx
    split at hx
    · cases hx
    · cases hx; exact h.requests

theorem State.CanonIf.bteScratch {s t : State} {c : Ctx} {cluster off : Nat} {bs : List Byte} (h : s.CanonIf P)
    (ht : s.bteScratch c cluster off bs = .ok t) : t.CanonIf P := by
  unfold State.bteScratch at ht
  dsimp only at ht
  split at ht
  · cases ht
  · split at ht
    · cases ht
    · cases ht
      refine h.foldl fun s1 x h1 => ?_
      split
      · exact h1.hold
      · exact h1.writeScratch

theorem State.CanonIf.bteWrite1 {s t : State} {c : Ctx} {cluster : Nat} {va : W64} {bs : List Byte} (h : s.CanonIf P)
    (ht : s.bteWrite1 c cluster va bs = .ok t) : t.CanonIf P := by
  have put {s : State} {ps : List Piece} (h : s.CanonIf P)
      (ht : (match s.roomFor c.no ps with
        | .empty owner => .full owner
        | .ok s1 => .ok (s1.iaWrite c (iaOf ps) bs) : Acc State) = .ok t) : t.CanonIf P := by
    split at ht
    · cases ht
    next s1 h1 => cases ht; exact (h.roomFor h1).iaWrite
  unfold State.bteWrite1 at ht
  obtain ⟨x, -, hx⟩ := acc_bind_ok ht
  dsimp only at hx
  split at hx
  · exact put h hx
  · split at hx
    · exact put h hx
    · split at hx
      · cases hx
      · cases hx
      · cases hx
      next s1 h1 =>
        obtain ⟨y, -, hy⟩ := acc_bind_ok hx
        exact put (h.cow h1) hy

theorem State.CanonIf.bteWrites {c : Ctx} {cluster : Nat} {xs : List (W64 × List Byte)} {s t : State} (h : s.CanonIf P)
    (ht : s.bteWrites c cluster xs = .ok t) : t.CanonIf P := by
  induction xs generalizing s with
  | nil => cases ht; exact h
  | cons x xs ih =>
    obtain ⟨s1, h1, h2⟩ := acc_bind_ok ht
    exact ih (h.bteWrite1 h1) h2

theorem State.CanonIf.bteWrite {s t : State} {c : Ctx} {cluster : Nat} {va : W64} {bs : List Byte} (h : s.CanonIf P)
    (ht : s.bteWrite c cluster va bs = .ok t) : t.CanonIf P := by
  obtain ⟨xs, -, hx⟩ := acc_bind_ok ht
  obtain ⟨s1, h1, h2⟩ := acc_bind_ok hx
  cases h2
  exact (h.bteWrites h1).requests

theorem State.CanonIf.setCopy {s : State} {x : Copy} (h : s.CanonIf P) : (s.setCopy x).CanonIf P := by
  unfold State.setCopy
  exact h

theorem State.CanonIf.dropCopy {s : State} {id : Nat} (h : s.CanonIf P) : (s.dropCopy id).CanonIf P := by
  unfold State.dropCopy
  exact h

theorem execStartResend_canon {s : State} {n : Nat} (h : s.CanonIf P) : Out.CanonIf P (execStartResend n s) := by
  unfold execStartResend
  split
  · exact h.next
  · split
    · exact h.next
    · refine State.CanonIf.next ?_
      refine State.CanonIf.offer ?_
      exact h

theorem State.CanonIf.failStart {s : State} {x : Start} {e : Nat} (h : s.CanonIf P) : (s.failStart x e).CanonIf P := by
  unfold State.failStart
  dsimp only
  split
  · refine State.CanonIf.getD ?_ (fun t a => ?_)
    · exact h
    · refine State.CanonIf.finishAt ?_ ‹_›
      exact h
  · refine State.CanonIf.of_mem ?_ rfl rfl rfl
    refine State.CanonIf.getD ?_ fun t a => ?_
    · exact h
    · refine State.CanonIf.finishAt ?_ ‹_›
      exact h

theorem execCopyBegin_canon {s : State} {cluster channel : Nat} (h : s.CanonIf P) :
    Out.CanonIf P (execCopyBegin cluster channel s) := by
  unfold execCopyBegin
  dsimp only
  split
  · exact h.next
  next x hx =>
    refine .ite h.next ?_
    split
    · refine State.CanonIf.next ?_
      refine State.CanonIf.reportMiss ?_
      exact h
    · refine .ite h.next (.ite h.failStart.next (.ite h.failStart.next ?_))
      split
      · exact h.failStart.next
      · exact .ite ⟨_, rfl, h⟩ (.ite h.next (.ite h.next ⟨_, rfl, h⟩))

theorem State.CanonIf.stopCopy {s : State} {x : Copy} {e : Nat} (h : s.CanonIf P) : (s.stopCopy x e).CanonIf P := by
  unfold State.stopCopy
  dsimp only
  split
  · exact h.setCopy
  · exact h.setCopy.setUnit.unitService

theorem State.CanonIf.withAcc {α : Type} {s : State} {x : Copy} {a : Acc α} {k : α → State} (h : s.CanonIf P)
    (hk : ∀ y, a = .ok y → (k y).CanonIf P) : (s.withAcc x a k).CanonIf P := by
  unfold State.withAcc
  split
  · exact h.stopCopy
  · exact h.reportMiss.setCopy
  · exact h.otherPool.reportMiss.setCopy
  · exact h
  · exact hk _ rfl

theorem State.CanonIf.rowSrc {s t : State} {c : Ctx} {x : Copy} {a : W64} (h : s.CanonIf P)
    (ht : s.rowSrc c x = .ok (a, t)) : t.CanonIf P := by
  unfold State.rowSrc at ht
  dsimp only at ht
  split at ht
  · cases ht; exact h
  · obtain ⟨⟨b, s1⟩, h1, hx⟩ := acc_bind_ok ht
    obtain ⟨y, -, hy⟩ := acc_bind_ok hx
    cases hy
    exact h.bteRead h1

theorem State.CanonIf.rowRead {s t : State} {c : Ctx} {x : Copy} {off n : Nat} {bs : List Byte} (h : s.CanonIf P)
    (ht : s.rowRead c x off n = .ok (bs, t)) : t.CanonIf P := by
  unfold State.rowRead at ht
  dsimp only at ht
  split at ht
  · cases ht; exact h
  · obtain ⟨⟨a, s1⟩, h1, hx⟩ := acc_bind_ok ht
    exact (h.rowSrc h1).bteRead hx

theorem State.CanonIf.markChunks {s : State} {x : Copy} (h : s.CanonIf P) : (s.markChunks x).CanonIf P := by
  unfold State.markChunks
  dsimp only
  split
  · exact h
  · split
    · exact h
    · split
      · exact h.setCopy.updRef
      · exact h.setCopy

theorem State.CanonIf.tileRow {s : State} {x : Copy} {bs : List Byte} (h : s.CanonIf P) : (s.tileRow x bs).CanonIf P :=
  h.setUnit

theorem State.CanonIf.copyRow {s : State} {x : Copy} (h : s.CanonIf P) : (s.copyRow x).CanonIf P := by
  unfold State.copyRow
  dsimp only
  split
  · exact h
  · refine h.withAcc fun ⟨bs, s1⟩ hr => ?_
    have h1 := h.rowRead hr
    dsimp only
    split
    · exact h1.tileRow.setCopy
    · refine h.withAcc fun s2 h2 => State.CanonIf.markChunks (State.CanonIf.setCopy ?_)
      rcases ite_eq_iff.mp h2 with ⟨-, h3⟩ | ⟨-, h3⟩
      · rcases ite_eq_iff.mp h3 with ⟨-, h4⟩ | ⟨-, h4⟩
        · cases h4
        · exact h1.bteScratch h4
      · exact h1.bteWrite h3

theorem execCopyRowLanded_canon {s : State} {n : Nat} (h : s.CanonIf P) : Out.CanonIf P (execCopyRowLanded n s) := by
  unfold execCopyRowLanded
  split
  · exact h.next
  · exact h.copyRow.next

theorem execTostreamTileEnter_canon {s : State} {unit : Nat} {b : Bool} (h : s.CanonIf P) :
    Out.CanonIf P (execTostreamTileEnter unit b s) := by
  unfold execTostreamTileEnter
  dsimp only
  split
  · exact h.next
  · split
    · exact h.next
    · split
      · exact h.setUnit.next
      · exact h.next

theorem State.CanonIf.armAcks {s : State} {tag : Nat} (h : s.CanonIf P) : (s.armAcks tag).CanonIf P := by
  unfold State.armAcks
  exact h

theorem execCopyComplete_canon {s : State} {n : Nat} (h : s.CanonIf P) : Out.CanonIf P (execCopyComplete n s) := by
  unfold execCopyComplete
  dsimp only
  split
  · exact h.next
  · split
    · refine State.CanonIf.next ?_
      refine State.CanonIf.finishAt ?_ ‹_›
      refine State.CanonIf.armAcks ?_
      refine State.CanonIf.dropCopy ?_
      split
      · exact h
      · exact h.markChunks
    · split
      · exact h.reportMiss.setCopy.next
      · exact h.next

theorem State.CanonIf.segment {s : State} {x : Copy} {k : Nat} {b : Binding} (h : s.CanonIf P) :
    (s.segment x k b).CanonIf P := by
  unfold State.segment
  dsimp only
  split
  · exact h
  · split
    · exact h.stopCopy
    · split
      · exact h.stopCopy
      · split
        · exact h
        · exact h.withAcc (fun y a => (((h.rowRead ‹_›).updCtx).send).setCopy)

theorem execRcopySegment_canon {s : State} {n : Nat} (h : s.CanonIf P) : Out.CanonIf P (execRcopySegment n s) := by
  unfold execRcopySegment
  split
  · exact h.next
  · split
    · exact h.next
    · exact h.segment.next

end Sys2Proof.Machine
end

section
/-! Towards O59 and O60: scheduling, admission, saving, the host and management. -/

namespace Sys2Proof.Machine

variable {P : Prop}

/-! Fetches. -/

theorem State.CanonIf.noteFetch {s : State} {id : GroupId} {as : List W64} (h : s.CanonIf P) :
    (s.noteFetch id as).CanonIf P :=
  h.noteLines

/-! Legs, landing data and probes. -/

theorem execLegIssue_canon {s : State} {site : Site} {slot : Nat} (h : s.CanonIf P) :
    Out.CanonIf P (execLegIssue site slot s) := by
  unfold execLegIssue
  dsimp only
  split
  · exact h.next
  · split
    · exact h.next
    · refine State.CanonIf.next ?_
      split
      · exact h.setGroup.updTeam
      · exact h.setGroup

theorem State.CanonIf.landLoad {s : State} {l : Load} (h : s.CanonIf P) : (s.landLoad l).CanonIf P := by
  unfold State.landLoad
  split
  · split
    · exact h.failLoad
    · refine State.CanonIf.updGroup ?_
      exact h
  · exact h

theorem execLoadDataLands_canon {s : State} {n : Nat} (h : s.CanonIf P) : Out.CanonIf P (execLoadDataLands n s) := by
  unfold execLoadDataLands
  split
  · exact h.next
  · exact h.landLoad.next

theorem State.CanonIf.probeDies {s : State} {p : Probe} (h : s.CanonIf P) : (s.probeDies p).CanonIf P := by
  unfold State.probeDies
  dsimp only
  split
  · split
    · exact h
    · split
      · refine State.CanonIf.complete ?_
        exact h
      · exact h
  · exact h

theorem State.CanonIf.deadlock {s : State} {g : Group} {hops : List W64} (h : s.CanonIf P) : (s.deadlock g hops).CanonIf P :=
  h.trapIssued

theorem State.CanonIf.probeReaches {s : State} {p : Probe} (h : s.CanonIf P) : (s.probeReaches p).CanonIf P := by
  unfold State.probeReaches
  dsimp only
  split
  · split
    · exact h
    · split
      · exact h
      · split
        · exact h
        · refine State.CanonIf.deadlock ?_
          exact h
  · split
    · exact h.probeDies
    · split
      · exact h.probeDies
      · split
        · exact h.probeDies
        · split
          · exact h.probeDies
          · split
            · exact h.probeDies
            · exact h

theorem execProbeHop_canon {s : State} {n : Nat} (h : s.CanonIf P) : Out.CanonIf P (execProbeHop n s) := by
  unfold execProbeHop
  split
  · exact h.next
  · exact h.probeReaches.next

theorem execProbeTimer_canon {s : State} {gid : GroupId} (h : s.CanonIf P) : Out.CanonIf P (execProbeTimer gid s) := by
  unfold execProbeTimer
  dsimp only
  split
  · exact h.next
  · split
    · exact h.next
    · split
      · exact h.setGroup.next
      · exact ⟨_, rfl, h⟩

theorem execDmodeTimeshareSwitch_canon {s : State} {core : Nat} (h : s.CanonIf P) :
    Out.CanonIf P (execDmodeTimeshareSwitch core s) := by
  unfold execDmodeTimeshareSwitch
  dsimp only
  split
  · exact h.next
  · split
    · exact h.next
    · split
      · exact h.next
      · split
        · exact ⟨_, rfl, h⟩
        · refine State.CanonIf.next ?_
          refine State.CanonIf.leave ?_
          exact h

theorem State.CanonIf.breakDeadlock {s : State} {site : Site} (h : s.CanonIf P) : (s.breakDeadlock site).CanonIf P := by
  unfold State.breakDeadlock
  dsimp only
  split
  · split
    · exact h
    · exact h.leave
  · exact h

theorem State.CanonIf.observe {s : State} (h : s.CanonIf P) : (s.observe).CanonIf P := by
  unfold State.observe
  dsimp only
  refine State.CanonIf.of_mem ?_ rfl rfl rfl
  refine State.CanonIf.foldl ?_ fun s1 x h1 => h1.breakDeadlock
  exact (h.foldl (fun s1 x h1 => h1.trySave)).foldl fun s1 x h1 => h1.settleRegs

/-! Admission, stealing and retirement. -/

theorem State.CanonIf.rebindImage {s : State} {c : Nat} {task : W64} {off tag : Nat} {moves : List Moved} (h : s.CanonIf P) :
    (s.rebindImage c task off tag moves).CanonIf P := by
  unfold State.rebindImage
  dsimp only
  refine State.CanonIf.run ?_
  split
  · exact h
  · split
    · exact h.reportCtx
    · exact h.updTeam

theorem State.CanonIf.rebindAt {s : State} {ctx tag : Nat} {moves : List Moved} {p : MTgt} (h : s.CanonIf P) :
    (s.rebindAt ctx tag moves p).CanonIf P := by
  unfold State.rebindAt
  split
  · exact h.rebindImage
  · exact h.updLoc
  · split
    · exact h.rebindImage
    · exact h
    · exact h.updRef

theorem State.CanonIf.rebindTag {s : State} {t : Team} {tag : Nat} {bs : List (Site × Site × W64 × Option Nat)}
    (h : s.CanonIf P) :
    (s.rebindTag t tag bs).CanonIf P := by
  unfold State.rebindTag
  dsimp only
  exact h.foldl fun s1 x h1 => h1.rebindAt

theorem State.CanonIf.rebind {s : State} {t : Team} {gs : List Group} {sites : List (Nat × Site)} (h : s.CanonIf P) :
    (s.rebind t gs sites).CanonIf P :=
  (h.foldl (fun s1 x h1 => h1.rebindTag)).updTeam

theorem State.CanonIf.applyHeld {s : State} {ctx : Nat} {task : W64} {cluster base : Nat} {h : Held} (hc : s.CanonIf P) :
    (s.applyHeld ctx task cluster base h).CanonIf P := by
  unfold State.applyHeld
  dsimp only
  split
  · exact hc.writeScratch
  · exact hc.updLoc
  · exact hc.locWrite.run

theorem State.CanonIf.enter {s : State} {sites : List (Nat × Site)} (h : s.CanonIf P) : (s.enter sites).CanonIf P :=
  h.foldl fun s1 x h1 => h1.acquire

theorem State.CanonIf.start {s : State} {t : Team} {r : LRec} {x : Spot} (h : s.CanonIf P) : (s.start t r x).CanonIf P := by
  unfold State.start
  dsimp only
  exact h.enter

theorem State.CanonIf.readmit {s : State} {t : Team} {x : Spot} (h : s.CanonIf P) : (s.readmit t x).CanonIf P := by
  have hfree {s : State} (h : s.CanonIf P) :
      (t.frames.foldl (fun s f => s.reportCtx t.ctx (frameReport t.ctx 3 f)) s).CanonIf P := h.foldl fun _ _ h => h.reportCtx
  unfold State.readmit
  extract_lets free freed gs s1 image held back s2 s3 s4
  have h1 : s1.CanonIf P := h.enter.rebind
  have h2 : s2.CanonIf P := h1.of_mem rfl rfl rfl
  have h3 : s3.CanonIf P := h2.updTeam
  have hfreed : freed.CanonIf P := hfree h
  split
  · exact State.CanonIf.endTeam (hfreed.of_mem rfl rfl rfl)
  · refine hfree ?_
    clear_value s3
    dsimp only [s4]
    split
    · exact h3
    · refine State.CanonIf.foldl (State.CanonIf.writeScratch ?_) fun _ _ h => h.applyHeld
      exact h3.of_mem rfl rfl rfl

theorem State.CanonIf.host {s : State} {t : Team} {part : Nat} (h : s.CanonIf P) : (s.host t part).CanonIf P := by
  unfold State.host
  dsimp only
  split <;> exact h

theorem State.CanonIf.admitTeam {s s2 : State} {cluster : Nat} {t : Team} (h : s.CanonIf P)
    (ht : s.admitTeam cluster t = some s2) : s2.CanonIf P := by
  unfold State.admitTeam at ht
  dsimp only at ht
  split at ht
  · split at ht
    · split at ht
      · cases ht
      · split at ht
        · cases ht
          exact h.host.readmit
        · cases ht
          exact h.readmit
    · split at ht
      · cases ht
        exact h.host.start
      · cases ht
        exact h.start
  · cases ht

theorem State.CanonIf.admitNext {s s2 : State} {cluster : Nat} (h : s.CanonIf P) (ht : s.admitNext cluster = some s2) :
    s2.CanonIf P := by
  unfold State.admitNext at ht
  split at ht
  · cases ht
  · split at ht
    next s1 h1 =>
      cases ht
      split at h1
      · cases h1
      · exact h.admitTeam h1
    next =>
      obtain ⟨t, -, h2⟩ := List.exists_of_findSome?_eq_some ht
      exact h.admitTeam h2

theorem State.CanonIf.sendSteals {s : State} {cluster : Nat} (h : s.CanonIf P) : (s.sendSteals cluster).CanonIf P := by
  unfold State.sendSteals
  dsimp only
  refine h.foldl fun s1 x h1 => ?_
  split <;> exact h1

theorem execTeamAdmit_canon {s : State} {cluster : Nat} (h : s.CanonIf P) : Out.CanonIf P (execTeamAdmit cluster s) := by
  unfold execTeamAdmit
  split
  · exact h.next
  · exact ((h.getD (fun t a => h.admitNext ‹_›)).sendSteals).next

theorem execStealMessage_canon {s : State} {n : Nat} (h : s.CanonIf P) : Out.CanonIf P (execStealMessage n s) := by
  unfold execStealMessage
  dsimp only
  split
  · exact h.next
  · exact ⟨_, rfl, h⟩

theorem execStealHandover_canon {s : State} {n : Nat} (h : s.CanonIf P) : Out.CanonIf P (execStealHandover n s) := by
  unfold execStealHandover
  dsimp only
  split
  · exact h.next
  · exact ⟨_, rfl, h⟩

theorem execGroupRelease_canon {s : State} {gid : GroupId} (h : s.CanonIf P) : Out.CanonIf P (execGroupRelease gid s) := by
  unfold execGroupRelease
  split
  · exact h.next
  · split
    · exact h.next
    · refine State.CanonIf.next ?_
      refine State.CanonIf.settleRegs ?_
      exact h

theorem State.CanonIf.hostDone {s : State} {t : Team} (h : s.CanonIf P) : (s.hostDone t).CanonIf P := by
  unfold State.hostDone
  split
  · exact h
  · split <;> exact h

theorem State.CanonIf.dropTeam {s : State} {t : Team} (h : s.CanonIf P) : (s.dropTeam t).CanonIf P := by
  unfold State.dropTeam
  dsimp only
  refine State.CanonIf.updLaunch ?_
  refine State.CanonIf.updCtx ?_
  exact h.hostDone

theorem execTeamRetire_canon {s : State} {ctx : Nat} {task : W64} (h : s.CanonIf P) :
    Out.CanonIf P (execTeamRetire ctx task s) := by
  unfold execTeamRetire
  dsimp only
  split
  · exact h.next
  · split
    · exact h.next
    · split
      · refine State.CanonIf.next ?_
        split
        · exact h.publish.dropTeam
        · exact h.publish
      · exact h.publish.reportMiss.updTeam.next

theorem State.CanonIf.retireStep {s t : State} {l : Launch} {r : W64} {u : MsUpd} (h : s.CanonIf P)
    (ht : s.retireStep l r u = .inl t) : t.CanonIf P := by
  unfold State.retireStep at ht
  dsimp only at ht
  split at ht
  · cases ht
    exact h
  · split at ht
    · cases ht
      exact h.reportCtx
    · cases ht
    · split at ht
      · cases ht
      · split at ht
        · cases ht
          exact h.reportCtx.reportCtx
        · cases ht
          exact h.updRef

theorem State.CanonIf.dropLaunch {s : State} {l : Launch} (h : s.CanonIf P) : (s.dropLaunch l).CanonIf P := by
  unfold State.dropLaunch
  dsimp only
  refine State.CanonIf.retryJoins ?_
  refine State.CanonIf.grantLaunches ?_
  exact h

theorem State.CanonIf.retireLaunch {n : Nat} {s : State} {l : Launch} (h : s.CanonIf P) : (s.retireLaunch l n).CanonIf P := by
  induction n generalizing s l with
  | zero => exact h
  | succ n ih =>
    unfold State.retireLaunch
    dsimp only
    split
    · split
      next s1 h1 => exact ih (State.CanonIf.updLaunch (h.retireStep h1))
      next => exact h.reportMiss.updLaunch
    · split
      next s1 h1 => exact ih (State.CanonIf.updLaunch (h.retireStep h1))
      next => exact h.reportMiss.updLaunch
    · exact h.dropLaunch

theorem execLaunchRetire_canon {s : State} {ctx : Nat} {serial : W32} (h : s.CanonIf P) :
    Out.CanonIf P (execLaunchRetire ctx serial s) := by
  unfold execLaunchRetire
  split
  · exact h.next
  · split
    · exact h.retireLaunch.next
    · exact h.next

theorem execAbortDiscardDone_canon {s : State} {ctx : Nat} {task : W64} (h : s.CanonIf P) :
    Out.CanonIf P (execAbortDiscardDone ctx task s) := by
  unfold execAbortDiscardDone
  dsimp only
  split
  · exact h.next
  · split
    · refine State.CanonIf.next ?_
      refine State.CanonIf.foldl ?_ fun s1 x h1 => h1.settleRegs
      refine State.CanonIf.reportCtx ?_
      refine State.CanonIf.updLaunch ?_
      refine State.CanonIf.dropTeam ?_
      exact h
    · exact h.next

/-! Switch-out and saving. -/

theorem State.CanonIf.writeImage {s : State} {t : Team} {frames : List Nat} (h : s.CanonIf P) :
    (s.writeImage t frames).CanonIf P := by
  unfold State.writeImage
  dsimp only
  refine State.CanonIf.foldl ?_ fun s1 x h1 => h1.settleRegs
  exact h

theorem State.CanonIf.awaitPool {s : State} {t : Team} {pos : Nat} (h : s.CanonIf P) : (s.awaitPool t pos).CanonIf P :=
  h.reportCtx.updTeam

theorem execSwitchOutComplete_canon {s : State} {ctx : Nat} {task : W64} (h : s.CanonIf P) :
    Out.CanonIf P (execSwitchOutComplete ctx task s) := by
  unfold execSwitchOutComplete
  dsimp only
  split
  · split
    · exact h.next
    · split
      · exact h.endTeam.next
      · split
        · exact h.awaitPool.next
        · exact ((h.takeFrames ‹_›).writeImage).next
  · exact h.next

theorem execPreemptDeadline_canon {s : State} {ctx : Nat} (h : s.CanonIf P) : Out.CanonIf P (execPreemptDeadline ctx s) := by
  unfold execPreemptDeadline
  split
  · exact (h.foldl (fun s1 x h1 => h1.leave)).next
  · exact h.next

theorem State.CanonIf.spillVersions {s : State} {c : Ctx} (h : s.CanonIf P) : (s.spillVersions c).CanonIf P := by
  unfold State.spillVersions
  dsimp only
  refine h.foldl fun s1 x h1 => ?_
  split
  · exact h1
  · exact h1.spillLine

theorem State.CanonIf.flushEmber {es : List Ember} {s : State} (h : s.CanonIf P) : (s.flushEmber es).1.CanonIf P := by
  induction es generalizing s with
  | nil => exact h
  | cons e es ih =>
    unfold State.flushEmber
    split
    next s1 h1 => exact ih (h.evictEmber h1)
    next =>
      dsimp only
      split
      · split
        · exact ih h.dropEmber
        · exact h
      · split
        · exact ih h.dropEmber
        · exact h

theorem State.CanonIf.finishSave {s : State} {c : Ctx} (h : s.CanonIf P) : (s.finishSave c).CanonIf P := by
  unfold State.finishSave
  dsimp only
  refine State.CanonIf.foldl ?_ fun s1 x h1 => ?_
  · refine State.CanonIf.reportCtx ?_
    refine State.CanonIf.updCtx ?_
    exact h.spillVersions
  · split
    · exact h1
    · exact h1.unitService

theorem execContextSave_canon {s : State} {ctx : Nat} (h : s.CanonIf P) : Out.CanonIf P (execContextSave ctx s) := by
  unfold execContextSave
  dsimp only
  split
  · exact h.next
  · split
    · exact h.next
    · split
      · exact h.flushEmber.finishSave.next
      · exact h.flushEmber.reportCtx.updCtx.next

/-! Host messages and registers. -/

theorem State.CanonIf.setFn {s : State} {i : Nat} {f : Fn} (h : s.CanonIf P) : (s.setFn i f).CanonIf P := by
  unfold State.setFn
  exact h

theorem State.CanonIf.acceptMsg {s : State} {i : Nat} {f : Fn} {m : Msg} (h : s.CanonIf P) :
    (s.acceptMsg i f m).CanonIf P := by
  unfold State.acceptMsg
  dsimp only
  split
  · exact h.setFn
  · split
    · exact h.setFn.report
    · split
      · exact h.setFn.report
      · split
        · exact h.setFn.report
        · exact h.setFn

theorem State.CanonIf.fetchMsgs {i n : Nat} {s : State} (h : s.CanonIf P) : (s.fetchMsgs i n).CanonIf P := by
  induction n generalizing s with
  | zero => exact h
  | succ n ih =>
    unfold State.fetchMsgs
    split
    · exact h
    · split
      · exact h
      · exact ih h.acceptMsg

theorem execMrtail_canon {s : State} {i : Nat} {v : W32} (h : s.CanonIf P) : Out.CanonIf P (execMrtail i v s) := by
  unfold execMrtail
  split
  · exact h.next
  · exact h.setFn.fetchMsgs.next

theorem execMrbase_canon {s : State} {i : Nat} {v : W64} (h : s.CanonIf P) : Out.CanonIf P (execMrbase i v s) := by
  unfold execMrbase
  split
  · exact h.next
  · exact h.setFn.next

theorem State.CanonIf.flush {s : State} {i : Nat} (h : s.CanonIf P) : (s.flush i).CanonIf P := by
  unfold State.flush
  split
  · exact h
  · exact h.flushReports

theorem execRqbase_canon {s : State} {i : Nat} {v : W64} (h : s.CanonIf P) : Out.CanonIf P (execRqbase i v s) := by
  unfold execRqbase
  split
  · exact h.next
  · exact h.setFn.flush.next

theorem execRqhead_canon {s : State} {i : Nat} {v : W32} (h : s.CanonIf P) : Out.CanonIf P (execRqhead i v s) := by
  unfold execRqhead
  split
  · exact h.next
  · exact h.setFn.flush.next

theorem execRegisterWrite_canon {s : State} {i : Nat} {off : Nat} {v : W64} (h : s.CanonIf P) :
    Out.CanonIf P (execRegisterWrite i off v s) := by
  unfold execRegisterWrite
  split
  · exact h.next
  · split
    · exact h.setFn.next
    · split
      · exact h.setFn.flush.next
      · exact h.next

theorem State.CanonIf.popMsg {s : State} {i : Nat} {m : Msg} (h : s.CanonIf P) : (s.popMsg i m).CanonIf P := by
  unfold State.popMsg
  split
  · exact h
  · exact h.setFn

theorem State.CanonIf.msgFault {s : State} {i : Nat} {m : Msg} {reason : Nat} (h : s.CanonIf P) :
    (s.msgFault i m reason).CanonIf P :=
  h.popMsg.report

theorem State.CanonIf.withOwned {s : State} {i type : Nat} {k : Msg → Ctx → State} (h : s.CanonIf P)
    (hk : ∀ m c, (k m c).CanonIf P) : Out.CanonIf P (s.withOwned i type k) := by
  unfold State.withOwned
  split
  · exact h.next
  · split
    · exact h.msgFault.next
    · exact (hk _ _).next

theorem execLaunchMessage_canon {s : State} {i : Nat} (h : s.CanonIf P) : Out.CanonIf P (execLaunchMessage i s) := by
  unfold execLaunchMessage
  dsimp only
  refine h.withOwned fun m c => ?_
  split
  · exact h
  · split
    · exact h
    · split
      · exact (h.tryLaunch_done ‹_›).popMsg
      · exact h.tryLaunch_wait ‹_›
      · exact (h.tryLaunch_wait ‹_›).setFn

theorem execCtxstart_canon {s : State} {i : Nat} (h : s.CanonIf P) : Out.CanonIf P (execCtxstart i s) := by
  unfold execCtxstart
  dsimp only
  split
  · exact h.next
  · split
    · exact h.msgFault.next
    · split
      · exact h.msgFault.report.next
      · split
        · exact h.popMsg.report.next
        · refine State.CanonIf.next ?_
          exact h.popMsg

theorem execPreempt_canon {s : State} {i : Nat} (h : s.CanonIf P) : Out.CanonIf P (execPreempt i s) := by
  unfold execPreempt
  dsimp only
  refine h.withOwned fun m c => ?_
  split
  · exact h.popMsg
  · exact h.popMsg.updCtx.foldl fun s1 x h1 => h1.trySave

theorem execUnpreempt_canon {s : State} {i : Nat} (h : s.CanonIf P) : Out.CanonIf P (execUnpreempt i s) := by
  unfold execUnpreempt
  dsimp only
  refine h.withOwned fun m c => ?_
  split
  · exact h.popMsg
  · exact h.popMsg.updCtx.foldl fun s1 x h1 => h1.leave

theorem State.CanonIf.enterTrigger {s : State} {t : Trigger} (h : s.CanonIf P) : (s.enterTrigger t).CanonIf P := by
  unfold State.enterTrigger
  dsimp only
  split
  · exact h
  · split
    · refine State.CanonIf.run ?_
      exact h
    · split
      · refine State.CanonIf.run ?_
        exact h
      · exact h

theorem State.CanonIf.enterSaved {s : State} (h : s.CanonIf P) : (s.enterSaved).CanonIf P := by
  unfold State.enterSaved
  dsimp only
  refine State.CanonIf.foldl ?_ fun s1 x h1 => ?_
  · refine h.foldl (fun s1 x h1 => ?_)
    split
    · exact h1.enterTrigger
    · exact h1
  · split <;> exact h1

theorem State.CanonIf.restoreCtx {s : State} {c : Ctx} {i addr : Nat} {b : List Byte} (h : s.CanonIf P) :
    (s.restoreCtx c i addr b).CanonIf P := by
  unfold State.restoreCtx
  dsimp only
  refine State.CanonIf.testDeps ?_
  refine State.CanonIf.foldl ?_ fun s1 x h1 => h1.unitService
  refine State.CanonIf.enterSaved ?_
  refine State.CanonIf.setCtx ?_
  exact h

theorem execRestore_canon {s : State} {i : Nat} (h : s.CanonIf P) : Out.CanonIf P (execRestore i s) := by
  unfold execRestore
  dsimp only
  split
  · exact h.next
  · split
    · exact h.msgFault.next
    · split
      · exact h.msgFault.next
      · split
        · exact h.popMsg.reportCtx.next
        · split
          · exact h.popMsg.reportCtx.next
          · split
            · exact h.popMsg.reportCtx.next
            · exact h.popMsg.restoreCtx.next

theorem State.CanonIf.fill {s : State} {ctx : Nat} {x : Miss} (h : s.CanonIf P) : (s.fill ctx x).CanonIf P := by
  unfold State.fill
  dsimp only
  refine State.CanonIf.testDeps ?_
  split
  · refine State.CanonIf.retryJoins ?_
    refine State.CanonIf.retryLate ?_
    split
    · refine State.CanonIf.updCtx ?_
      exact h
    · exact h
  · split
    · refine State.CanonIf.updCtx ?_
      exact h
    · exact h

theorem execFill_canon {s : State} {i : Nat} (h : s.CanonIf P) : Out.CanonIf P (execFill i s) := by
  unfold execFill
  split
  · exact h.next
  · split
    · exact h.msgFault.next
    · exact h.popMsg.fill.next

theorem execSetdump_canon {s : State} {i : Nat} (h : s.CanonIf P) : Out.CanonIf P (execSetdump i s) := by
  unfold execSetdump
  dsimp only
  split
  · exact h.next
  · split
    · exact h.msgFault.next
    · refine State.CanonIf.next ?_
      exact h.popMsg

theorem State.CanonIf.endCtx {s : State} {ctx : Nat} (h : s.CanonIf P) : (s.endCtx ctx).CanonIf P := by
  unfold State.endCtx
  dsimp only
  refine State.CanonIf.foldl ?_ fun s1 x h1 => h1.unitService
  exact h

theorem execCtxend_canon {s : State} {i : Nat} (h : s.CanonIf P) : Out.CanonIf P (execCtxend i s) := by
  unfold execCtxend
  refine h.withOwned fun m c => ?_
  split
  · exact h.msgFault
  · exact h.popMsg.endCtx

theorem execHostWriteToDeviceMemory_canon {s : State} {addr : Nat} {bytes : List Byte} (h : s.CanonIf P) :
    Out.CanonIf P (execHostWriteToDeviceMemory addr bytes s) := by
  unfold execHostWriteToDeviceMemory
  split
  · exact h.dropL1.writeMem.next
  · exact h.next

/-! Reset, errors, self-test and power. -/

theorem State.CanonIf.capability {s : State} {part : Nat} (h : s.CanonIf P) : (s.capability part).CanonIf P :=
  h.foldl fun s1 x h1 => h1.report

theorem execDeviceReset_canon {s : State} (h : s.CanonIf P) : Out.CanonIf P (execDeviceReset s) := by
  unfold execDeviceReset
  dsimp only
  split
  · exact ⟨_, rfl, h⟩
  · refine State.CanonIf.next ?_
    refine State.CanonIf.foldl ?_ fun s1 x h1 => ?_
    · refine State.CanonIf.foldl ?_ (fun s1 x h1 => h1.report)
      exact h
    · split
      · exact h1.capability
      · exact h1

theorem execNewImageOrRecord_canon {s : State} {image record : List Byte} (h : s.CanonIf P) :
    Out.CanonIf P (execNewImageOrRecord image record s) := by
  unfold execNewImageOrRecord
  split
  · exact h.next
  · exact ⟨_, rfl, h⟩

theorem State.CanonIf.die {s : State} {cause unit : W32} (h : s.CanonIf P) : (s.die cause unit).CanonIf P := by
  unfold State.die
  dsimp only
  refine State.CanonIf.of_mem ?_ rfl rfl rfl
  split
  · exact h
  · exact h.writeMem

theorem execFatalError_canon {s : State} {cause unit : W32} (h : s.CanonIf P) :
    Out.CanonIf P (execFatalError cause unit s) :=
  h.die.next

theorem State.CanonIf.spoil {s : State} {p : Place} (h : s.CanonIf P) : (s.spoil p).CanonIf P := by
  unfold State.spoil
  dsimp only
  split
  · exact h.updGroup
  · exact h.updGroup
  · exact h.updGroup
  · split
    · exact h.setUnit
    · exact h
  · exact h
  · exact h.updTeam
  · exact h
  · split <;> exact h
  · exact h

theorem execSoftError_canon {s : State} {place : Place} {correctable : Bool} {unit : W32} (h : s.CanonIf P) :
    Out.CanonIf P (execSoftError place correctable unit s) := by
  unfold execSoftError
  dsimp only
  refine State.CanonIf.next ?_
  split
  · exact h
  · refine State.CanonIf.spoil ?_
    exact h

theorem State.CanonIf.unparkUnit {s : State} {u : Nat} (h : s.CanonIf P) : (s.unparkUnit u).CanonIf P := by
  unfold State.unparkUnit
  dsimp only
  exact h

theorem State.CanonIf.lessCapable {s : State} {u : W32} (h : s.CanonIf P) : (s.lessCapable u).CanonIf P := by
  unfold State.lessCapable
  refine h.foldl fun s1 x h1 => ?_
  split
  · exact h1.capability
  · exact h1

theorem State.CanonIf.closeCores {s : State} (h : s.CanonIf P) : (s.closeCores).CanonIf P := by
  unfold State.closeCores
  dsimp only
  refine h.foldl fun s1 x h1 => ?_
  refine State.CanonIf.lessCapable ?_
  exact h1

theorem State.CanonIf.disableUnit {s : State} {u : W32} (h : s.CanonIf P) : (s.disableUnit u).CanonIf P := by
  unfold State.disableUnit
  dsimp only
  split
  · refine State.CanonIf.closeCores ?_
    refine State.CanonIf.foldl ?_ fun s1 x h1 => h1.leave
    exact h
  · refine State.CanonIf.lessCapable ?_
    split
    · refine State.CanonIf.unparkUnit ?_
      refine State.CanonIf.setUnit ?_
      exact h
    · exact h

theorem State.CanonIf.retryRecords {s : State} (h : s.CanonIf P) : (s.retryRecords).CanonIf P := by
  unfold State.retryRecords
  dsimp only
  refine State.CanonIf.foldl ?_ fun s1 x h1 => h1.retryJoins
  exact h

theorem State.CanonIf.flushAll {s : State} (h : s.CanonIf P) : (s.flushAll).CanonIf P := h.foldl fun s1 x h1 => h1.flush

theorem State.CanonIf.lift {s : State} {f : Fence} (h : s.CanonIf P) : (s.lift f).CanonIf P := by
  unfold State.lift
  dsimp only
  split
  · refine State.CanonIf.unitService ?_
    refine State.CanonIf.retryRecords ?_
    refine State.CanonIf.retryAll ?_
    exact h
  · refine State.CanonIf.flushAll ?_
    refine State.CanonIf.retryRecords ?_
    refine State.CanonIf.retryAll ?_
    exact h
  · refine State.CanonIf.flushAll ?_
    refine State.CanonIf.retryRecords ?_
    refine State.CanonIf.retryAll ?_
    exact h
  · refine State.CanonIf.settleTriggers ?_
    refine State.CanonIf.retryRecords ?_
    refine State.CanonIf.retryAll ?_
    exact h
  · refine State.CanonIf.retryRecords ?_
    refine State.CanonIf.retryAll ?_
    exact h

theorem execSelfTestDone_canon {s : State} {n : Nat} {passed spare : Bool} (h : s.CanonIf P) :
    Out.CanonIf P (execSelfTestDone n passed spare s) := by
  unfold execSelfTestDone
  split
  · exact h.next
  · split
    · exact h.lift.next
    · split
      · refine State.CanonIf.next ?_
        refine State.CanonIf.lift ?_
        exact h
      · split
        · refine State.CanonIf.next ?_
          refine State.CanonIf.die ?_
          exact h
        · split
          · exact h.disableUnit.lift.next
          · exact h.disableUnit.next

theorem execPowerSample_canon {s : State} {watts : Nat} {nearPeak : Bool} (h : s.CanonIf P) :
    Out.CanonIf P (execPowerSample watts nearPeak s) := by
  unfold execPowerSample
  dsimp only
  refine State.CanonIf.next ?_
  split
  · refine State.CanonIf.die ?_
    exact h
  · exact h

theorem execPowerAverage_canon {s : State} {watts celsius : Nat} (h : s.CanonIf P) :
    Out.CanonIf P (execPowerAverage watts celsius s) := by
  unfold execPowerAverage
  dsimp only
  split
  · refine State.CanonIf.next ?_
    refine State.CanonIf.die ?_
    exact h
  · split <;> exact ⟨_, rfl, h⟩

theorem execTelemetryRefresh_canon {s : State} {sensors : Sensors} (h : s.CanonIf P) :
    Out.CanonIf P (execTelemetryRefresh sensors s) := by
  unfold execTelemetryRefresh
  exact ⟨_, rfl, h⟩

/-! The end of a step. -/

theorem State.CanonIf.tock {s : State} (h : s.CanonIf P) : (s.tock).CanonIf P := by
  unfold State.tock
  exact h

theorem State.CanonIf.finish {s : State} (h : s.CanonIf P) : (s.finish).CanonIf P := by
  unfold State.finish
  split
  · exact h.tock
  · exact h.tock.enterSaved.closeCores.observe.testDeps.evictL1

end Sys2Proof.Machine
end

section
/-! O59 and O60: from every state the next step answers a next state, whose memories are in canonical form if they were before. -/

namespace Sys2Proof.Machine

variable {P : Prop}

/-! Every instruction. -/

/-- What stands when an instruction is executed: where it is an instruction word, it issues in a group that is there. -/
structure State.Ready (P : Prop) (i : Instr) (s : State) : Prop where
  canon : s.CanonIf P
  issuing : i.shape.isSome = true → s.Issuing P i

theorem State.Ready.computes {s : State} {i : Instr} {r : Opd × Nat} (h : s.Ready P i) (hw : i.shape.isSome = true)
    (hc : i.computes = some r) : Out.CanonIf P (exec i s) := by
  obtain ⟨f, he, -⟩ := computes_computing hc s
  rw [he]
  exact (h.issuing hw).compute

theorem exec_canon {s : State} {i : Instr} (h : s.Ready P i) : Out.CanonIf P (exec i s) := by
  cases i
  case nop => exact execNop_canon (h.issuing rfl)
  case bra => exact execBra_canon (h.issuing rfl)
  case brg => exact execBrg_canon (h.issuing rfl)
  case jmp => exact execJmp_canon (h.issuing rfl)
  case call => exact execCall_canon (h.issuing rfl)
  case ret => exact execRet_canon (h.issuing rfl)
  case loop => exact execLoop_canon (h.issuing rfl)
  case exit => exact execExit_canon (h.issuing rfl)
  case exitG => exact execExitG_canon (h.issuing rfl)
  case halt => exact execHalt_canon (h.issuing rfl)
  case bar => exact execBar_canon (h.issuing rfl)
  case yield => exact execYield_canon (h.issuing rfl)
  case waitAny => exact execWaitAny_canon (h.issuing rfl)
  case waitAll => exact execWaitAll_canon (h.issuing rfl)
  case waitMs => exact execWaitMs_canon (h.issuing rfl)
  case ffr => exact execFfr_canon (h.issuing rfl)
  case trapSys => exact execTrapSys_canon (h.issuing rfl)
  case trapBrk => exact execTrapBrk_canon (h.issuing rfl)
  case trapretSame => exact execTrapretSame_canon (h.issuing rfl)
  case trapretNext => exact execTrapretNext_canon (h.issuing rfl)
  case abort => exact execAbort_canon (h.issuing rfl)
  case bsa => exact execBsa_canon (h.issuing rfl)
  case movsWrite => exact execMovsWrite_canon (h.issuing rfl)
  case tagclrWrite => exact execTagclrWrite_canon (h.issuing rfl)
  case func => exact execFunc_canon (h.issuing rfl)
  case ld => exact execLd_canon (h.issuing rfl)
  case st => exact execSt_canon (h.issuing rfl)
  case atom => exact execAtom_canon (h.issuing rfl)
  case atomo => exact execAtomo_canon (h.issuing rfl)
  case fence => exact execFence_canon (h.issuing rfl)
  case pref => exact execPref_canon (h.issuing rfl)
  case cmaintInv => exact execCmaintInv_canon (h.issuing rfl)
  case cmaintInvall => exact execCmaintInvall_canon (h.issuing rfl)
  case tier => exact execTier_canon (h.issuing rfl)
  case ersv => exact execErsv_canon (h.issuing rfl)
  case erel => exact execErel_canon (h.issuing rfl)
  case edisc => exact execEdisc_canon (h.issuing rfl)
  case emig => exact execEmig_canon (h.issuing rfl)
  case rmset => exact execRmset_canon (h.issuing rfl)
  case rmsetGet => exact execRmsetGet_canon (h.issuing rfl)
  case rmrefInc => exact execRmrefInc_canon (h.issuing rfl)
  case rmrefDec => exact execRmrefDec_canon (h.issuing rfl)
  case rmrefGet => exact execRmrefGet_canon (h.issuing rfl)
  case rmrefSet => exact execRmrefSet_canon (h.issuing rfl)
  case msinit => exact execMsinit_canon (h.issuing rfl)
  case msarrArr => exact execMsarrArr_canon (h.issuing rfl)
  case msarrExp => exact execMsarrExp_canon (h.issuing rfl)
  case msbind => exact execMsbind_canon (h.issuing rfl)
  case msbindUnbind => exact execMsbindUnbind_canon (h.issuing rfl)
  case msqry => exact execMsqry_canon (h.issuing rfl)
  case trig => exact execTrig_canon (h.issuing rfl)
  case tdef => exact execTdef_canon (h.issuing rfl)
  case tdefClr => exact execTdefClr_canon (h.issuing rfl)
  case fres => exact execFres_canon (h.issuing rfl)
  case freg => exact execFreg_canon (h.issuing rfl)
  case rst => exact execRst_canon (h.issuing rfl)
  case rred => exact execRred_canon (h.issuing rfl)
  case ratom => exact execRatom_canon (h.issuing rfl)
  case rld => exact execRld_canon (h.issuing rfl)
  case rcopy => exact execRcopy_canon (h.issuing rfl)
  case sabind => exact execSabind_canon (h.issuing rfl)
  case sabindDst => exact execSabindDst_canon (h.issuing rfl)
  case sabindClr => exact execSabindClr_canon (h.issuing rfl)
  case pcnt => exact execPcnt_canon (h.issuing rfl)
  case qld => exact execQld_canon (h.issuing rfl)
  case qset => exact execQset_canon (h.issuing rfl)
  case qrs => exact execQrs_canon (h.issuing rfl)
  case mma => exact execMma_canon (h.issuing rfl)
  case mmaNew => exact execMmaNew_canon (h.issuing rfl)
  case mmas => exact execMmas_canon (h.issuing rfl)
  case mmasNew => exact execMmasNew_canon (h.issuing rfl)
  case accrel => exact execAccrel_canon (h.issuing rfl)
  case accdr => exact execAccdr_canon (h.issuing rfl)
  case strmCnt => exact execStrmCnt_canon (h.issuing rfl)
  case strmDrop => exact execStrmDrop_canon (h.issuing rfl)
  case cbld => exact execCbld_canon (h.issuing rfl)
  case launch => exact execLaunch_canon (h.issuing rfl)
  case rgrow => exact execRgrow_canon (h.issuing rfl)
  case rshrk => exact execRshrk_canon (h.issuing rfl)
  case probe => exact execProbe_canon (h.issuing rfl)
  case qrsStateLoad => exact execQrsStateLoad_canon h.canon
  case accdrRead => exact execAccdrRead_canon h.canon
  case legIssue => exact execLegIssue_canon h.canon
  case dmodeTimeshareSwitch => exact execDmodeTimeshareSwitch_canon h.canon
  case loadDataLands => exact execLoadDataLands_canon h.canon
  case probeTimer => exact execProbeTimer_canon h.canon
  case probeHop => exact execProbeHop_canon h.canon
  case teamAdmit => exact execTeamAdmit_canon h.canon
  case stealMessage => exact execStealMessage_canon h.canon
  case stealHandover => exact execStealHandover_canon h.canon
  case groupRelease => exact execGroupRelease_canon h.canon
  case teamRetire => exact execTeamRetire_canon h.canon
  case launchRetire => exact execLaunchRetire_canon h.canon
  case abortDiscardDone => exact execAbortDiscardDone_canon h.canon
  case switchOutComplete => exact execSwitchOutComplete_canon h.canon
  case pageMigration => exact execPageMigration_canon h.canon
  case tierPageMove => exact execTierPageMove_canon h.canon
  case tierComplete => exact execTierComplete_canon h.canon
  case emberLineEvict => exact execEmberLineEvict_canon h.canon
  case atomoArrival => exact execAtomoArrival_canon h.canon
  case atomoResend => exact execAtomoResend_canon h.canon
  case startResend => exact execStartResend_canon h.canon
  case copyBegin => exact execCopyBegin_canon h.canon
  case copyComplete => exact execCopyComplete_canon h.canon
  case tostreamTileEnter => exact execTostreamTileEnter_canon h.canon
  case matrixStepBegin => exact execMatrixStepBegin_canon h.canon
  case matrixStepComplete => exact execMatrixStepComplete_canon h.canon
  case allowanceReturn => exact execAllowanceReturn_canon h.canon
  case rcopySegment => exact execRcopySegment_canon h.canon
  case switchCopy => exact execSwitchCopy_canon h.canon
  case roundTimeout => exact execRoundTimeout_canon h.canon
  case remoteLanding => exact execRemoteLanding_canon h.canon
  case ackArrival => exact execAckArrival_canon h.canon
  case remoteResponse => exact execRemoteResponse_canon h.canon
  case remoteTimeout => exact execRemoteTimeout_canon h.canon
  case laneSparing => exact execLaneSparing_canon h.canon
  case peerRejoin => exact execPeerRejoin_canon h.canon
  case preemptDeadline => exact execPreemptDeadline_canon h.canon
  case contextSave => exact execContextSave_canon h.canon
  case launchMessage => exact execLaunchMessage_canon h.canon
  case ctxstart => exact execCtxstart_canon h.canon
  case preempt => exact execPreempt_canon h.canon
  case unpreempt => exact execUnpreempt_canon h.canon
  case restore => exact execRestore_canon h.canon
  case fill => exact execFill_canon h.canon
  case setdump => exact execSetdump_canon h.canon
  case ctxend => exact execCtxend_canon h.canon
  case mrtail => exact execMrtail_canon h.canon
  case mrbase => exact execMrbase_canon h.canon
  case rqbase => exact execRqbase_canon h.canon
  case rqhead => exact execRqhead_canon h.canon
  case registerWrite => exact execRegisterWrite_canon h.canon
  case deviceReset => exact execDeviceReset_canon h.canon
  case softError => exact execSoftError_canon h.canon
  case selfTestDone => exact execSelfTestDone_canon h.canon
  case fatalError => exact execFatalError_canon h.canon
  case powerSample => exact execPowerSample_canon h.canon
  case powerAverage => exact execPowerAverage_canon h.canon
  case telemetryRefresh => exact execTelemetryRefresh_canon h.canon
  case acknowledgementTimeout => exact execAcknowledgementTimeout_canon h.canon
  case copyRowLanded => exact execCopyRowLanded_canon h.canon
  case hostWriteToDeviceMemory => exact execHostWriteToDeviceMemory_canon h.canon
  case fabricManagerAssignment => exact execFabricManagerAssignment_canon h.canon
  case newImageOrRecord => exact execNewImageOrRecord_canon h.canon
  case marginSampling => exact execMarginSampling_canon h.canon
  case imul fn _ _ _ _ => cases fn <;> exact h.computes rfl rfl
  all_goals exact h.computes rfl rfl

/-! The fetch answers the same group, whatever arrivals it made. -/

theorem State.popRc_id (s : State) (g : Group) : (s.popRc g).id = g.id := by
  unfold State.popRc
  dsimp only
  split
  · split
    · split <;> rfl
    · rfl
  · rfl

theorem State.arrive_id (s : State) (g : Group) (a w : W64) : (s.arrive g a w).id = g.id := by
  unfold State.arrive
  dsimp only
  split
  · split
    · split
      · split
        · split
          · exact s.popRc_id g
          · rfl
        · rfl
      · split
        · exact s.popRc_id _
        · rfl
    · rfl
  · rfl

/-- Entering a block ends without an instruction, or at a block with the same group. -/
def Entered (id : GroupId) : Fetched ⊕ Group × Block → Prop
  | .inl f => ∀ g i, f ≠ .ok g i
  | .inr (g, _) => g.id = id

theorem entered_trap {id : GroupId} {g : Group} {tpc next : W64} {t : Trap} {e : Bool} :
    Entered id (.inl (.trap g tpc next t e)) := fun _ _ h => Fetched.noConfusion h

theorem entered_miss {id : GroupId} {g : Group} {ms : List (Miss × Bool)} : Entered id (.inl (.miss g ms)) :=
  fun _ _ h => Fetched.noConfusion h

theorem entered_wait {id : GroupId} {g : Group} : Entered id (.inl (.wait g)) := fun _ _ h => Fetched.noConfusion h

theorem State.enterBlock_entered {s : State} {n : Nat} {g : Group} {id : GroupId} (hg : g.id = id) :
    Entered id (s.enterBlock g n) := by
  induction n generalizing g with
  | zero => exact entered_trap
  | succ n ih =>
    unfold State.enterBlock
    split
    · exact hg
    · extract_lets first bad ill
      have hill : Entered id ill := entered_trap
      clear_value first ill
      split
      · exact hill
      · split
        · exact hill
        · exact entered_miss
        · exact entered_wait
        · exact entered_trap
        · split
          · exact hill
          · exact ih ((s.arrive_id ..).trans hg)

theorem State.fetchWord_group {s : State} {g g1 : Group} {a : W64} {stop : Option W64} {i : Instr}
    (h : s.fetchWord g a stop = .ok g1 i) : g1 = g := by
  unfold State.fetchWord at h
  split at h
  · cases h
  · cases h
  · cases h
  · cases h
  · extract_lets w lit next bad go at h
    have decoded (after : Option W64) (h : go after = .ok g1 i) : g1 = g := by
      dsimp only [go] at h
      split at h
      · cases h
      · split at h
        · cases h
        · split at h
          · cases h; rfl
          · cases h
    clear_value go
    split at h
    · exact decoded _ h
    · split at h
      · cases h
      · generalize s.codeWord g.id (a + 8) = r at h
        cases r with
        | ok ls => exact decoded _ h
        | prot | miss | wait | bad => dsimp only at h; split at h <;> exact Fetched.noConfusion h

theorem State.fetchIn_group {s : State} {g g1 : Group} {b : Block} {i : Instr} (h : s.fetchIn g b = .ok g1 i) : g1 = g := by
  unfold State.fetchIn at h
  split at h
  next hw =>
    obtain rfl := State.fetchWord_group hw
    split at h
    · cases h; rfl
    · dsimp only at h
      split at h
      · cases h
      · split at h
        · cases h
        · split at h
          · split at h
            · cases h
            · split at h
              · cases h
              · cases h
              · cases h
              · cases h
              · split at h
                · cases h; rfl
                · cases h
          · cases h; rfl
  next r hr => exact absurd h (hr g1 i)

theorem State.fetch_id {s : State} {g g1 : Group} {i : Instr} (h : s.fetch g = .ok g1 i) : g1.id = g.id := by
  unfold State.fetch at h
  split at h
  · cases h
  · split at h
    · rw [State.fetchWord_group h]
    · have he := s.enterBlock_entered (n := g.stack.length + g.spill + 2) (g := g) rfl
      split at h
      next hb =>
        rw [hb] at he
        exact absurd h (he g1 i)
      next hb =>
        rw [hb] at he
        rw [State.fetchIn_group h]
        exact he

/-! The next move. -/

/-- A step's move leaves a next state, or an instruction that is ready to be executed. -/
def Leads (P : Prop) (x : State ⊕ Instr × State) : Prop :=
  match x with
  | .inl t => t.CanonIf P
  | .inr (i, t) => t.Ready P i

theorem State.CanonIf.fetchRun {s : State} {g : Group} (h : s.CanonIf P) (hg : (s.group? g.id).isSome = true) :
    Leads P (s.fetchRun g) := by
  unfold State.fetchRun
  split
  · exact h.trapAt
  · split
    · exact h.setGroup.missing
    · exact h.setGroup
    · dsimp only [Leads]
      split
      · exact h.setGroup.trapAt
      · exact h.setGroup.trapAt
    next g1 i hf =>
      have hc : ({ (s.setGroup g1).noteFetch g.id (fetchedAt g g1 i) with cur := some g1.id } : State).CanonIf P :=
        h.setGroup.noteFetch
      refine ⟨hc, fun hw => ⟨hc, hw, g1.id, g1, rfl, ?_⟩⟩
      have hgr := ((s.setGroup g1).noteFetch_asks g.id (fetchedAt g g1 i)).groups
      rw [← State.fetch_id hf] at hg
      calc _ = (s.setGroup g1).group? g1.id := by simp only [State.group?, hgr]
        _ = some g1 := s.group?_setGroup g1 hg

theorem State.CanonIf.slotMove {s : State} {site : Site} {slot : Nat} (h : s.CanonIf P) : Leads P (s.slotMove site slot) := by
  unfold State.slotMove
  split
  next g hg => exact h.fetchRun (group?_isSome_of_mem (List.mem_of_find?_eq_some hg))
  · exact ⟨h, nofun⟩

theorem State.CanonIf.act {s : State} {m : Move} (h : s.CanonIf P) : Leads P (s.act m) := by
  unfold State.act
  split
  · split
    · exact h
    · exact h.slotMove
  · split
    · exact h
    next hn =>
      refine ⟨h, fun hw => absurd ?_ hn⟩
      rw [hw]; rfl

theorem State.CanonIf.nextMove {s : State} (h : s.CanonIf P) : Leads P s.nextMove := by
  unfold State.nextMove
  split
  · exact State.CanonIf.act h
  · split
    · exact h
    · split
      · exact h.act
      · exact State.CanonIf.act h

/-- A step answers a next state, in which the form is kept. -/
theorem step_canon {s : State} (h : s.CanonIf P) : ∃ t, step s = .next t ∧ t.CanonIf P := by
  have hm := h.nextMove
  unfold step
  split
  next s1 hn =>
    rw [hn] at hm
    exact ⟨_, rfl, State.CanonIf.finish hm⟩
  next i s1 hn =>
    rw [hn] at hm
    obtain ⟨t, ht, hc⟩ := exec_canon (show s1.Ready P i from hm)
    rw [ht]
    exact ⟨_, rfl, hc.finish⟩

/-- Settles O59: whatever the next move is, its instruction answers a next state. -/
theorem everyStepAnswersANextState : Obligations.EveryStepAnswersANextState := by
  intro s
  obtain ⟨t, ht, -⟩ := step_canon (P := False) (s := s) nofun
  exact ⟨t, ht⟩

/-- Settles O60: memories are written by `cellWrite` alone, which keeps the form. -/
theorem stepsKeepMemoryCanonical : Obligations.StepsKeepMemoryCanonical := by
  intro s t ht hs
  obtain ⟨u, hu, hc⟩ := step_canon (P := s.memOk = true) (s := s) id
  cases ht.symm.trans hu
  exact hc hs

end Sys2Proof.Machine
end

section
/-! O18: loads, and what the checks of an access answer. -/

namespace Sys2Proof.Machine

/-! Accesses whose checks fail. -/

section
variable {s : State} {g : Group} {h : Hdr} {sp : Space} {k : AKind} {align w : Nat} {addrs : List (Nat × W64)}
  {next : List (Nat × W64 × ATgt) → Out} {lost : List (Miss × Bool) → Out}

theorem State.withChecked_trap {t : Trap} (hc : s.checkLanes g h sp k align w addrs = .trap t) :
    s.withChecked g h sp k align w addrs next lost = s.traps g h t := by
  rw [State.withChecked, hc]; rfl

theorem State.withChecked_miss {ms : List (Miss × Bool)} (hc : s.checkLanes g h sp k align w addrs = .miss ms) :
    s.withChecked g h sp k align w addrs next lost = lost ms := by
  rw [State.withChecked, hc]

/-- The trap of lanes that fail a check. -/
def lanesFail (h : Hdr) (c : Cause) (bad : List (Nat × W64)) : Chk :=
  .trap { cause := c, info := (bad.headD (0, 0)).2, lanes := tlaneOf h (bad.map (·.1)) }

theorem State.checkLanes_misaligned (hm : (addrs.filter fun x => x.2.toNat % align ≠ 0) ≠ []) :
    s.checkLanes g h sp k align w addrs = lanesFail h .align (addrs.filter fun x => x.2.toNat % align ≠ 0) := by
  unfold State.checkLanes
  simp only
  rw [if_pos (by simpa using hm)]
  rfl

/-- The checks of lanes that are aligned, by what their addresses resolve to. -/
theorem State.checkLanes_aligned (hm : (addrs.filter fun x => x.2.toNat % align ≠ 0) = []) :
    s.checkLanes g h sp k align w addrs =
      if addrs.any fun x => s.resolve g sp k w x.2 = .held then .wait
      else if (addrs.filter fun x => s.resolve g sp k w x.2 = .prot) ≠ [] then
        lanesFail h .prot (addrs.filter fun x => s.resolve g sp k w x.2 = .prot)
      else
        let ms := addrs.flatMap fun x => match s.resolve g sp k w x.2 with | .miss m => m | _ => []
        if ms ≠ [] then .miss (distinctMiss ms)
        else if addrs.any fun x => s.resolve g sp k w x.2 = .wait then .wait
        else .ok (addrs.filterMap fun x => match s.resolve g sp k w x.2 with | .ok t => some (x.1, x.2, t) | _ => none) := by
  unfold State.checkLanes
  simp only
  rw [if_neg (by simpa using hm)]
  simp only [List.any_map, List.filter_map, List.map_map, List.flatMap_map, List.filterMap_map, Function.comp_def,
    List.map_id', List.isEmpty_map, List.isEmpty_eq_false_iff, Bool.not_eq_true', ne_eq, lanesFail] <;> rfl

/-- With every lane aligned and reached, each goes where its address resolves. -/
theorem State.checkLanes_ok {tgt : Nat × W64 → ATgt} (hm : (addrs.filter fun x => x.2.toNat % align ≠ 0) = [])
    (hx : ∀ x ∈ addrs, s.resolve g sp k w x.2 = .ok (tgt x)) :
    s.checkLanes g h sp k align w addrs = .ok (addrs.map fun x => (x.1, x.2, tgt x)) := by
  refine (State.checkLanes_aligned hm).trans ?_
  have hms : (addrs.flatMap fun x => match s.resolve g sp k w x.2 with | .miss m => m | _ => []) = [] :=
    List.flatMap_eq_nil_iff.mpr fun x hx1 => by rw [hx x hx1]
  have hbad : (addrs.filter fun x => decide (s.resolve g sp k w x.2 = .prot)) = [] := by
    simp +contextual [hx]
  have hall : (addrs.filterMap fun x => match s.resolve g sp k w x.2 with | .ok t => some (x.1, x.2, t) | _ => none) =
      addrs.map fun x => (x.1, x.2, tgt x) := by
    rw [← List.filterMap_eq_map]
    exact List.filterMap_congr fun x hx1 => by simp [hx x hx1]
  have hnot (r : Res) (hr : ∀ t, r ≠ .ok t) : ¬ (addrs.any fun x => decide (s.resolve g sp k w x.2 = r)) = true := by
    simp only [List.any_eq_true, decide_eq_true_eq, not_exists, not_and]
    exact fun x hx1 hx2 => hr _ (hx2 ▸ hx x hx1)
  rw [if_neg (hnot _ (by simp)), if_neg (by simp [hbad])]
  dsimp only
  rw [if_neg (by simp [hms]), if_neg (hnot _ (by simp)), hall]
end

/-! What an address resolves to. -/

section
variable {s : State} {g : Group} {k : AKind} {w : Nat} {va : W64} {c : Ctx}

theorem cutLine_inside {ia n : Nat} (hlt : ia < 2 ^ 52) (h : ia % 64 + n ≤ 64) : cutLine ia n = [(ia, n)] := by
  unfold cutLine
  dsimp only
  rw [if_pos (by omega), Nat.mod_eq_of_lt hlt]

/-- What lies on one line of a missing page is missing with it. -/
theorem State.span_missing {ia n : Nat} {m : Bool} (hlt : ia < 2 ^ 52) (h : ia % 64 + n ≤ 64)
    (hw : s.walk c ia = .missing m) :
    s.span c ia n = { held := s.walkWaits c ia, missing := [(.page (pageOf ia), m)], pieces := [] } := by
  rw [State.span, cutLine_inside hlt h]
  simp [hw, distinctMiss]

/-- What lies on one line of a present page is one piece of it. -/
theorem State.span_present {ia n : Nat} {l : Leaf} (hlt : ia < 2 ^ 52) (h : ia % 64 + n ≤ 64) (hw : s.walk c ia = .ok l) :
    s.span c ia n = { held := s.walkWaits c ia, missing := [], pieces := [{ ia, n, leaf := l }] } := by
  rw [State.span, cutLine_inside hlt h]
  simp [hw, distinctMiss]

/-- While the walk of its page waits, nothing is known of an access. -/
theorem State.resolve_go_held {ia : Nat} {row : Option (Remap × Nat × Nat)} (hlt : ia < 2 ^ 52) (h : ia % 64 + w ≤ 64)
    (hw : s.walkWaits c ia = true) : State.resolve.go s g k w c ia row = .held := by
  rw [State.resolve.go]
  exact if_pos (by simp [State.span, cutLine_inside hlt h, hw])

theorem State.resolve_go_missing {ia : Nat} {row : Option (Remap × Nat × Nat)} {m : Bool} (hlt : ia < 2 ^ 52)
    (h : ia % 64 + w ≤ 64) (hh : s.walkWaits c ia = false) (hw : s.walk c ia = .missing m) :
    State.resolve.go s g k w c ia row = .miss [(.page (pageOf ia), m)] := by
  simp [State.resolve.go, State.span_missing hlt h hw, hh]

theorem State.resolve_go_present {ia : Nat} {row : Option (Remap × Nat × Nat)} {l : Leaf} (hlt : ia < 2 ^ 52)
    (h : ia % 64 + w ≤ 64) (hh : s.walkWaits c ia = false) (hw : s.walk c ia = .ok l) :
    State.resolve.go s g k w c ia row =
      if k ≠ .load ∧ l.kind = 1 then .prot
      else if s.unreached g.site.cluster c.no [{ ia, n := w, leaf := l }]
        || ((k = .load || k = .store) && s.spilledAway c g.id.task [{ ia, n := w, leaf := l }])
        || (k ≠ .cell && s.cellDue g.id [{ ia, n := w, leaf := l }]) then .wait
      else .ok (.pub [{ ia, n := w, leaf := l }] row) := by
  simp [State.resolve.go, State.span_present hlt h hw, hh]

/-- An address in a NORMAL range goes where its intermediate address does. -/
theorem State.resolve_normal {r : Range} (hc : s.ctx? g.id.ctx = some c) (hr : s.rangeOf c va.toNat = some r)
    (hk : r.kind = 0) :
    s.resolve g .gl k w va = State.resolve.go s g k w c ((va.toNat + r.target.toNat) % 2 ^ 52) none := by
  simp only [State.resolve, hc, State.xlat, hr, hk, Range.ia]

theorem State.resolve_uncovered (hc : s.ctx? g.id.ctx = some c) (hr : s.rangeOf c va.toNat = none) :
    s.resolve g .gl k w va = .prot := by
  simp only [State.resolve, hc, State.xlat, hr]

theorem State.resolve_fabric {r : Range} (hc : s.ctx? g.id.ctx = some c) (hr : s.rangeOf c va.toNat = some r)
    (hk : r.kind = 3) : s.resolve g .gl k w va = .prot := by
  simp only [State.resolve, hc, State.xlat, hr, hk]

theorem State.resolve_aperture {r : Range} (hc : s.ctx? g.id.ctx = some c) (hr : s.rangeOf c va.toNat = some r)
    (hk : r.kind = 2) :
    s.resolve g .gl k w va = if k = .store ∧ w = 8 then .ok (.aperture (va.toNat - r.base.toNat)) else .prot := by
  simp only [State.resolve, hc, State.xlat, hr, hk, Bool.and_eq_true, decide_eq_true_eq]

theorem State.resolve_share {t : Team} {cl off size : Nat} (ht : s.teamOf g.id = some t)
    (hs : s.shareOf t = some (cl, off, size)) :
    s.resolve g .sh k w va = if size < va.toNat + w then .prot
      else if s.winWaits cl (off + va.toNat) w then .wait else .ok (.scr cl (off + va.toNat)) := by
  simp only [State.resolve, ht, hs]
end

/-- Within one core's scratchpad an access of the window meets that core alone. -/
theorem State.cwProt_core {s : State} {ctx cluster off n : Nat} (hn : 0 < n)
    (hlo : off % Config.scratchBytes + n ≤ Config.scratchBytes) (hw : off + n ≤ Config.windowBytes) :
    s.cwProt ctx cluster off n = s.coreProt ctx cluster (off / Config.scratchBytes) (off % Config.scratchBytes)
      (off % Config.scratchBytes + n) := by
  have hlast : (off + n - 1) / Config.scratchBytes = off / Config.scratchBytes := by
    unfold Config.scratchBytes at *; omega
  have hbase : off / Config.scratchBytes * Config.scratchBytes + off % Config.scratchBytes = off := by
    rw [Nat.mul_comm]; exact Nat.div_add_mod ..
  have hmax : max off (off / Config.scratchBytes * Config.scratchBytes) - off / Config.scratchBytes * Config.scratchBytes =
      off % Config.scratchBytes := by omega
  have hmin : min (off + n) (off / Config.scratchBytes * Config.scratchBytes + Config.scratchBytes) -
      off / Config.scratchBytes * Config.scratchBytes = off % Config.scratchBytes + n := by omega
  simp only [State.cwProt, hlast, Nat.add_sub_cancel_left, List.range_one, List.any_cons, List.any_nil, Nat.add_zero, hmax, hmin,
    Bool.or_false, decide_eq_false (Nat.not_lt.mpr hw), Bool.false_or]

/-- Settles O18. -/
theorem loadsIssue : Obligations.LoadsIssue := by
  refine ⟨?_, ?_, ?_⟩
  · intro s g h ord sp ty d a b scope hi w
    rw [exec_ld, execLd, State.issue_go (h := h) hi rfl]
    refine ⟨fun ha => ?none, fun accs vals bads ha hc hv => ?ok, fun t ha hc => ?trap, fun ms ha hc => ?miss⟩
    case none => simp only [ha, List.isEmpty_nil, if_true]; rfl
    all_goals simp only [List.isEmpty_iff, if_neg ha]
    case ok => rw [State.withChecked_ok hc, hv]
    case trap => exact State.withChecked_trap hc
    case miss => exact State.withChecked_miss hc
  · intro s g h sp k align w addrs fails mis prot check
    have held_iff : (addrs.any fun x => decide (s.resolve g sp k w x.2 = .held)) = true ↔
        ∃ x ∈ addrs, s.resolve g sp k w x.2 = .held := by simp
    refine ⟨State.checkLanes_misaligned, fun hm hx => ?held, fun hm hx hp => ?prot, fun L va ms ha hm hr hne => ?miss,
      fun tgt hm hx => ?ok⟩
    case held => exact (State.checkLanes_aligned hm).trans (if_pos (held_iff.mpr hx))
    case prot =>
      refine (State.checkLanes_aligned hm).trans ((if_neg ?_).trans (if_pos hp))
      rw [held_iff]
      rintro ⟨x, hx1, hx2⟩
      exact hx x hx1 hx2
    case miss =>
      subst ha
      refine (State.checkLanes_aligned (by simp [hm])).trans ?_
      simp [hr, hne]
    case ok => exact State.checkLanes_ok hm hx
  · intro s g k w va c r hc ia
    have hlt : ia < 2 ^ 52 := Nat.mod_lt _ (by decide)
    have normal (hr : s.rangeOf c va.toNat = some r) (hk : r.kind = 0) :
        s.resolve g .gl k w va = State.resolve.go s g k w c ia none := State.resolve_normal hc hr hk
    clear_value ia
    refine ⟨State.resolve_uncovered hc, State.resolve_fabric hc, State.resolve_aperture hc,
      fun hr hk hl hw => ?held, fun m hr hk hl hh hw => ?missing, fun l hr hk hl hh hw => ?present,
      fun t cl off size ht hs => ?share, fun hb => ?beyond, ?window⟩
    case held => rw [normal hr hk, State.resolve_go_held hlt hl hw]
    case missing => rw [normal hr hk, State.resolve_go_missing hlt hl hh hw]
    case present =>
      rw [normal hr hk, State.resolve_go_present hlt hl hh hw]
      refine ⟨fun h1 h2 => if_pos ⟨h1, h2⟩, fun hps hu hs hd => ?_⟩
      rw [if_neg (by tauto), hu, hs, hd]
      simp
    case share =>
      rw [State.resolve_share ht hs]
      refine ⟨fun hlt => if_pos hlt, fun hle hw => ?_⟩
      rw [if_neg (by omega), hw]
      rfl
    case beyond => simp [State.resolve, State.cwProt, hb]
    case window =>
      intro core lo hn hlo hw shut
      have hcore : s.cwProt g.id.ctx g.site.cluster va.toNat w = s.coreProt g.id.ctx g.site.cluster core lo (lo + w) :=
        State.cwProt_core hn hlo hw
      have hshut : s.coreProt g.id.ctx g.site.cluster core lo (lo + w) = true ↔ shut := by
        simp [State.coreProt, shut, and_assoc]
      clear_value shut
      refine ⟨fun h => ?_, fun h hww => ?_⟩
      · simp [State.resolve, hcore, hshut.mpr h]
      · rw [← hshut, Bool.not_eq_true] at h
        simp [State.resolve, hcore, h, hww]

end Sys2Proof.Machine
end

section
/-! O19: stores. -/

namespace Sys2Proof.Machine

section
variable {s : State} {g : Group} {h : Hdr} {sp : Space} {k : AKind} {align w : Nat} {addrs : List (Nat × W64)}
  {act : LaneFn}

theorem State.withChecked_accs {accs : List (Nat × W64 × ATgt)} {next : List (Nat × W64 × ATgt) → Out}
    {lost : List (Miss × Bool) → Out} (hc : s.checkLanes g h sp k align w addrs = .ok accs) :
    s.withChecked g h sp k align w addrs next lost = next accs := by
  rw [State.withChecked, hc]

/-- Accesses whose checks pass are what the lanes do in order. -/
theorem State.made_checked {accs : List (Nat × W64 × ATgt)} (hc : s.checkLanes g h sp k align w addrs = .ok accs) :
    s.made g h sp k align w addrs act = s.eachLane g h sp k w act addrs := by
  rw [State.made, hc]

/-- A lane that is done at its place leaves the rest to do. -/
theorem State.eachLane_ok {s1 s2 : State} {L x : Nat} {va : W64} {t : ATgt} {rest : List (Nat × W64)}
    (hp : s.place1 g sp k w va = .ok s1 t) (ha : act L t s1 = .ok x s2) :
    s.eachLane g h sp k w act ((L, va) :: rest) =
      match s2.eachLane g h sp k w act rest with
      | .ok xs s3 => .ok ((t, L, x) :: xs) s3
      | r => r := by
  simp only [State.eachLane, hp, ha] <;> rfl

theorem State.eachLane_vovf {s1 : State} {L : Nat} {va : W64} {t : ATgt} (hp : s.place1 g sp k w va = .ok s1 t)
    (ha : act L t s1 = .vovf) : s.eachLane g h sp k w act [(L, va)] = .trap { cause := .vovf } := by
  simp [State.eachLane, hp, ha, Made.beside]

/-- An access of the aperture asks for no line. -/
theorem State.askLines_aperture {off : Nat} : s.askLines g [.aperture off] = s := by
  unfold State.askLines
  split <;> rfl
end

section
variable {s : State} {g : Group} {h : Hdr} {ord : Order} {sp : Space} {ty : Ty} {d a b : Opd} {scope : Scope}

/-- What the lanes of a store come to. -/
def storeMade (s : State) (g : Group) (h : Hdr) (ord : Order) (sp : Space) (ty : Ty) (d a b : Opd) (scope : Scope) : Made :=
  s.made g h sp .store (ty.bits / 8) (ty.bits / 8) (laneAddrs g h a b) (storeFn g h ty d (ord = .rel && 2 ≤ scope.code))

/-- What a store that issued at `s0` leads to, made from `s`. -/
def storeOut (s0 s : State) (g : Group) (h : Hdr) (m : Made) : Out := m.out s0 s g h fun _ s2 => .next (s2.retire g h)

theorem exec_st_issued (hi : s.issues (.st h ord sp ty d a b scope) g = true) :
    exec (.st h ord sp ty d a b scope) s =
      if (laneAddrs g h a b).isEmpty then s.goes g h
      else s.withChecked g h sp .store (ty.bits / 8) (ty.bits / 8) (laneAddrs g h a b)
        (lost := fun _ => storeOut s s g h (storeMade s g h ord sp ty d a b scope)) fun accs =>
        match s.apertureCheck g h ty d accs with
        | some t => s.traps g h t
        | none =>
          if !(aperturesOf g h ty d accs).isEmpty && s.startWaits g.id then .next s
          else if ord = .rel then
            s.withRelease g scope (fun s1 => storeOut s s1 g h (storeMade s1 g h ord sp ty d a b scope))
              (early := fun s1 => (storeMade s1 g h ord sp ty d a b scope).trap?.map fun t => s.traps g h t)
          else storeOut s s g h (storeMade s g h ord sp ty d a b scope) := by
  rw [exec_st, execSt, State.issue_go (h := h) hi rfl]
  simp only [storeOut, storeMade, State.goes, State.traps] <;> rfl

/-- A store whose checks pass, when nothing keeps its accesses to the aperture. -/
theorem exec_st_checked (hi : s.issues (.st h ord sp ty d a b scope) g = true) {accs : List (Nat × W64 × ATgt)}
    (ha : laneAddrs g h a b ≠ [])
    (hc : s.checkLanes g h sp .store (ty.bits / 8) (ty.bits / 8) (laneAddrs g h a b) = .ok accs)
    (hap : s.apertureCheck g h ty d accs = none) (hw : aperturesOf g h ty d accs = [] ∨ s.startWaits g.id = false) :
    exec (.st h ord sp ty d a b scope) s =
      if ord = .rel then
        s.withRelease g scope (fun s1 => storeOut s s1 g h (storeMade s1 g h ord sp ty d a b scope))
          (early := fun s1 => (storeMade s1 g h ord sp ty d a b scope).trap?.map fun t => s.traps g h t)
      else storeOut s s g h (storeMade s g h ord sp ty d a b scope) := by
  rw [exec_st_issued hi, if_neg (by simpa using ha), State.withChecked_accs hc, hap]
  dsimp only
  rw [if_neg]
  obtain hw | hw := hw <;> simp [hw]
end

/-- Settles O19. -/
theorem storesComplete : Obligations.StoresComplete := by
  constructor
  · intro s g h ord sp ty d a b scope accs hi w fn made
    refine ⟨fun ha => ?none, fun ha hc hap hw => ?checked, fun ms ms1 owners ha hc hm => ?miss, fun t ha hc => ?trap⟩
    case none => rw [exec_st_issued hi, if_pos (by simp [ha])]
    case miss =>
      rw [exec_st_issued hi, if_neg (by simpa using ha), State.withChecked_miss hc]
      exact congrArg (storeOut s s g h) hm
    case trap => rw [exec_st_issued hi, if_neg (by simpa using ha), State.withChecked_trap hc]
    case checked =>
      have he := exec_st_checked hi ha hc hap hw
      refine ⟨fun s1 xs ho hm => ?_, fun x ho hm => ?_, fun s1 s2 xs ho hr hm => ?_, fun s1 x ho hr hm => ?_, fun L va s1 x hl hp hv => ?_⟩
      · exact he.trans ((if_neg ho).trans (congrArg (storeOut s s g h) hm))
      · exact he.trans ((if_neg ho).trans (congrArg (storeOut s s g h) hm))
      · have hm' : storeMade s1 g h ord sp ty d a b scope = .ok xs s2 := hm
        rw [he, if_pos ho, State.withRelease_ok hr (by rw [hm']; rfl), hm']
        rfl
      · have hm' : storeMade s1 g h ord sp ty d a b scope = .trap x := hm
        rw [he, if_pos ho, State.withRelease_early hr (by rw [hm']; rfl)]
      · rw [show made s = _ from State.made_checked hc, hl]
        exact State.eachLane_vovf hp hv
  · intro s g h ty d a b scope c off t hi hG hc hty hal hr hw hcmd hx hidx ht hrem
    have hl : laneAddrs g h a b = [(0, addrOf g h a b 0)] := by rw [laneAddrs, lanesOf_groupWide g hG]; rfl
    have hck : s.checkLanes g h .gl .store (ty.bits / 8) (ty.bits / 8) (laneAddrs g h a b) =
        .ok [(0, addrOf g h a b 0, .aperture off)] := by
      rw [hl, hty]
      exact State.checkLanes_ok (tgt := fun _ => .aperture off) (by simp [hal]) (by simpa using hr)
    have hap : s.apertureCheck g h ty d [(0, addrOf g h a b 0, .aperture off)] = none := by
      have hv : (BitVec.ofNat 64 (rd g h ty d 0)).toNat = rd g h ty d 0 := Nat.mod_eq_of_lt (by omega)
      simp only [State.apertureCheck, hc, aperturesOf, List.filterMap_cons, List.filterMap_nil]
      simp only [apertureTrap]
      rw [List.filter_cons_of_neg (by simp [hcmd]), List.filter_cons_of_neg (by simp [hv, ht, hrem]; omega)]
      rfl
    rw [exec_st_checked hi (by simp [hl]) hck hap (.inr hw), if_neg (by decide)]
    have hp : s.place1 g .gl .store (ty.bits / 8) (addrOf g h a b 0) = .ok s (.aperture off) := by
      rw [hty]; exact State.place1_aperture hr
    rw [storeMade, State.made_checked hck, hl, State.eachLane_ok hp rfl, State.eachLane]
    simp only [storeOut, Made.out_ok, List.map_cons, List.map_nil, State.askLines_aperture, hty]
    rfl

end Sys2Proof.Machine
end

section
/-! O20: atomics and ordered contributions. -/

namespace Sys2Proof.Machine

/-! Placing an access changes memory, ember lines and L1 copies, and nothing else. -/

/-- Only memory, its uncorrectable marks, ember lines and L1 copies may change. -/
def State.Rewrites (s t : State) : Prop :=
  ∃ mem poison ember l1, t = { s with mem := mem, poison := poison, ember := ember, l1 := l1 }

theorem State.Rewrites.refl (s : State) : s.Rewrites s := ⟨s.mem, s.poison, s.ember, s.l1, rfl⟩

theorem State.Rewrites.trans {s t u : State} (h1 : s.Rewrites t) (h2 : t.Rewrites u) : s.Rewrites u := by
  obtain ⟨m, p, e, l, rfl⟩ := h1
  obtain ⟨m', p', e', l', rfl⟩ := h2
  exact ⟨m', p', e', l', rfl⟩

theorem State.Rewrites.ordered {s t : State} (h : s.Rewrites t) : t.ordered = s.ordered := by
  obtain ⟨m, p, e, l, rfl⟩ := h
  rfl

theorem State.writeMem_rewrites (s : State) (a : Nat) (bs : List Byte) : s.Rewrites (s.writeMem a bs) :=
  ⟨_, _, s.ember, s.l1, rfl⟩

theorem State.spoilMem_rewrites (s : State) (ws : List Nat) : s.Rewrites (s.spoilMem ws) := ⟨s.mem, _, s.ember, s.l1, rfl⟩

theorem State.pubWrite_rewrites (s : State) (l : Leaf) (ctx ia : Nat) (bs : List Byte) : s.Rewrites (s.pubWrite l ctx ia bs) := by
  unfold State.pubWrite
  dsimp only
  split
  · split
    · exact ⟨s.mem, s.poison, _, s.l1, rfl⟩
    · exact ⟨s.mem, s.poison, _, s.l1, rfl⟩
  · split
    · exact ⟨_, _, s.ember, _, rfl⟩
    · exact s.writeMem_rewrites ..

theorem State.spoilPub_rewrites (s : State) (l : Leaf) (ctx : Nat) (ws : List Nat) : s.Rewrites (s.spoilPub l ctx ws) := by
  unfold State.spoilPub
  split
  · exact ⟨s.mem, s.poison, _, s.l1, rfl⟩
  · exact s.spoilMem_rewrites _

theorem State.writePieces_rewrites (s : State) (ctx : Nat) (ps : List Piece) (bs : List Byte) :
    s.Rewrites (s.writePieces ctx ps bs) := by
  induction ps generalizing s bs with
  | nil => exact .refl s
  | cons p ps ih => exact (s.pubWrite_rewrites ..).trans (ih ..)

theorem State.iaWrite_rewrites (s : State) (c : Ctx) (ia : Nat) (bs : List Byte) : s.Rewrites (s.iaWrite c ia bs) := by
  unfold State.iaWrite
  dsimp only
  split
  · exact s.writePieces_rewrites ..
  · exact .refl s

theorem State.copyLines_rewrites (s : State) (ls ld : Leaf) (ctx src dst n : Nat) :
    s.Rewrites (s.copyLines ls ld ctx src dst n) := by
  induction n generalizing s src dst with
  | zero => exact .refl s
  | succ n ih => exact ((s.pubWrite_rewrites ..).trans (State.spoilPub_rewrites ..)).trans (ih ..)

theorem State.cow_rewrites {s t : State} {c : Ctx} {cluster : Nat} {d : Remap} {row entry : Nat}
    (h : s.cow c cluster d row entry = .ok t) : s.Rewrites t := by
  unfold State.cow at h
  dsimp only at h
  split at h
  · cases h
  · split at h
    · cases h
    · cases h
    · split at h
      · cases h
        exact s.iaWrite_rewrites ..
      · split at h
        · cases h
        · cases h
        · split at h
          · cases h
          · split at h
            · cases h
            · cases h
            · split at h
              · cases h
              · split at h
                · split at h
                  · cases h
                  · cases h
                    exact ((((s.iaWrite_rewrites ..).trans (State.copyLines_rewrites ..)).trans
                      (State.iaWrite_rewrites ..)).trans (State.iaWrite_rewrites ..)).trans (State.iaWrite_rewrites ..)
                · cases h
                · cases h
                · cases h
                · cases h

theorem State.takeLate_rewrites {s t : State} {c : Ctx} {l l1 : Leaf} (h : s.takeLate c l = some (l1, t)) : s.Rewrites t := by
  unfold State.takeLate at h
  split at h
  · cases h
    exact .refl _
  · split at h
    · cases h
    next f s1 hf =>
      cases h
      have h1 : s.Rewrites s1 := by
        unfold State.takeFrame at hf
        split at hf
        · cases hf
        · cases hf
          exact ⟨_, s.poison, s.ember, s.l1, rfl⟩
      exact (h1.trans (State.writeMem_rewrites ..)).trans (State.writeMem_rewrites ..)

theorem State.evictEmber_rewrites {s t : State} {e : Ember} (h : s.evictEmber e = some t) : s.Rewrites t := by
  unfold State.evictEmber at h
  split at h
  · cases h
  · split at h
    · cases h
    · split at h
      · cases h
      next hl =>
        cases h
        exact (((State.takeLate_rewrites hl).trans (State.writeMem_rewrites ..)).trans (State.spoilMem_rewrites ..)).trans
          ⟨_, _, _, _, rfl⟩

theorem State.roomFor_rewrites {s t : State} {ctx : Nat} {ps : List Piece} (h : s.roomFor ctx ps = .ok t) : s.Rewrites t := by
  induction ps generalizing s with
  | nil => cases h; exact .refl _
  | cons p ps ih =>
    rw [State.roomFor] at h
    split at h
    · cases h
    next s1 hr =>
      refine State.Rewrites.trans ?_ (ih h)
      unfold State.emberRoom State.freeLine at hr
      split at hr
      · cases hr; exact .refl s
      · dsimp only at hr
        split at hr
        next s2 _ hs =>
          cases hr
          obtain ⟨e, -, he⟩ := List.exists_of_findSome?_eq_some hs
          exact State.evictEmber_rewrites he
        · cases hr; exact .refl s
        · cases hr

theorem State.placeRoom_rewrites {s t : State} {g : Group} {sp : Space} {k : AKind} {w : Nat} {va : W64} {x y : ATgt}
    (h : s.placeRoom g sp k w va x = .ok t y) : s.Rewrites t := by
  unfold State.placeRoom at h
  split at h
  · split at h
    · cases h
    next hr =>
      split at h
      · cases h
        exact State.roomFor_rewrites hr
      · cases h
  · cases h
    exact .refl s

theorem State.place1_rewrites {s t : State} {g : Group} {sp : Space} {k : AKind} {w : Nat} {va : W64} {x : ATgt}
    (h : s.place1 g sp k w va = .ok t x) : s.Rewrites t := by
  have placed {s : State} (h : (match s.resolve g sp k w va with
      | .prot => Placed.prot
      | .miss ms => .miss ms
      | .wait | .held => .wait
      | .ok t => s.placeRoom g sp k w va t) = .ok t x) : s.Rewrites t := by
    split at h
    · cases h
    · cases h
    · cases h
    · cases h
    · exact State.placeRoom_rewrites h
  unfold State.place1 at h
  dsimp only at h
  split at h
  · split at h
    · exact placed h
    · split at h
      · cases h
      · cases h
      · cases h
      next hc => exact (State.cow_rewrites hc).trans (placed h)
  · exact placed h

/-! Lanes that all come to an answer. -/

theorem Made.beside_trap_ne_ok {x : Trap} {b : Made} {xs : List (ATgt × Nat × Nat)} {s : State} :
    (Made.trap x).beside b ≠ .ok xs s := by
  cases b with
  | trap y => simp only [Made.beside]; split <;> [nofun; (split <;> nofun)]
  | ok ys s1 => nofun
  | miss ms o => simp only [Made.beside]; split <;> nofun
  | wait => simp only [Made.beside]; split <;> nofun

theorem Made.beside_miss_ne_ok {ms : List (Miss × Bool)} {o : List Nat} {b : Made} {xs : List (ATgt × Nat × Nat)} {s : State} :
    (Made.miss ms o).beside b ≠ .ok xs s := by
  cases b with
  | trap y => simp only [Made.beside]; split <;> nofun
  | ok ys s1 => nofun
  | miss ms o => nofun
  | wait => nofun

theorem Made.beside_wait_ne_ok {b : Made} {xs : List (ATgt × Nat × Nat)} {s : State} : Made.wait.beside b ≠ .ok xs s := by
  cases b with
  | trap y => simp only [Made.beside]; split <;> nofun
  | ok ys s1 => nofun
  | miss ms o => nofun
  | wait => nofun

/-- Where all lanes answer, the first is done at its place, and the others after it. -/
theorem State.eachLane_cons_ok {s s3 : State} {g : Group} {h : Hdr} {sp : Space} {k : AKind} {w : Nat} {act : LaneFn} {L : Nat}
    {va : W64} {rest : List (Nat × W64)} {xs : List (ATgt × Nat × Nat)}
    (he : s.eachLane g h sp k w act ((L, va) :: rest) = .ok xs s3) :
    ∃ s1 t x s2 ys, s.place1 g sp k w va = .ok s1 t ∧ act L t s1 = .ok x s2 ∧
      s2.eachLane g h sp k w act rest = .ok ys s3 ∧ xs = (t, L, x) :: ys := by
  rw [State.eachLane] at he
  dsimp only at he
  split at he
  · exact absurd he Made.beside_trap_ne_ok
  · exact absurd he Made.beside_miss_ne_ok
  · exact absurd he Made.beside_miss_ne_ok
  · exact absurd he Made.beside_wait_ne_ok
  next s1 t hp =>
    split at he
    · exact absurd he Made.beside_trap_ne_ok
    · exact absurd he Made.beside_wait_ne_ok
    next x s2 ha =>
      split at he
      next ys s4 hr =>
        cases he
        exact ⟨s1, t, x, s2, ys, hp, ha, hr, rfl⟩
      next r hr => exact absurd he (hr _ _)

/-! Ordered contributions. -/

/-- What one lane's answer has sent. -/
def sentBy (g : Group) (h : Hdr) (ty : Ty) (b c : Opd) (x : ATgt × Nat × Nat) : Option (Nat × W64 × W32) :=
  match x.1 with
  | .pub ps _ => some (iaOf ps, BitVec.ofNat 64 (rd g h ty b x.2.1), BitVec.ofNat 32 (rdN g h 32 c x.2.1))
  | _ => none

/-- The contributions of lanes that answered stand after those that were there. -/
def Sends (g : Group) (h : Hdr) (fn : FoldFn) (ty : Ty) (b c : Opd) (xs : List (ATgt × Nat × Nat)) (s t : State) : Prop :=
  ∃ sent : List Ordered, t.ordered = s.ordered ++ sent ∧
    (∀ o ∈ sent, o.gid = g.id ∧ o.op = fn ∧ o.ty = ty ∧ o.st = .sent) ∧
    sent.map (fun o => (o.ia, o.val, o.rank)) = xs.filterMap (sentBy g h ty b c)

/-- One lane sends its contribution. -/
theorem atomoFn_sends {s t : State} {g : Group} {h : Hdr} {fn : FoldFn} {ty : Ty} {b c : Opd} {L x : Nat} {p : ATgt}
    (ha : atomoFn g h fn ty b c L p s = .ok x t) : Sends g h fn ty b c [(p, L, x)] s t := by
  unfold atomoFn at ha
  split at ha
  · cases ha
    exact ⟨_, rfl, by simp, rfl⟩
  next hp =>
    cases ha
    refine ⟨[], by simp, by simp, ?_⟩
    cases p with
    | pub ps row => exact absurd rfl (hp ps row)
    | scr | aperture => rfl

theorem Sends.append {g : Group} {h : Hdr} {fn : FoldFn} {ty : Ty} {b c : Opd} {xs ys : List (ATgt × Nat × Nat)}
    {s t u : State} (h1 : Sends g h fn ty b c xs s t) (h2 : Sends g h fn ty b c ys t u) :
    Sends g h fn ty b c (xs ++ ys) s u := by
  obtain ⟨o1, hs1, ho1, hm1⟩ := h1
  obtain ⟨o2, hs2, ho2, hm2⟩ := h2
  refine ⟨o1 ++ o2, by rw [hs2, hs1, List.append_assoc], fun o ho => ?_, by rw [List.map_append, hm1, hm2, List.filterMap_append]⟩
  exact (List.mem_append.mp ho).elim (ho1 o) (ho2 o)

theorem State.eachLane_sends {s s1 : State} {g : Group} {h : Hdr} {fn : FoldFn} {ty : Ty} {b c : Opd} {sp : Space} {k : AKind}
    {w : Nat} {addrs : List (Nat × W64)} {xs : List (ATgt × Nat × Nat)}
    (he : s.eachLane g h sp k w (atomoFn g h fn ty b c) addrs = .ok xs s1) : Sends g h fn ty b c xs s s1 := by
  induction addrs generalizing s xs with
  | nil => cases he; exact ⟨[], by simp, by simp, rfl⟩
  | cons p rest ih =>
    obtain ⟨s2, t, x, s3, ys, hp, ha, hr, rfl⟩ := State.eachLane_cons_ok he
    have h1 : Sends g h fn ty b c [(t, p.1, x)] s s3 := by
      obtain ⟨sent, hs⟩ := atomoFn_sends ha
      exact ⟨sent, (State.place1_rewrites hp).ordered ▸ hs⟩
    exact h1.append (ih hr)

/-! ATOM. -/

section
variable {s : State} {g : Group} {h : Hdr} {fn : AtomFn} {ord : Order} {scope : Scope} {sp : Space} {ty : Ty} {d a b : Opd}

/-- The group as an ATOM leaves it at its issue. -/
def atomGroup (g : Group) (h : Hdr) (d : Opd) : Group := if d.isZ then g.pushZero h else g

/-- An ATOM that acquires does so once it is done. -/
def atomDone (g : Group) (ord : Order) (scope : Scope) (s : State) : Out :=
  .next (if ord = .acq || ord = .ar then s.acquire g.site scope else s)

/-- What the lanes of an ATOM come to. -/
def atomMade (s : State) (g : Group) (h : Hdr) (fn : AtomFn) (scope : Scope) (sp : Space) (ty : Ty) (a b : Opd) : Made :=
  s.made g h sp .atom (ty.bits / 8) (ty.bits / 8) (laneAddrs g h a .zero)
    (atomLaneFn g h (!g.site.isCc && scope.code ≤ 3) fn ty b)

/-- An ATOM some of whose data is uncorrectable leaves the trap outstanding. -/
def atomBadly (s : State) (g : Group) (h : Hdr) (ord : Order) (scope : Scope) (sp : Space) (ty : Ty) (d a : Opd)
    (bads : List Nat) : Out :=
  atomDone g ord scope ((s.askAddrs g h sp .atom (ty.bits / 8) (laneAddrs g h a .zero)).addLoad (atomGroup g h d) h
    (ldst d ty.regs) (.mem [] (tlaneIf h bads)))

/-- How an ATOM that issued at `s` ends without making its accesses, judged on the memory of `s1`. -/
def atomFails (s : State) (g : Group) (h : Hdr) (fn : AtomFn) (ord : Order) (scope : Scope) (sp : Space) (ty : Ty) (d a b : Opd)
    (s1 : State) : Option Out :=
  match s1.atomBads g h sp (ty.bits / 8) (laneAddrs g h a .zero) with
  | [] => (atomMade s1 g h fn scope sp ty a b).trap?.map fun t => s.traps g h t
  | bads => some (atomBadly s g h ord scope sp ty d a bads)

/-- The old values of an ATOM are outstanding, or without a destination it retires. -/
def atomValues (g : Group) (h : Hdr) (ty : Ty) (d : Opd) (vals : List (Nat × Nat)) (s2 : State) : State :=
  if d.isZ then s2.retire (atomGroup g h d) h
  else s2.addLoad (atomGroup g h d) h (ldst d ty.regs) (.mem (vals.map fun x => (x.1, landed h ty (BitVec.ofNat 64 x.2))) none)

/-- How an ATOM that issued at `s` ends, made on the memory of `s1`. -/
def atomFinish (s : State) (g : Group) (h : Hdr) (fn : AtomFn) (ord : Order) (scope : Scope) (sp : Space) (ty : Ty) (d a b : Opd)
    (s1 : State) : Out :=
  (atomFails s g h fn ord scope sp ty d a b s1).getD
    ((atomMade s1 g h fn scope sp ty a b).out s s1 g h fun vals s2 => atomDone g ord scope (atomValues g h ty d vals s2))

theorem exec_atom_issued (hi : s.issues (.atom h fn ord scope sp ty d a b) g = true) :
    exec (.atom h fn ord scope sp ty d a b) s =
      if (laneAddrs g h a .zero).isEmpty then s.goes (atomGroup g h d) h
      else s.withChecked g h sp .atom (ty.bits / 8) (ty.bits / 8) (laneAddrs g h a .zero)
        (lost := fun _ => (atomMade s g h fn scope sp ty a b).out s s g h fun _ s1 => .next s1) fun _ =>
        if ord = .rel || ord = .ar then
          s.withRelease g scope (atomFinish s g h fn ord scope sp ty d a b) (sp = .gl)
            (atomFails s g h fn ord scope sp ty d a b)
        else atomFinish s g h fn ord scope sp ty d a b s := by
  rw [exec_atom, execAtom, State.issue_go (h := h) hi rfl]
  rfl

/-- Its data being right, an ATOM ends as its lanes do. -/
theorem atomFails_good {s1 : State} (hb : s1.atomBads g h sp (ty.bits / 8) (laneAddrs g h a .zero) = []) :
    atomFails s g h fn ord scope sp ty d a b s1 =
      (atomMade s1 g h fn scope sp ty a b).trap?.map fun t => s.traps g h t := by
  simp only [atomFails, hb]

theorem atomFails_bad {s1 : State} (hb : s1.atomBads g h sp (ty.bits / 8) (laneAddrs g h a .zero) ≠ []) :
    atomFails s g h fn ord scope sp ty d a b s1 =
      some (atomBadly s g h ord scope sp ty d a (s1.atomBads g h sp (ty.bits / 8) (laneAddrs g h a .zero))) := by
  cases he : s1.atomBads g h sp (ty.bits / 8) (laneAddrs g h a .zero) with
  | nil => exact absurd he hb
  | cons x xs => simp only [atomFails, he]
end

/-- Settles O20. -/
theorem atomicsComplete : Obligations.AtomicsComplete := by
  refine ⟨?_, ?_, ?_⟩
  · intro s g h fn ord scope sp ty d a b accs hi w addrs g1 done made out ends
    refine ⟨fun ha => ?none, fun t ha hc => ?trap, fun ha hc => ?checked⟩
    case none => exact (exec_atom_issued hi).trans (if_pos (List.isEmpty_iff.mpr ha))
    case trap =>
      exact ((exec_atom_issued hi).trans (if_neg (fun he => ha (List.isEmpty_iff.mp he)))).trans (State.withChecked_trap hc)
    case checked =>
      have he := ((exec_atom_issued hi).trans (if_neg (fun he => ha (List.isEmpty_iff.mp he)))).trans (State.withChecked_accs hc)
      have hends (s1 : State) (hfin : out = atomFinish s g h fn ord scope sp ty d a b s1) : ends s1 := by
        refine ⟨fun hb => ⟨fun xs s2 hm => ?_, fun x hm => ?_⟩, fun hb => ?_⟩
        · have hm' : atomMade s1 g h fn scope sp ty a b = .ok xs s2 := hm
          rw [hfin, atomFinish, atomFails_good hb, hm', Made.out_ok]
          simp only [Made.trap?_ok, Option.map_none, Option.getD_none, atomValues, List.map_map]
          rfl
        · have hm' : atomMade s1 g h fn scope sp ty a b = .trap x := hm
          rw [hfin, atomFinish, atomFails_good hb, hm']
          rfl
        · have hask : s.askAddrs g h sp .atom (ty.bits / 8) (laneAddrs g h a .zero) = s.askLines g (accs.map (·.2.2)) := by
            rw [State.askAddrs, hc]
          rw [hfin, atomFinish, atomFails_bad hb, Option.getD_some, atomBadly, hask]
          rfl
      refine ⟨fun ho => hends s (he.trans (if_neg ?_)), fun s1 ho hr => hends s1 ?_⟩
      · obtain rfl | rfl := ho <;> decide
      · refine (he.trans (if_pos (by obtain rfl | rfl := ho <;> decide))).trans ?_
        cases hf : atomFails s g h fn ord scope sp ty d a b s1 with
        | none => exact State.withRelease_ok hr hf _
        | some o => rw [State.withRelease_early hr hf, atomFinish, hf, Option.getD_some]
  · intro s g h fn ty a b c t hi ha hc
    rw [exec_atomo, execAtomo, State.issue_go (h := h) hi rfl]
    simp only [List.isEmpty_iff, if_neg ha, State.made, hc] <;> rfl
  · intro s g h fn ty a b c s1 xs hi ha hm
    refine ⟨?_, ?_⟩
    · rw [exec_atomo, execAtomo, State.issue_go (h := h) hi rfl]
      simp only [List.isEmpty_iff, if_neg ha, hm] <;> rfl
    · exact State.eachLane_sends (State.made_lanes hm).2.2

end Sys2Proof.Machine
end

section
/-! O21: fences, prefetches, cache, tier and ember instructions. -/

namespace Sys2Proof.Machine

/-- Discarding a whole E page drops its lines and gives its late frame back. -/
theorem State.discard_page {s : State} {c : Ctx} {p : Piece} {l : Leaf} (hw : s.walk c p.ia = .ok l) (hia : p.ia % 65536 = 0)
    (hn : p.n = 65536) :
    let s1 := { s with ember := s.ember.filter fun e => !(e.ctx = c.no && p.ia ≤ e.line && e.line < p.ia + 65536) }
    s.discard c p = if l.late then
      (s1.writeLeaf { l with late := false, frame := 0 }).reportCtx c.no (frameReport c.no 2 l.frame) else s1 := by
  intro s1
  have hlo : (p.ia + 63) / 64 * 64 = p.ia := by omega
  have hhi : (p.ia + p.n) / 64 * 64 = p.ia + 65536 := by omega
  rw [State.discard, hw]
  dsimp only
  rw [hlo, hhi, if_neg (by omega), if_pos (by omega)]

/-- Settles O21. -/
theorem memoryManagementInstructions : Obligations.MemoryManagementInstructions := by
  constructor
  · intro s g h scope llc a b
    refine ⟨fun hi hr ho => ?acq, fun hi hw => ?waits, fun s1 hi hr => ?rel, fun s1 hi hr => ?ar, fun hi => ?pref,
      fun c hi hc hw => ?inv, fun hi => ?invall⟩
    case acq =>
      rw [exec_fence, execFence, State.issue_go (h := h) hi rfl]
      simp only [hr]
      rw [if_neg (by decide), if_neg]
      · rfl
      · obtain ho | ho := ho <;> simp [ho]
    case waits =>
      rw [exec_fence, execFence, State.issue_go (h := h) hi rfl]
      refine (if_neg (by decide)).trans (if_pos ?_)
      obtain hw | hw := hw <;> simp [hw]
    case rel =>
      rw [exec_fence, execFence, State.issue_go (h := h) hi rfl]
      exact (if_pos (by decide)).trans (State.withRelease_ok hr rfl _)
    case ar =>
      rw [exec_fence, execFence, State.issue_go (h := h) hi rfl]
      exact (if_pos (by decide)).trans (State.withRelease_ok hr rfl _)
    case pref => rw [exec_pref, execPref, State.issue_go (h := h) hi rfl]
    case inv =>
      rw [exec_cmaintInv, execCmaintInv, State.issue_go (h := h) hi rfl]
      simp only [hc]
      exact if_neg (by simp [hw])
    case invall => rw [exec_cmaintInvall, execCmaintInvall, State.issue_go (h := h) hi rfl]
  · intro s g h lp d a b m c hc
    refine ⟨fun hi ha hn hm => ?tier, fun cl hi hcl hle => ?granted, fun cl hi hcl hlt => ?refused, fun hi => ?erel,
      fun ps hi ha hb hh hps hw hd => ?edisc, fun p l => State.discard_page, fun cl ps hi ha hcl hn hh hps hw => ?emig⟩
    case tier =>
      refine ⟨_, _, rfl, ?_⟩
      rw [exec_tier, execTier, State.issue_go (h := h) hi rfl]
      simp only [hc]
      have hspan : ¬ (decide ((rd64 g h b).toNat ≠ 0) && !s.spanOk c (rd64 g h a).toNat (65536 * (rd64 g h b).toNat)) = true := by
        obtain hn | hn := hn <;> simp [hn]
      rw [if_neg (by simp [ha]), if_neg hspan, if_neg (by simp [hm])]
      rfl
    case granted =>
      rw [exec_ersv, execErsv, State.issue_go (h := h) hi rfl]
      simp only [hc, hcl]
      exact if_pos hle
    case refused =>
      rw [exec_ersv, execErsv, State.issue_go (h := h) hi rfl]
      simp only [hc, hcl]
      exact if_neg (by omega)
    case erel => rw [exec_erel, execErel, State.issue_go (h := h) hi rfl]
    case edisc =>
      rw [exec_edisc, execEdisc, State.issue_go (h := h) hi rfl]
      simp only [hc]
      rw [if_neg (by simp [ha, hb]), if_neg (by simp [hh]), hps]
      exact if_neg (by rw [hw, hd]; decide)
    case emig =>
      rw [exec_emig, execEmig, State.issue_go (h := h) hi rfl]
      simp only [hc, hcl]
      have hspan : ¬ (decide ((rd64 g h b).toNat ≠ 0) && !s.spanOk c (rd64 g h a).toNat (65536 * (rd64 g h b).toNat)) = true := by
        obtain hn | hn := hn <;> simp [hn]
      rw [if_neg (by simp [ha]), if_neg hspan, if_neg (by simp [hh]), hps]
      exact if_neg (by simp only [hw]; decide)

end Sys2Proof.Machine
end

section
/-! O22: RMSET and RMREF. -/

namespace Sys2Proof.Machine

section
variable {s s1 : State} {g : Group} {h : Hdr} {i : Instr} {d w x : Opd} {c : Ctx} {m : Remap} {old : List Byte}

/-- The parts of a window that can be worked on. -/
theorem State.windowAt_cases (hw : s.windowAt g h w = some (s1, c, m)) :
    ∃ r, s.ctx? g.id.ctx = some c ∧ s.rangeOf c (rd64 g h w).toNat = some r ∧ r.kind = 1 ∧
      s.released g .dev = some s1 ∧ s1.remap c g.site.cluster r = .ok m := by
  unfold State.windowAt at hw
  split at hw
  · cases hw
  next c' hc =>
    split at hw
    · cases hw
    next r hr =>
      split at hw
      · cases hw
      next hk =>
        split at hw
        · cases hw
        next s2 hrel =>
          split at hw
          next m' hm =>
            cases hw
            exact ⟨r, hc, hr, not_not.mp hk, hrel, hm⟩
          · cases hw

/-- Operands that the window refuses trap, and nothing is published. -/
theorem State.withWindow_refused (hw : s.windowAt g h w = some (s1, c, m)) {out : Group → Hdr → Remap → Bool}
    (ho : out g h m = true) (f : State → Ctx → Remap → Out) :
    s.withWindow g h w out f = s.traps g h { cause := .prot, info := rd64 g h w } := by
  obtain ⟨r, hc, hr, hk, hrel, hm⟩ := State.windowAt_cases hw
  unfold State.withWindow
  rw [hc]
  dsimp only
  rw [hr]
  dsimp only
  rw [if_neg (not_not.mpr hk)]
  exact State.withRelease_early hrel (by simp only [hm, ho, if_true]; rfl) _

theorem State.rowEntry_refused {new : Option Opd} (hi : s.issues i g = true) (hs : i.shape.map (·.h) = some h)
    (hw : s.windowAt g h w = some (s1, c, m)) (ho : m.rows ≤ (rd64 g h x).toNat ∨ 2 ^ 50 ≤ (newEntry g h new).toNat) :
    s.rowEntry i d w x new = s.traps g h { cause := .prot, info := rd64 g h w } := by
  rw [State.rowEntry, State.issue_go hi hs]
  refine State.withWindow_refused hw ?_ _
  have hdiv : (newEntry g h new).toNat / 2 ^ 50 ≠ 0 ↔ 2 ^ 50 ≤ (newEntry g h new).toNat := by
    rw [ne_eq, Nat.div_eq_zero_iff]; omega
  simp only [hdiv, Bool.or_eq_true, decide_eq_true_eq]
  exact ho

/-- The old entry of a row that the window has is given, and the new one, where there is one, is written. -/
theorem State.rowEntry_ok {new : Option Opd} (hi : s.issues i g = true) (hs : i.shape.map (·.h) = some h)
    (hw : s.windowAt g h w = some (s1, c, m)) (hn : (rd64 g h x).toNat < m.rows) (he : (newEntry g h new).toNat < 2 ^ 50)
    (hr : s1.iaRead c g.site.cluster (m.table + 8 * (rd64 g h x).toNat) 8 = .ok old) :
    s.rowEntry i d w x new =
      let s2 := s1.retire (putDest g d (wordOf old)) h
      .next (State.acquire (new.elim s2 fun _ => s2.iaWrite c (m.table + 8 * (rd64 g h x).toNat)
        (leBytes 8 (newEntry g h new).toNat)) g.site .dev) := by
  rw [State.rowEntry, State.issue_go hi hs, State.withWindow_at hw]
  · dsimp only
    rw [hr]
    cases new <;> rfl
  · simp only [Nat.div_eq_of_lt he, Bool.or_eq_false_iff, decide_eq_false_iff_not]
    exact ⟨by omega, by decide⟩

theorem State.refCount_refused {f : Group → Hdr → RefFn} (hi : s.issues i g = true) (hs : i.shape.map (·.h) = some h)
    (hw : s.windowAt g h w = some (s1, c, m)) (ho : m.blocks ≤ (rd64 g h x).toNat) :
    s.refCount i d w x f = s.traps g h { cause := .prot, info := rd64 g h w } := by
  rw [State.refCount, State.issue_go hi hs]
  exact State.withWindow_refused hw (decide_eq_true ho) _

/-- What an RMREF that has set its count ends with. -/
def refEnds (g : Group) (h : Hdr) (d : Opd) (old : List Byte) (s2 : State) : Out :=
  .next ((s2.retire (putDest g d (BitVec.ofNat 64 (leNat old))) h).acquire g.site .dev)

/-- The old count of a block that the window has is given, and the new one is written. -/
theorem State.refCount_ok {f : Group → Hdr → RefFn} (hi : s.issues i g = true) (hs : i.shape.map (·.h) = some h)
    (hw : s.windowAt g h w = some (s1, c, m)) (hn : (rd64 g h x).toNat < m.blocks)
    (hr : s1.iaRead c g.site.cluster (m.refs + 4 * (rd64 g h x).toNat) 4 = .ok old) :
    s.refCount i d w x f =
      let s2 := s1.iaWrite c (m.refs + 4 * (rd64 g h x).toNat) (leBytes 4 ((f g h).new (leNat old)))
      if f g h = .dec && leNat old = 1 then
        match s2.pushBlock c g.site.cluster g.id.task m (rd64 g h x).toNat with
        | .miss ms => .next (s1.missing g ms)
        | .wait => .next s1
        | .done s3 => refEnds g h d old s3
      else refEnds g h d old s2 := by
  rw [State.refCount, State.issue_go hi hs, State.withWindow_at hw (decide_eq_false (Nat.not_le.mpr hn))]
  simp only [hr, refEnds] <;> rfl

/-- A count that does not fall from 1 is only written. -/
theorem State.refCount_set {f : Group → Hdr → RefFn} (hi : s.issues i g = true) (hs : i.shape.map (·.h) = some h)
    (hw : s.windowAt g h w = some (s1, c, m)) (hn : (rd64 g h x).toNat < m.blocks)
    (hr : s1.iaRead c g.site.cluster (m.refs + 4 * (rd64 g h x).toNat) 4 = .ok old) (hf : f g h = .dec → leNat old ≠ 1) :
    s.refCount i d w x f =
      refEnds g h d old (s1.iaWrite c (m.refs + 4 * (rd64 g h x).toNat) (leBytes 4 ((f g h).new (leNat old)))) :=
  (State.refCount_ok hi hs hw hn hr).trans (if_neg (by simpa using hf))

/-- A count that falls to 0 puts its block on the free list. -/
theorem State.refCount_last {f : Group → Hdr → RefFn} {s3 : State} (hi : s.issues i g = true)
    (hs : i.shape.map (·.h) = some h) (hw : s.windowAt g h w = some (s1, c, m)) (hn : (rd64 g h x).toNat < m.blocks)
    (hr : s1.iaRead c g.site.cluster (m.refs + 4 * (rd64 g h x).toNat) 4 = .ok old) (hf : f g h = .dec) (ho : leNat old = 1)
    (hp : (s1.iaWrite c (m.refs + 4 * (rd64 g h x).toNat) (leBytes 4 0)).pushBlock c g.site.cluster g.id.task m
      (rd64 g h x).toNat = .done s3) : s.refCount i d w x f = refEnds g h d old s3 := by
  refine (State.refCount_ok hi hs hw hn hr).trans ?_
  dsimp only
  rw [if_pos (by simp [hf, ho]), hf, ho, show RefFn.dec.new 1 = 0 from rfl, hp]
end

/-- Settles O22. -/
theorem remapInstructions : Obligations.RemapInstructions := by
  intro s g h o w x v s1 c d old hw n ends count prot
  refine ⟨fun hi ho => ?_, fun hi ho => ?_, fun hi ho => ?_, fun hi ho => ?_, fun hi ho => ?_, fun hi ho => ?_,
    fun hn hr => ⟨fun hi he => ?_, fun hi => ?_⟩, fun hn hr => ⟨fun hi => ?_, fun hi ho => ?_, fun s2 hi ho hp => ?_,
      fun hi => ?_, fun hi => ?_⟩⟩
  · rw [exec_rmset, execRmset]
    exact State.rowEntry_refused (h := h) hi rfl hw ho
  · rw [exec_rmsetGet, execRmsetGet]
    exact State.rowEntry_refused (h := h) hi rfl hw (.inl ho)
  · rw [exec_rmrefInc, execRmrefInc]
    exact State.refCount_refused (h := h) hi rfl hw ho
  · rw [exec_rmrefDec, execRmrefDec]
    exact State.refCount_refused (h := h) hi rfl hw ho
  · rw [exec_rmrefGet, execRmrefGet]
    exact State.refCount_refused (h := h) hi rfl hw ho
  · rw [exec_rmrefSet, execRmrefSet]
    exact State.refCount_refused (h := h) hi rfl hw ho
  · rw [exec_rmset, execRmset]
    exact State.rowEntry_ok (h := h) hi rfl hw hn he hr
  · rw [exec_rmsetGet, execRmsetGet]
    exact State.rowEntry_ok (h := h) (new := none) hi rfl hw hn (show (0 : W64).toNat < 2 ^ 50 by decide) hr
  · rw [exec_rmrefInc, execRmrefInc]
    exact State.refCount_set (h := h) hi rfl hw hn hr nofun
  · rw [exec_rmrefDec, execRmrefDec]
    exact State.refCount_set (h := h) hi rfl hw hn hr fun _ => ho
  · rw [exec_rmrefDec, execRmrefDec]
    exact State.refCount_last (h := h) hi rfl hw hn hr rfl ho hp
  · rw [exec_rmrefGet, execRmrefGet]
    exact State.refCount_set (h := h) hi rfl hw hn hr nofun
  · rw [exec_rmrefSet, execRmrefSet]
    exact State.refCount_set (h := h) hi rfl hw hn hr nofun

end Sys2Proof.Machine
end

section
/-! O23: milestone instructions. -/

namespace Sys2Proof.Machine

theorem State.msThere_cases {s : State} {l : Loc} {m : Ms} (hm : s.msThere l = some m) :
    s.locBad l 64 = false ∧ s.ms? l = some m := by
  unfold State.msThere at hm
  split at hm
  · cases hm
  next hb => exact ⟨by simpa using hb, hm⟩

/-- A milestone that is there after a release does not end the instruction early. -/
theorem State.uncorrAt_there {s s1 : State} {l : Loc} {m : Ms} (hm : s1.msThere l = some m) (g : Group) (h : Hdr) :
    s.uncorrAt g h l s1 = none := by
  rw [State.uncorrAt, (State.msThere_cases hm).1]
  rfl

theorem bitsN_eq_zero {x hi lo : Nat} (h : x < 2 ^ lo) : bitsN x hi lo = 0 := by
  rw [bitsN, Nat.div_eq_of_lt h, Nat.zero_mod]

section
variable {s : State} {g : Group} {h : Hdr} {d a b c : Opd} {l : Loc} {m : Ms}

/-- The condition under which MSINIT traps. -/
theorem msinit_align {kind : MsKind} {chunk : Bool} {x : Nat} :
    ((chunk && decide (x % 512 ≠ 0)) || (decide (kind = .join) && decide (x % 64 ≠ 0))) = true ↔
      (chunk = true ∧ x % 512 ≠ 0) ∨ (kind = .join ∧ x % 64 ≠ 0) := by
  simp only [Bool.or_eq_true, Bool.and_eq_true, decide_eq_true_eq]

/-- An arrival at a milestone that is there. -/
theorem exec_msarrArr_there {rel : Bool} {scope : Scope} {s2 : State} {m2 : Ms}
    (hi : s.issues (.msarrArr h rel d a b scope) g = true) (hl : s.msAt g (rd64 g h a) = some l)
    (hm : rel = true → s.msThere l = some m) (hr : if rel then s.released g scope = some s2 else s2 = s)
    (hm2 : s2.msThere l = some m2) (hok : m2.ok = true) :
    exec (.msarrArr h rel d a b scope) s =
      let s3 := s2.askMs g l
      .next ((s3.retire (putDest g d m2.arrived) h).change g.id.ctx g.id.task l m2
        (m2.arrive (s3.claimed l) (rd64 g h b).toNat).1 (m2.arrive (s3.claimed l) (rd64 g h b).toNat).2) := by
  rw [exec_msarrArr, execMsarrArr, State.issue_go (h := h) hi rfl, State.withMs_at hl]
  dsimp only
  cases rel with
  | false =>
    simp only [Bool.false_eq_true, if_false] at hr ⊢
    subst hr
    rw [State.withRead_there hm2]
    exact if_neg (by simp [hok])
  | true =>
    simp only [if_true] at hr ⊢
    rw [State.withRead_there (hm rfl), State.withRelease_ok hr (State.uncorrAt_there hm2 g h), State.withRead_there hm2]
    exact if_neg (by simp [hok])
end

/-- Settles O23. -/
theorem milestoneInstructions : Obligations.MilestoneInstructions := by
  intro s g h kind rearm chunk acq field r d a b c scope l hl s1
  refine ⟨fun hi h1 h2 => ?init, fun hi hbad => ?align, fun m hm hok => ⟨fun hi => ?arr, fun hi => ?exp, fun hi => ?bind,
    fun hi => ?unbind⟩, fun m hm hi => ?qry, fun m m2 s2 hm hr hm2 hok hi => ?rel⟩
  case init =>
    rw [exec_msinit, execMsinit, State.issue_go (h := h) hi rfl, State.withMs_at hl]
    exact if_neg (fun hx => (msinit_align.mp hx).elim h1 h2)
  case align =>
    rw [exec_msinit, execMsinit, State.issue_go (h := h) hi rfl, State.withMs_at hl]
    exact if_pos (msinit_align.mpr hbad)
  case arr => exact exec_msarrArr_there (m := m) hi hl nofun rfl hm hok
  case exp =>
    rw [exec_msarrExp, execMsarrExp, State.issue_go (h := h) hi rfl, State.withMs_at hl, State.withRead_there hm]
    exact if_neg (by simp [hok])
  case bind =>
    intro tag s2 s3
    rw [exec_msbind, execMsbind, State.issue_go (h := h) hi rfl, State.withMs_at hl, State.withRead_there hm]
    dsimp only
    rw [if_neg (by simp [hok])]
    refine ⟨fun hn => congrArg Host.Outcome.next (if_neg ?_), fun hk hp => congrArg Host.Outcome.next (if_pos ?_)⟩
    · simpa using hn
    · simp [hk, hp]
  case unbind =>
    rw [exec_msbindUnbind, execMsbindUnbind, State.issue_go (h := h) hi rfl, State.withMs_at hl, State.withRead_there hm]
    exact if_neg (by simp [hok])
  case qry =>
    rw [exec_msqry, execMsqry, State.issue_go (h := h) hi rfl, State.withMs_at hl, State.withRead_there hm]
    rfl
  case rel => exact exec_msarrArr_there hi hl (fun _ => hm) hr hm2 hok

end Sys2Proof.Machine
end

section
/-! O24: arrivals, and the phases that they flip. -/

namespace Sys2Proof.Machine

section
variable {m : Ms} {claimed : Bool} {n : Nat}

theorem Ms.closed_other (hk : m.kind ≠ 2) : m.closed claimed = false := by simp [Ms.closed, hk]

theorem Ms.closed_future (hk : m.kind = 2) (hp : m.phase = 1 ∨ claimed = true) : m.closed claimed = true := by
  simpa [Ms.closed, hk] using hp

/-! The completion test, case by case. -/

theorem Ms.test_closed (hc : m.closed claimed = true) : m.test claimed = (m, false) := if_pos (by simp [hc])

theorem Ms.test_met (hc : m.closed claimed = false) (he : m.expect ≠ 0) (ha : m.arrived = m.expect) :
    m.test claimed = (m.flip m.arrived, true) := by
  rw [Ms.test, if_neg (by simpa [hc] using he), if_pos ha]

theorem Ms.test_over (hc : m.closed claimed = false) (he : m.expect ≠ 0) (ha : m.expect < m.arrived) (hr : m.err = 0) :
    m.test claimed = ({ m with err := 5 }, false) := by
  rw [Ms.test, if_neg (by simpa [hc] using he), if_neg (by bv_omega), if_pos ha, Ms.setErr, if_pos hr]

theorem Ms.test_short (ha : m.expect = 0 ∨ m.arrived < m.expect) : m.test claimed = (m, false) := by
  unfold Ms.test
  split
  · rfl
  next hn =>
    have he : m.expect ≠ 0 := fun he => hn (by simp [he])
    have ha := ha.resolve_left he
    rw [if_neg (by bv_omega), if_neg (by bv_omega)]

/-- What flips a milestone of another kind than FUTURE. -/
theorem Ms.flip_other (hk : m.kind ≠ 2) (v : W64) :
    m.flip v = if m.rearm then { m with phase := (m.phase + 1) % 65536, arrived := 0, chunks := 0 }
      else { m with phase := (m.phase + 1) % 65536 } := if_neg hk

theorem Ms.flip_other_phase (hk : m.kind ≠ 2) (v : W64) : (m.flip v).phase = (m.phase + 1) % 65536 := by
  rw [Ms.flip_other hk]
  split <;> rfl

/-- An arrival at a milestone that takes part in the test. -/
theorem Ms.arrive_open (hc : m.closed claimed = false) :
    m.arrive claimed n = Ms.test { m with arrived := m.arrived + BitVec.ofNat 64 n } claimed := if_neg (by simp [hc])

theorem Ms.apply_done : m.apply claimed (.done n) = m.arrive claimed (if m.kind = 1 || m.kind = 2 then n else 1) := rfl
end

theorem reached_within {p d : Nat} (hp : p < 65536) (hd : d < 65536) :
    reached ((p + d) % 65536) p = decide (d < 32768) := by
  unfold reached
  congr 2
  omega

/-- Settles O24. -/
theorem arrivalsFlipPhases : Obligations.ArrivalsFlipPhases := by
  constructor
  · intro m claimed n
    refine ⟨fun hk hp => ?future, fun hk => ?raise, fun hk => ?bytes, fun hk => ?one, fun hk hp hc he ha => ?resolve⟩
    case future =>
      exact ⟨if_pos (Ms.closed_future hk hp), Ms.test_closed (m := { m with expect := _ }) (Ms.closed_future hk hp)⟩
    case raise =>
      intro e
      have hc : Ms.closed { m with expect := e } claimed = false := Ms.closed_other hk
      refine ⟨fun he ha => ?_, fun he hlt hr => Ms.test_over hc he hlt hr, fun hs => Ms.test_short hs⟩
      have ht : m.raise claimed n = (Ms.flip { m with expect := e } m.arrived, true) := Ms.test_met hc he ha
      rw [ht]
      exact ⟨rfl, Ms.flip_other_phase (m := { m with expect := e }) hk _⟩
    case bytes => rw [Ms.apply_done, if_pos (by simpa using hk)]
    case one => rw [Ms.apply_done, if_neg (by obtain hk | hk := hk <;> simp [hk])]
    case resolve =>
      have hopen : m.closed claimed = false := by simp [Ms.closed, hp, hc]
      rw [Ms.arrive_open hopen, Ms.test_met (m := { m with arrived := m.arrived + BitVec.ofNat 64 n }) hopen he ha, Ms.flip, if_pos hk, ha]
  · intro m n hk a
    have hc : m.closed false = false := Ms.closed_other hk
    rw [show m.arrive false n = Ms.test { m with arrived := a } false from Ms.arrive_open hc]
    refine ⟨fun he ha hr => ?_, fun he ha hr => ?_, fun he hlt hr => Ms.test_over hc he hlt hr, fun hs => Ms.test_short hs,
      fun p d hp hd => ?_, fun p d hp hd hlt => ?_⟩
    · rw [Ms.test_met (m := { m with arrived := a }) hc he ha]
      exact congrArg (·, true) ((Ms.flip_other (m := { m with arrived := a }) hk _).trans (if_pos hr))
    · rw [Ms.test_met (m := { m with arrived := a }) hc he ha]
      exact congrArg (·, true) ((Ms.flip_other (m := { m with arrived := a }) hk _).trans (if_neg (Bool.not_eq_true _ ▸ hr)))
    · rw [reached_within hp (by omega)]
      exact decide_eq_true hd
    · rw [reached_within hp hlt]
      exact decide_eq_false (by omega)

end Sys2Proof.Machine
end

section
/-! O25: templates, triggers and futures. -/

namespace Sys2Proof.Machine

section
variable {s : State} {g : Group} {h : Hdr} {d a b c : Opd} {l l2 : Loc} {m : Ms}

/-- TRIG of a local template that is defined, at a milestone without an error, once nothing holds it back. -/
theorem exec_trig_ready {x : Ctx} {t : List Byte} (hi : s.issues (.trig h a b c) g = true)
    (hl : s.msAt g (rd64 g h a) = some l) (hm : s.msThere l = some m) (he : m.err = 0) (hx : s.ctx? g.id.ctx = some x)
    (hc : (rd64 g h c).toNat < 2 ^ 54) (hidx : apIndex (rd64 g h c) < 4096)
    (ht : x.template? (apIndex (rd64 g h c)) = some t) (hloc : tmplRemote t = false)
    (hw : (s.askMs g l).startWaits g.id = false) (hf : (s.askMs g l).fenced (unitCode g.site.cluster 13 0) = false) :
    exec (.trig h a b c) s =
      let s1 := s.askMs g l
      if s1.triggersFull g.id.ctx g.site.cluster then .next (s1.park g h .triggers)
      else if !m.ok then .next ((s1.retire g h).dropUpdate g l)
      else
        let e : Trigger :=
          { id := s1.tick, ctx := g.id.ctx, cluster := g.site.cluster, loc := s1.winOf l, ref := rd64 g h a
            phase := rdN g h 16 b 0, idx := apIndex (rd64 g h c), param := apParam (rd64 g h c)
            channel := bitsN (rd64 g h c).toNat 53 48, task := g.id.task, vectorOnly := s1.vectorOnly g.id }
        if reached m.phase (rdN g h 16 b 0) then
          .next (((s1.retire g h).fireTrigger e).1.run ((s1.retire g h).fireTrigger e).2)
        else .next { s1.retire g h with triggers := (s1.retire g h).triggers ++ [e] } := by
  rw [exec_trig, execTrig, State.issue_go (h := h) hi rfl, State.withMs_at hl]
  refine (if_neg ?_).trans ?_
  · simp [hx, ht, bitsN_eq_zero hc, hloc, hidx]
  · rw [State.withRead_there hm, if_neg (by simp [he]), if_neg (by simp [hw, hf])]

/-- FRES of a future that is unresolved and unclaimed, once it has published. -/
theorem exec_fres_ready {s3 : State} {m3 : Ms} (hi : s.issues (.fres h a b) g = true) (hl : s.msAt g (rd64 g h a) = some l)
    (hm : s.msThere l = some m) (hk : m.kind = 2) (hp : m.phase = 0) (hcl : (s.askMs g l).claimed l = false)
    (hno : s.ownClaim g l = none)
    (hr : State.released { s.askMs g l with claims := (s.askMs g l).claims ++ [{ loc := l, gid := g.id, live := true }] } g .job =
      some s3) (hm3 : s3.msThere l = some m3) (hk3 : m3.kind = 2) (hok : m3.ok = true)
    (hown : (s3.askMs g l).ownClaim g l = some { loc := l, gid := g.id, live := true }) :
    exec (.fres h a b) s =
      .next ((((s3.askMs g l).unclaim g l).retire g h).change g.id.ctx g.id.task l m3 (m3.flip (rd64 g h b)) true) := by
  rw [exec_fres, execFres, State.issue_go (h := h) hi rfl, State.withMs_at hl]
  dsimp only
  rw [hno]
  dsimp only
  rw [State.withRead_there hm, if_neg (by simp [hk]), if_neg (by simp [hp, hcl]), State.resolve2,
    State.withRelease_ok hr (State.uncorrAt_there hm3 g h), State.withRead_there hm3, hown]
  dsimp only
  rw [if_pos (by simp [hk3]), if_pos hok]

/-- FREG of a future whose join can be reached. -/
theorem exec_freg_ready (hi : s.issues (.freg h d a b) g = true) (hl : s.msAt g (rd64 g h a) = some l)
    (hj : s.mref g.id.ctx (s.joinCluster g.id.ctx l) (rd64 g h b) = .ok l2) (hh : (s.locSpan l2).held = false)
    (hm : s.msThere l = some m) (hk : m.kind = 2) (hok : m.ok = true) (hw : m.phase = 1 → s.msWaits g l2 = false) :
    exec (.freg h d a b) s =
      let s1 := s.askMs g l
      if decide (m.phase = 1) && s1.locBad l2 64 then s1.traps g h { cause := .uncorr }
      else if m.phase = 0 && m.cont = 0 then .next ((s1.retire (putPred g d true) h).putMs l { m with cont := rd64 g h b })
      else if m.phase = 1 then
        .next ((s1.retire (putPred g d true) h).updRef g.id.ctx g.id.task (s1.joinCluster g.id.ctx l) (rd64 g h b)
          (.arrive 1 (if m.err ≠ 0 then 6 else 0)))
      else s1.goes (putPred g d false) h := by
  rw [exec_freg, execFreg, State.issue_go (h := h) hi rfl, State.withMs_at hl]
  dsimp only
  rw [hj]
  dsimp only
  rw [if_neg, State.withRead_there hm]
  · simp [hk, hok, State.traps, State.goes]
  · rw [hh, (State.msThere_cases hm).2]
    simpa [hk, hok] using hw
end

/-- Settles O25. -/
theorem templatesAndFutures : Obligations.TemplatesAndFutures := by
  intro s g h d a b c
  refine ⟨fun i t hi hb hlt hal hr hok => ?tdef, fun hi hlt => ?clr, ?trig, ?fres, ?freg⟩
  case tdef =>
    rw [exec_tdef, execTdef, State.issue_go (h := h) hi rfl, hb]
    dsimp only
    rw [if_neg (by omega), if_neg (by simp [hal]), hr]
    dsimp only
    rw [if_neg (by simp [hok])]
  case clr =>
    rw [exec_tdefClr, execTdefClr, State.issue_go (h := h) hi rfl]
    exact if_neg (by omega)
  case trig =>
    intro l m x t hl hm he hok hx hc hidx ht hloc hi s1 hw hf e
    have hex := exec_trig_ready hi hl hm he hx hc hidx ht hloc hw hf
    refine ⟨fun hfull => hex.trans (if_pos hfull), fun hp hfull => ?_, fun hp hfull => ?_⟩
    · refine hex.trans ((if_neg (by simp [s1, hfull])).trans ((if_neg (by simp [hok])).trans (if_neg (by simp [hp]))))
    · refine hex.trans ((if_neg (by simp [s1, hfull])).trans ((if_neg (by simp [hok])).trans (if_pos hp)))
  case fres =>
    intro s3 l m m3 hl hm hk hp s1 hcl hno s2 hr hm3 hk3 hok s4 hown hi
    exact exec_fres_ready hi hl hm hk hp hcl hno hr hm3 hk3 hok hown
  case freg =>
    intro l l2 m hl hj hh hm hk hok hi s1
    refine ⟨fun hp hc => ?_, fun hp hw hb => ?_, fun hp hw hb => ?_, fun hp hc => ?_⟩
    · rw [exec_freg_ready hi hl hj hh hm hk hok (by simp [hp])]
      simp [hp, hc, s1]
    · rw [exec_freg_ready hi hl hj hh hm hk hok (fun _ => hw)]
      exact if_pos (by rw [hp]; exact hb)
    · rw [exec_freg_ready hi hl hj hh hm hk hok (fun _ => hw)]
      exact (if_neg (by rw [show State.locBad _ l2 64 = false from hb]; simp)).trans ((if_neg (by simp [hp])).trans (if_pos hp))
    · rw [exec_freg_ready hi hl hj hh hm hk hok (by simp [hp])]
      exact (if_neg (by simp [hp])).trans ((if_neg (by simpa using fun _ => hc)).trans (if_neg (by simp [hp])))

end Sys2Proof.Machine
end

section
/-! O26: LAUNCH, RGROW, RSHRK and PROBE. -/

namespace Sys2Proof.Machine

section
variable {s : State} {g : Group} {h : Hdr} {d a : Opd} {l : Launch}

/-- LAUNCH by group 0 of a good record, once it has published. -/
theorem exec_launch_ready {c : Ctx} {b : List Byte} {s1 : State} (hi : s.issues (.launch h d a) g = true)
    (hl : s.launchOf g.id = some l) (hc : s.ctx? g.id.ctx = some c) (hg : g.id.grp = 0) (hal : (rd64 g h a).toNat % 64 = 0)
    (hb : s.readSpan g.id (rd64 g h a) 8 16 = .ok b) (hf : recordFault b = none) (hd : l.depth < 10)
    (hm : l.lrec.dmode = true → (LRec.ofBytes b).dmode = true) (hr : s.released g .dev = some s1) :
    exec (.launch h d a) s =
      let s2 := s1.noteSpan g.id (rd64 g h a) 8 16
      if s2.tableFull c.no then .next (s2.park g h (.launches d (LRec.ofBytes b)))
      else .next ((s2.retire (putDest g d (c.serial.setWidth 64)) h).acceptLaunch c (LRec.ofBytes b) (l.depth + 1)
        (some l.serial)).1 := by
  have hmode : ¬ (l.lrec.dmode && !(LRec.ofBytes b).dmode) = true := by
    cases hx : l.lrec.dmode with
    | false => simp
    | true => simp [hm hx]
  rw [exec_launch, execLaunch, State.issue_go (h := h) hi rfl]
  dsimp only
  rw [hl, hc]
  dsimp only
  rw [if_neg (by simp [hg]), if_neg (by simp [hal]), hb]
  dsimp only
  rw [if_neg (by simp [hf]), if_neg (by omega), if_neg hmode, State.withRelease_ok hr rfl]

theorem exec_rgrow_launch (hi : s.issues (.rgrow h a) g = true) (hl : s.launchOf g.id = some l) :
    exec (.rgrow h a) s =
      if (rd64 g h a).toNat % 16 ≠ 0 || (rd64 g h a).toNat < 16 || l.lrec.regmax < (rd64 g h a).toNat then
        s.traps g h { cause := .window }
      else if (rd64 g h a).toNat ≤ g.v.length then s.goes g h
      else if l.lrec.logical then
        (if 24576 < s.teamRegs g.id + ((rd64 g h a).toNat - g.v.length) then s.traps g h { cause := .window }
         else s.goes (g.grow (rd64 g h a).toNat) h)
      else if !(s.growq.any fun r => (match s.group? r.gid with | some x => x.site = g.site | none => false))
          && (rd64 g h a).toNat - g.v.length ≤ s.regsFree g.site then s.goes (g.grow (rd64 g h a).toNat) h
      else .next (State.park { s with growq := s.growq ++ [{ gid := g.id, n := (rd64 g h a).toNat }] }
        { g with want := (rd64 g h a).toNat } h (.rgrow (rd64 g h a).toNat)) := by
  rw [exec_rgrow, execRgrow, State.issue_go (h := h) hi rfl]
  dsimp only
  rw [hl]
  rfl
end

/-- Settles O26. -/
theorem launchAndWindowInstructions : Obligations.LaunchAndWindowInstructions := by
  constructor
  · intro s g h d a
    refine ⟨?launch, ?grow, ?shrink, ?probe⟩
    case launch =>
      intro l c b s1 hi hl hc hg hal hb hf hd hm hr s2
      have hex := exec_launch_ready hi hl hc hg hal hb hf hd hm hr
      exact ⟨fun hfull => hex.trans (if_neg (by simpa using hfull)), fun hfull => hex.trans (if_pos hfull)⟩
    case grow =>
      intro l hi hl h16 hle hmax
      have hsize : ¬ (decide ((rd64 g h a).toNat % 16 ≠ 0) || decide ((rd64 g h a).toNat < 16)
          || decide (l.lrec.regmax < (rd64 g h a).toNat)) = true := by
        simp only [Bool.or_eq_true, decide_eq_true_eq]; omega
      refine ⟨fun hn => ?_, fun hn hlog hq hfree => ?_⟩
      · exact (exec_rgrow_launch hi hl).trans ((if_neg hsize).trans (if_pos hn))
      · refine (exec_rgrow_launch hi hl).trans ((if_neg hsize).trans ((if_neg (by omega)).trans ((if_neg (by simp [hlog])).trans
          (if_pos ?_))))
        exact (Bool.and_eq_true _ _).mpr ⟨(Bool.not_eq_true' _).mpr hq, decide_eq_true hfree⟩
    case shrink =>
      intro hi h16 hle hlt hempty
      rw [exec_rshrk, execRshrk, State.issue_go (h := h) hi rfl]
      dsimp only
      rw [if_neg (by simp only [Bool.or_eq_true, decide_eq_true_eq]; omega), if_neg (by omega), if_neg (by simp [hempty])]
    case probe =>
      intro l m hi hl hm s1
      rw [exec_probe, execProbe, State.issue_go (h := h) hi rfl, State.withMs_at hl, State.withRead_there hm]
      exact ⟨fun hz => if_pos hz, fun hz => ⟨_, _, rfl, if_neg hz⟩⟩
  · intro s g h a
    refine ⟨fun l hi hl hbad => ?_, fun hi hbad => ?_⟩
    · refine (exec_rgrow_launch hi hl).trans (if_pos ?_)
      simp only [Bool.or_eq_true, decide_eq_true_eq]
      tauto
    · rw [exec_rshrk, execRshrk, State.issue_go (h := h) hi rfl]
      refine if_pos ?_
      simp only [Bool.or_eq_true, decide_eq_true_eq]
      tauto

end Sys2Proof.Machine
end

section
/-! O27: QLD, QSET and QRS. -/

namespace Sys2Proof.Machine

section
variable {s : State} {g : Group} {h : Hdr} {ty : Ty} {d a b c : Opd} {x : Ctx}

/-- QLD of dimensions that may be loaded. -/
theorem exec_qld_ready (hi : s.issues (.qld h a b c) g = true) (hx : s.ctx? g.id.ctx = some x) (hn : rd32 g h c ≠ 0)
    (hf : rd32 g h b ≤ x.qn) (hl : rd32 g h b + rd32 g h c ≤ 256) :
    exec (.qld h a b c) s =
      if a.isZ then
        .next ((s.retire g h).updCtx g.id.ctx fun x =>
          x.loadDims (rd32 g h b) ((List.range (rd32 g h c)).map fun j => stdDim (rd32 g h b + j)))
      else if (rd64 g h a).toNat % 16 ≠ 0 then s.traps g h { cause := .align, info := rd64 g h a }
      else s.withRd g h (s.readSpan g.id (rd64 g h a) 4 (68 * rd32 g h c)) fun bs =>
        .next (((s.noteSpan g.id (rd64 g h a) 4 (68 * rd32 g h c)).retire g h).updCtx g.id.ctx fun x =>
          x.loadDims (rd32 g h b)
            ((List.range (rd32 g h c)).map fun j => QDim.ofBytes ((bs.drop (272 * j)).take 272))) := by
  rw [exec_qld, execQld, State.issue_go (h := h) hi rfl]
  dsimp only
  rw [hx]
  dsimp only
  rw [if_neg hn, if_neg (by simp only [Bool.or_eq_true, decide_eq_true_eq]; omega)]
  rfl

/-- QRS whose unit holds the context's state. -/
theorem exec_qrs_held (hi : s.issues (.qrs h ty d a b) g = true) (hx : s.ctx? g.id.ctx = some x)
    (hq : s.qunit g.site = some x.no) :
    exec (.qrs h ty d a b) s =
      let bad := (lanesOf g h).filter fun L => x.qn ≤ rdN g h 32 b L
      if !bad.isEmpty then s.traps g h { cause := .qrsdim, lanes := maskOf bad }
      else s.gives g h d 32 false fun L =>
        let y := (x.qrs (BitVec.ofNat 32 (rdN g h 32 a L)) (rdN g h 32 b L)).toNat
        if ty = .f32 then (fmtOf .f32).round .rne false 0 false (y / 256) (-24) else y := by
  rw [exec_qrs, execQrs, State.issue_go (h := h) hi rfl]
  dsimp only
  rw [hx]
  dsimp only
  rw [if_neg (not_not.mpr hq)]
  rfl
end

/-- Settles O27. -/
theorem quasiRandomInstructions : Obligations.QuasiRandomInstructions := by
  intro s g h ty d a b c x hx
  refine ⟨fun hi hn hf hl => ?std, fun bs n hi hn hf hl hal hr => ?load, fun hi => ?qset, fun hi hq hall => ?held,
    fun hi hq => ?waits, fun L hi hq hL hbad => ?dim⟩
  case std => exact (exec_qld_ready hi hx hn hf hl).trans (if_pos rfl)
  case load =>
    refine (exec_qld_ready hi hx hn hf hl).trans ((if_neg (by simp [Opd.isZ])).trans ((if_neg (by simp [hal])).trans ?_))
    rw [hr]
    rfl
  case qset => rw [exec_qset, execQset, State.issue_go (h := h) hi rfl]
  case held =>
    refine (exec_qrs_held hi hx hq).trans (if_neg ?_)
    simpa [List.filter_eq_nil_iff] using hall
  case waits =>
    rw [exec_qrs, execQrs, State.issue_go (h := h) hi rfl]
    dsimp only
    rw [hx]
    exact if_pos hq
  case dim =>
    refine (exec_qrs_held hi hx hq).trans (if_pos ?_)
    simpa using ⟨L, hL, hbad⟩

end Sys2Proof.Machine
end

section
/-! O28 to O31: slots and remote operations. -/

namespace Sys2Proof.Machine

section
variable {s : State} {g : Group} {h : Hdr} {o : Opd} {c : Ctx} {p : Place5} {k : Nat} {b : Binding}

theorem State.withSlot_at (hk : rd32 g h o < 32) (f : Nat → Out) : s.withSlot g h o f = f (rd32 g h o) :=
  if_neg (Nat.not_le.mpr hk)

theorem State.withSlot_beyond (hk : 32 ≤ rd32 g h o) (f : Nat → Out) :
    s.withSlot g h o f = s.traps g h { cause := .pattern } := if_pos hk

theorem State.withBinding_unbound (hk : rd32 g h o < 32) (hc : s.ctx? g.id.ctx = some c) (hb : c.binding? (rd32 g h o) = none)
    (f : Ctx → Place5 → Nat → Binding → Out) : s.withBinding g h o f = s.traps g h { cause := .pattern } := by
  rw [State.withBinding, State.withSlot_at hk, hc]
  dsimp only
  rw [hb]
  rfl

/-- The parts of a bound slot. -/
theorem State.slotAt_cases (hs : s.slotAt g h o = some (c, p, k, b)) :
    rd32 g h o < 32 ∧ s.ctx? g.id.ctx = some c ∧ c.binding? k = some b ∧ p = s.place c.part ∧ k = rd32 g h o := by
  unfold State.slotAt at hs
  split at hs
  · cases hs
  next hk =>
    split at hs
    · cases hs
    next c' hc =>
      split at hs
      · cases hs
      next b' hb =>
        cases hs
        exact ⟨by omega, hc, hb, rfl, rfl⟩

theorem State.slotAt_bound (hk : rd32 g h o < 32) (hc : s.ctx? g.id.ctx = some c) (hb : c.binding? (rd32 g h o) = some b) :
    s.slotAt g h o = some (c, s.place c.part, rd32 g h o, b) := by
  rw [State.slotAt, if_neg (by omega), hc]
  dsimp only
  rw [hb]

/-- Without the units of its cost an operation parks in its slot's queue. -/
theorem State.withAllowance_short {cost : Nat} (hc : s.ctx? g.id.ctx = some c) (hp : s.portFenced g.site.cluster = false)
    (ha : c.allowance k < cost) (next : State → Out) :
    s.withAllowance g h k cost next =
      .next (State.park (if s.allowq.contains (k, g.id) then s
        else { s.unq g.id with allowq := (s.unq g.id).allowq ++ [(k, g.id)] }) g h (.allowance k cost)) := by
  rw [State.withAllowance, hc]
  dsimp only
  rw [if_neg (by simp [hp]), if_pos ha]
end

/-! SABIND and PCNT. -/

section
variable {s : State} {g : Group} {h : Hdr} {a b c : Opd} {x : Ctx}

/-- SABIND of a slot that there is. -/
theorem exec_sabind_slot (hi : s.issues (.sabind h a b c) g = true) (hx : s.ctx? g.id.ctx = some x) (hk : rd32 g h a < 32) :
    exec (.sabind h a b c) s =
      let done : Out := .next ((s.retire g h).bind x (rd32 g h a)
        (some { pat := rd64 g h b, ms := rd64 g h c, cluster := g.site.cluster, dst := 0 }))
      if !(s.place x.part).ok (rd64 g h b) then s.traps g h { cause := .pattern }
      else if rd64 g h c = 0 then done
      else match s.mref g.id.ctx g.site.cluster (rd64 g h c) with
        | .trap t => s.traps g h { cause := t, info := rd64 g h c }
        | .miss ms => .next (s.missing g ms)
        | .ok l => if (s.locSpan l).held then .next s else done := by
  rw [exec_sabind, execSabind, State.issue_go (h := h) hi rfl, State.withSlot_at hk, hx]
  rfl

theorem exec_pcnt_ctx {d : Opd} (hi : s.issues (.pcnt h d a) g = true) (hx : s.ctx? g.id.ctx = some x) :
    exec (.pcnt h d a) s =
      if !(s.place x.part).ok (rd64 g h a) then s.traps g h { cause := .pattern }
      else s.goes (putDest g d (BitVec.ofNat 64 ((s.place x.part).count (rd64 g h a)))) h := by
  rw [exec_pcnt, execPcnt, State.issue_go (h := h) hi rfl, hx]
  rfl
end

/-- Settles O28. -/
theorem slotInstructions : Obligations.SlotInstructions := by
  intro s g h r a b c x hx k bound
  refine ⟨fun hi hk => ?large, fun hi hk hp => ?bad, fun hi hk hp hm => ?zero, fun l hi hk hp hm hl hh => ?ms,
    fun y rg hi hk hy hr hal hle => ?dst, fun hi hk hn => ?unbound, fun hi hk => ?clr, fun hi hp => ?count, fun hi hp => ?badCount⟩
  case large =>
    rw [exec_sabind, execSabind, State.issue_go (h := h) hi rfl]
    exact State.withSlot_beyond hk _
  case bad => exact (exec_sabind_slot hi hx hk).trans (if_pos (by simp [hp]))
  case zero => exact (exec_sabind_slot hi hx hk).trans ((if_neg (by simp [hp])).trans (if_pos hm))
  case ms =>
    refine (exec_sabind_slot hi hx hk).trans ((if_neg (by simp [hp])).trans ((if_neg hm).trans ?_))
    rw [hl]
    exact if_neg (by simp [hh])
  case dst =>
    rw [exec_sabindDst, execSabindDst, State.issue_go (h := h) hi rfl, State.withBinding_at (State.slotAt_bound hk hx hy)]
    dsimp only
    rw [if_neg (by simp [hal])]
    refine (if_neg ?_).trans rfl
    simp only [hr, decide_eq_true_eq]
    omega
  case unbound =>
    rw [exec_sabindDst, execSabindDst, State.issue_go (h := h) hi rfl]
    exact State.withBinding_unbound hk hx hn _
  case clr =>
    rw [exec_sabindClr, execSabindClr, State.issue_go (h := h) hi rfl, State.withSlot_at hk, hx]
  case count => exact (exec_pcnt_ctx hi hx).trans (if_neg (by simp [hp]))
  case badCount => exact (exec_pcnt_ctx hi hx).trans (if_pos (by simp [hp]))

/-! RST and RCOPY. -/

theorem bitsN_top {x : W64} : bitsN x.toNat 63 54 = 0 ↔ x.toNat < 2 ^ 54 := by
  rw [show bitsN x.toNat 63 54 = x.toNat / 2 ^ 54 % 2 ^ 10 from rfl]
  have := x.isLt
  omega

section
variable {s : State} {g : Group} {h : Hdr} {ty : Ty} {d a b : Opd} {c : Ctx} {p : Place5} {k base : Nat} {x : Binding}

/-- RST whose checks pass. -/
theorem exec_rst_checked (hi : s.issues (.rst h ty d a b) g = true) (hs : s.slotAt g h b = some (c, p, k, x))
    (hc : s.checkRemote c h (ty.bits / 8) (remoteAddrs g h a) = .inr base) :
    exec (.rst h ty d a b) s =
      if (remoteAddrs g h a).isEmpty || p.count x.pat = 0 then (s.unq g.id).goes g h
      else
        let offs := (remoteAddrs g h a).map fun y => (y.1, y.2.toNat - base)
        let cost := max 1 ((32 * (offs.map fun y => y.2 / 32).dedup.length + 255) / 256)
        s.withAllowance g h k cost fun s1 =>
          .next (((((s1.retire g h).expectAcks g x (p.dests x.pat) s.tick (some (s.now + s.timeout))).noteSent g.id p s.tick).send
            c.part p x cost (mkBody s p k x (.store (offs.map fun y => (y.2, leBytes (ty.bits / 8) (rd g h ty d y.1))))
              (ackTo x p.coord s.tick) s.tick))) := by
  rw [exec_rst, execRst, State.issue_go (h := h) hi rfl, State.withBinding_at (s := s.unq g.id) hs]
  dsimp only
  rw [hc]
  rfl

/-- RCOPY by a bound slot. -/
theorem exec_rcopy_bound (hi : s.issues (.rcopy h a b) g = true) (hs : s.slotAt g h a = some (c, p, k, x)) :
    exec (.rcopy h a b) s =
      match (if bitsN (rd64 g h b).toNat 63 54 ≠ 0 || 4096 ≤ apIndex (rd64 g h b) then none
        else c.template? (apIndex (rd64 g h b))) with
      | none => s.traps g h { cause := .tmpl }
      | some t =>
        if !tmplRemote t || 1 < nat8 t 0 1 || bitsN (nat8 t 2 2) 2 2 = 1 then s.traps g h { cause := .tmpl }
        else if (s.fabricRange c).isNone then s.traps g h { cause := .prot, info := word64 t 0x10 }
        else
          let (id, s1) := (s.retire g h).fresh
          .next ((s1.expectAcks g x (p.dests x.pat) id none).offer
            { id, ctx := g.id.ctx, gid := some g.id, task := g.id.task, cluster := g.site.cluster
              channel := bitsN (rd64 g h b).toNat 53 48, idx := apIndex (rd64 g h b), tmpl := t, param := apParam (rd64 g h b)
              vectorOnly := s.vectorOnly g.id, remote := some (k, x), st := .queued }) := by
  rw [exec_rcopy, execRcopy, State.issue_go (h := h) hi rfl, State.withBinding_at hs]
  rfl

end

/-- Settles O29. -/
theorem remoteStoresSend : Obligations.RemoteStoresSend := by
  constructor
  · intro s g h ty d a b c p k base x hi hs hck addrs offs cost
    have hctx := (State.slotAt_cases hs).2.1
    have hex := exec_rst_checked hi hs hck
    refine ⟨fun hz => hex.trans (if_pos ?_), fun ha hn hp hle => ?_, fun ha hn hp hlt => ?_⟩
    · obtain hz | hz := hz
      · simp [show remoteAddrs g h a = [] from hz]
      · simp [hz]
    all_goals
      have hsome : ¬ ((remoteAddrs g h a).isEmpty || decide (p.count x.pat = 0)) = true := by
        simp only [Bool.or_eq_true, List.isEmpty_iff, decide_eq_true_eq]
        tauto
    · exact hex.trans ((if_neg hsome).trans (State.withAllowance_ok hctx hp hle h _))
    · exact hex.trans ((if_neg hsome).trans (State.withAllowance_short hctx hp hlt _))
  · intro s g h a b c p k bd hi hs x
    have hex := exec_rcopy_bound hi hs
    have hgood : ¬ (decide (bitsN (rd64 g h b).toNat 63 54 ≠ 0) || decide (4096 ≤ apIndex (rd64 g h b))) = true ↔
        x.toNat < 2 ^ 54 ∧ apIndex x < 4096 := by
      simp only [Bool.or_eq_true, decide_eq_true_eq, not_or, not_not, bitsN_top, not_le, x]
    refine ⟨fun t id s1 hx hidx ht hrem hmode hdst hf hfr => ?_, fun hbad => ?_, fun t ht hbad => ?_⟩
    · rw [hex, if_neg (hgood.mpr ⟨hx, hidx⟩), ht]
      dsimp only
      rw [if_neg (by simp [hrem, hdst, hmode]), if_neg (by simpa [Option.isNone_iff_eq_none] using hf), hfr]
    · rw [hex]
      split
      next => rfl
      next t ht =>
        split at ht
        · cases ht
        next hok =>
          obtain ⟨hx, hidx⟩ := hgood.mp hok
          obtain hbad | hbad | hbad := hbad
          · omega
          · omega
          · rw [hbad] at ht
            cases ht
    · rw [hex]
      split
      next => rfl
      next t' ht' =>
        split at ht'
        · cases ht'
        · rw [ht] at ht'
          cases ht'
          refine if_pos ?_
          simp only [Bool.or_eq_true, Bool.not_eq_true', decide_eq_true_eq]
          tauto

end Sys2Proof.Machine
end

section
/-! O30 and O31: remote reductions, atomics and loads. -/

namespace Sys2Proof.Machine

/-- Settles O30. -/
theorem remoteReductionsContribute : Obligations.RemoteReductionsContribute := by
  intro s g h fn ty d a b c x p k b0 bd w src base hi hs hok hsingle hsrc hnself hack hin hal hck
  have hctx := (State.slotAt_cases hs).2.1
  rw [exec_rred, execRred, State.issue_go (h := h) hi rfl, State.withBinding_at (s := s.unq g.id) hs]
  dsimp only
  rw [if_neg (by simp [hok, hsingle]), if_neg (by simp only [src] at hsrc hnself hack hin; simp [hsrc, hnself, hack, hin]),
    if_neg (not_not.mpr hal), show s.checkRemote x h (32 * (ty.bits / 8)) [(0, rd64 g h a)] = .inr b0 from hck]
  refine ⟨fun hz => if_pos (List.isEmpty_iff.mpr hz), fun hn hp hle => (if_neg ?_).trans ?_⟩
  · exact fun he => hn (List.isEmpty_iff.mp he)
  · exact State.withAllowance_ok hctx hp hle h _

section
variable {s : State} {g : Group} {h : Hdr} {i : Instr} {ty : Ty} {d a slot : Opd} {load : Bool}
  {op : Group → Hdr → List (Nat × Nat) → RemOp} {c : Ctx} {p : Place5} {k base : Nat} {x : Binding}

/-- A remote atomic or load of one destination whose checks pass. -/
theorem State.remoteRead_checked (hi : s.issues i g = true) (hh : i.shape.map (·.h) = some h)
    (hs : s.slotAt g h slot = some (c, p, k, x)) (hok : p.ok x.pat = true) (hsingle : p.single x.pat = true)
    (hck : s.checkRemote c h (ty.bits / 8) (remoteAddrs g h a) = .inr base) :
    s.remoteRead i ty d a slot load op =
      let g1 := if d.isZ then g.pushZero h else g
      if (remoteAddrs g h a).isEmpty then (s.unq g.id).goes g1 h
      else s.withAllowance g h k 1 fun s1 =>
        let s2 := s1.addLoad g1 h (ldst d ty.regs) (.remote ty h.g x.ms x.cluster (remoteAddrs g h a) (s.now + s.timeout))
        let s3 := if load then s2
          else s2.expectAcks g x [(p.box x.pat).map (·.1)] s.tick (some (s.now + s.timeout))
        let body := mkBody s p k x (op g h ((remoteAddrs g h a).map fun y => (y.1, y.2.toNat - base)))
          (if load then [] else ackTo x p.coord s.tick) s.tick
        .next (s3.send c.part p x 1 (if load then { body with msOff := 0 } else body)) := by
  rw [State.remoteRead, State.issue_go hi hh, State.withBinding_at (s := s.unq g.id) hs]
  dsimp only
  rw [if_neg (by simp [hok, hsingle]), hck]
  rfl
end

/-- Settles O31. -/
theorem remoteReadsSend : Obligations.RemoteReadsSend := by
  intro s g h fn ty d a b slot c p k base x hs hok hsingle hck addrs offs g1 asked
  have hctx := (State.slotAt_cases hs).2.1
  refine ⟨fun hz => ⟨fun hi => ?_, fun hi => ?_⟩, fun hn hp hle => ⟨fun hi => ?_, fun hi => ?_⟩⟩
  · rw [exec_ratom, execRatom]
    exact (State.remoteRead_checked (h := h) hi rfl hs hok hsingle hck).trans (if_pos (List.isEmpty_iff.mpr hz))
  · rw [exec_rld, execRld]
    exact (State.remoteRead_checked (h := h) hi rfl hs hok hsingle hck).trans (if_pos (List.isEmpty_iff.mpr hz))
  · rw [exec_ratom, execRatom]
    exact (State.remoteRead_checked (h := h) hi rfl hs hok hsingle hck).trans
      ((if_neg fun he => hn (List.isEmpty_iff.mp he)).trans (State.withAllowance_ok hctx hp hle h _))
  · rw [exec_rld, execRld]
    exact (State.remoteRead_checked (h := h) hi rfl hs hok hsingle hck).trans
      ((if_neg fun he => hn (List.isEmpty_iff.mp he)).trans (State.withAllowance_ok hctx hp hle h _))

end Sys2Proof.Machine
end

section
/-! O32: MMA and MMAS. -/

namespace Sys2Proof.Machine

/-! Placing a step in the queue of its unit. -/

section
variable {s : State} {g : Group} {h : Hdr} {u k : Nat} {d : Opd} {t : MStep}

/-- A step enters the queue that has room and nobody waiting, and the instruction retires. -/
theorem State.placeStep_named (hf : (s.munit u).full = false) (hp : s.parkedBy (Park.onSteps u) = []) :
    s.placeStep g h u none t = (s.queueStep u t).retire { g with granted := none } h := by
  unfold State.placeStep
  exact if_neg (by simp [hf, hp])

theorem State.munit_setUnit_full {m : MUnit} (hm : m.full = false) : ((s.setUnit u m).munit u).full = false := by
  unfold State.munit State.setUnit
  by_cases hu : u < s.units.length
  · simpa [List.getD, hu] using hm
  · simp only [List.getD, List.getElem?_set, hu, if_false]
    rw [List.getElem?_eq_none (by simpa using hu)]
    decide

/-- A .new step first takes the lowest free slot. -/
theorem State.placeStep_new (hg : g.granted = none) (hk : (s.munit u).freeSlot? = some k)
    (hs : s.parkedBy (Park.onSlot u) = []) (hf : (s.munit u).full = false) (hp : s.parkedBy (Park.onSteps u) = []) :
    s.placeStep g h u (some d) t =
      ((s.setUnit u ((s.munit u).allocate k g.id.ctx)).queueStep u { t with slot := k }).retire
        { { putDest g d (BitVec.ofNat 64 k) with granted := some (u, k) } with granted := none } h := by
  have hfull : ((s.setUnit u ((s.munit u).allocate k g.id.ctx)).munit u).full = false := State.munit_setUnit_full hf
  have hpark : (s.setUnit u ((s.munit u).allocate k g.id.ctx)).parkedBy (Park.onSteps u) = [] := hp
  unfold State.placeStep
  simp only [hg, State.placeStep.fresh, hk, hs, List.isEmpty_nil, if_true]
  exact if_neg (by simp [hfull, hpark])

/-- Without a free slot a .new step parks. -/
theorem State.placeStep_parks (hg : g.granted = none) (hk : (s.munit u).freeSlot? = none) :
    s.placeStep g h u (some d) t = s.park g h (.accslot u d t) := by
  unfold State.placeStep
  simp only [hg, State.placeStep.fresh, hk]
end

/-! The checks of MMA and MMAS. -/

theorem State.withRd_ok {s seen : State} {g : Group} {h : Hdr} {r : Rd} {b : List Byte} (hr : r = .ok b) (f : List Byte → Out) :
    s.withRd g h r f seen = f b := by
  rw [hr, State.withRd]

/-- The step of an instruction with a format block, its scales, and its metadata. -/
def mmaStep (s : State) (g : Group) (ctl : W64) (f : FmtBlock) (sc : List Byte) (klog : Nat) (md : Option (List Byte)) : MStep :=
  { id := s.tick, ctx := g.id.ctx, gid := g.id, slot := ctlSlot ctl, fmt := f
    ascale := sc.take (if f.abl = 0 then 0 else 128 * (klog / 2 ^ f.abl))
    bscale := sc.drop (if f.abl = 0 then 0 else 128 * (klog / 2 ^ f.abl)), mdata := md }

/-- A unit that an instruction of a group may name, and reach: its own context's, if any context's. -/
structure State.UnitOpen (s : State) (g : Group) (ctl : W64) : Prop where
  on : s.unitOff g ctl = false
  unfenced : s.unitFenced (g.unitOf ctl) = false
  free : (s.munit (g.unitOf ctl)).heldByOther g.id.ctx = false

section
variable {s : State} {g : Group} {h : Hdr} {i : Instr} {d : Option Opd} {a b c : Opd} {md : Option Opd} {fb sc mb : List Byte}

/-- The reads of an MMA at an open unit, with its slot or without one to name. -/
theorem State.mma_open (hi : s.issues i g = true) (hh : i.shape.map (·.h) = some h) (ho : s.UnitOpen g (rd64 g h a))
    (hd : d = none → ((s.munit (g.unitOf (rd64 g h a))).slot (ctlSlot (rd64 g h a))).allocated g.id.ctx = true)
    (hal : (rd64 g h b).toNat % 32 = 0) (hfb : s.readRef g (rd64 g h b) 8 4 = .ok fb)
    (hf : (FmtBlock.ofBytes fb).ok fb md.isSome = true) {klog : Nat}
    (hk : klog = if md.isSome then 2 * fmtK (FmtBlock.ofBytes fb).afmt else fmtK (FmtBlock.ofBytes fb).afmt)
    (hsc : s.readScales g (FmtBlock.ofBytes fb) fb klog = .ok sc) :
    s.mma i d a b md =
      let f := FmtBlock.ofBytes fb
      let s1 := (s.noteRef g (rd64 g h b) 32).noteScales g f fb klog
      md.elim (.next (s1.placeStep g h (g.unitOf (rd64 g h a)) d (mmaStep s g (rd64 g h a) f sc klog none))) fun x =>
        if (rd64 g h x).toNat % 64 ≠ 0 then s1.traps g h { cause := .align, info := rd64 g h x }
        else s.withRd g h (s.readRef g (rd64 g h x) 1 (128 * (fmtK f.afmt / 4))) (seen := s1) fun mb =>
          .next ((s1.noteRef g (rd64 g h x) (128 * (fmtK f.afmt / 4))).placeStep g h (g.unitOf (rd64 g h a)) d
            (mmaStep s g (rd64 g h a) f sc klog (some mb))) := by
  have hslot : ¬ (d.isNone && !((s.munit (g.unitOf (rd64 g h a))).slot (ctlSlot (rd64 g h a))).allocated g.id.ctx) = true := by
    cases d with
    | none => simp [hd rfl]
    | some d => simp
  rw [State.mma, State.issue_go hi hh]
  dsimp only
  rw [if_neg (by simp [ho.on]), if_neg (by simp [ho.unfenced]), if_neg (by simp [ho.free]), if_neg hslot,
    if_neg (not_not.mpr hal), State.withRd_ok hfb, if_neg (by simp [hf]), ← hk, State.withRd_ok hsc]
  cases md with
  | none => simp only [Option.elim, mmaStep]
  | some x => simp only [Option.elim, mmaStep, State.traps]

/-- MMA of a good format block and scales. -/
theorem State.mma_dense (hi : s.issues i g = true) (hh : i.shape.map (·.h) = some h) (ho : s.UnitOpen g (rd64 g h a))
    (hd : d = none → ((s.munit (g.unitOf (rd64 g h a))).slot (ctlSlot (rd64 g h a))).allocated g.id.ctx = true)
    (hal : (rd64 g h b).toNat % 32 = 0) (hfb : s.readRef g (rd64 g h b) 8 4 = .ok fb)
    (hf : (FmtBlock.ofBytes fb).ok fb false = true)
    (hsc : s.readScales g (FmtBlock.ofBytes fb) fb (fmtK (FmtBlock.ofBytes fb).afmt) = .ok sc) :
    s.mma i d a b none =
      .next (((s.noteRef g (rd64 g h b) 32).noteScales g (FmtBlock.ofBytes fb) fb (fmtK (FmtBlock.ofBytes fb).afmt)).placeStep
        g h (g.unitOf (rd64 g h a)) d
        (mmaStep s g (rd64 g h a) (FmtBlock.ofBytes fb) sc (fmtK (FmtBlock.ofBytes fb).afmt) none)) :=
  State.mma_open (md := none) hi hh ho hd hal hfb hf (if_neg (by decide)).symm hsc

/-- MMAS of a good format block, scales and metadata. -/
theorem State.mma_sparse (hi : s.issues i g = true) (hh : i.shape.map (·.h) = some h) (ho : s.UnitOpen g (rd64 g h a))
    (hd : d = none → ((s.munit (g.unitOf (rd64 g h a))).slot (ctlSlot (rd64 g h a))).allocated g.id.ctx = true)
    (hal : (rd64 g h b).toNat % 32 = 0) (hfb : s.readRef g (rd64 g h b) 8 4 = .ok fb)
    (hf : (FmtBlock.ofBytes fb).ok fb true = true)
    (hsc : s.readScales g (FmtBlock.ofBytes fb) fb (2 * fmtK (FmtBlock.ofBytes fb).afmt) = .ok sc)
    (hm : (rd64 g h c).toNat % 64 = 0)
    (hmd : s.readRef g (rd64 g h c) 1 (128 * (fmtK (FmtBlock.ofBytes fb).afmt / 4)) = .ok mb) :
    s.mma i d a b (some c) =
      .next ((((s.noteRef g (rd64 g h b) 32).noteScales g (FmtBlock.ofBytes fb) fb
        (2 * fmtK (FmtBlock.ofBytes fb).afmt)).noteRef g (rd64 g h c) (128 * (fmtK (FmtBlock.ofBytes fb).afmt / 4))).placeStep
        g h (g.unitOf (rd64 g h a)) d
        (mmaStep s g (rd64 g h a) (FmtBlock.ofBytes fb) sc (2 * fmtK (FmtBlock.ofBytes fb).afmt) (some mb))) := by
  rw [State.mma_open (md := some c) hi hh ho hd hal hfb hf (if_pos rfl).symm hsc]
  dsimp only [Option.elim]
  rw [if_neg (not_not.mpr hm), State.withRd_ok hmd]
end

/-- Settles O32. -/
theorem matrixStepsAreQueued : Obligations.MatrixStepsAreQueued := by
  constructor
  · intro s g h d a b c fb sc md ctl u m f K step asked askedS queued taken named hoff hfen hoth hal hfb hfull hpark
    have ho : s.UnitOpen g (rd64 g h a) := ⟨hoff, hfen, hoth⟩
    have hasks (klog : Nat) : s.Asks (asked klog) := (s.noteRef_asks ..).trans (State.noteScales_asks ..)
    have hasksS : s.Asks askedS := (hasks _).trans (State.noteRef_asks ..)
    have placed {s1 : State} {t : MStep} (h1 : s.Asks s1) : s1.placeStep g h u none t =
        (s1.queueStep u t).retire { g with granted := none } h :=
      State.placeStep_named (h1.munit u ▸ hfull) (h1.parkedBy _ ▸ hpark)
    have new {s1 : State} {t : MStep} {k : Nat} (h1 : s.Asks s1) (hg : g.granted = none) (hk : m.freeSlot? = some k)
        (hs : s.parkedBy (Park.onSlot u) = []) : s1.placeStep g h u (some d) t =
        ((s1.setUnit u (m.allocate k g.id.ctx)).queueStep u { t with slot := k }).retire { named k with granted := none } h := by
      have hm : s1.munit u = m := h1.munit u
      rw [State.placeStep_new hg (hm ▸ hk) (h1.parkedBy _ ▸ hs) (hm ▸ hfull) (h1.parkedBy _ ▸ hpark), hm]
    refine ⟨fun hf hsc => ⟨fun hi hall => ?_, fun k hi hg hk hs => ?_⟩, fun hf hsc hm hmd => ⟨fun hi hall => ?_, fun k hi hg hk hs => ?_⟩⟩
    · rw [exec_mma, execMma, State.mma_dense (h := h) hi rfl ho (fun _ => hall) hal hfb hf hsc]
      exact congrArg Host.Outcome.next (placed (hasks _))
    · rw [exec_mmaNew, execMmaNew, State.mma_dense (h := h) (d := some d) hi rfl ho nofun hal hfb hf hsc]
      exact congrArg Host.Outcome.next (new (hasks _) hg hk hs)
    · rw [exec_mmas, execMmas, State.mma_sparse (h := h) hi rfl ho (fun _ => hall) hal hfb hf hsc hm hmd]
      exact congrArg Host.Outcome.next (placed hasksS)
    · rw [exec_mmasNew, execMmasNew, State.mma_sparse (h := h) (d := some d) hi rfl ho nofun hal hfb hf hsc hm hmd]
      exact congrArg Host.Outcome.next (new hasksS hg hk hs)
  · intro s g h d a b ctl u m
    refine ⟨fun hoff hi => ?_, fun hoff hfen hoth hi => ?_, fun hoff hfen hoth hall hi => ?_,
      fun fb hoff hfen hoth hal hfb hf ha hb hk hg hi => ?_⟩
    · rw [exec_mma, execMma, State.mma, State.issue_go (h := h) hi rfl]
      exact if_pos hoff
    · rw [exec_mma, execMma, State.mma, State.issue_go (h := h) hi rfl]
      exact (if_neg (ne_true_of_eq_false hoff)).trans ((if_neg (ne_true_of_eq_false hfen)).trans (if_pos hoth))
    · rw [exec_mma, execMma, State.mma, State.issue_go (h := h) hi rfl]
      exact (if_neg (ne_true_of_eq_false hoff)).trans ((if_neg (ne_true_of_eq_false hfen)).trans
        ((if_neg (ne_true_of_eq_false hoth)).trans (if_pos (by rw [show Slot.allocated _ _ = false from hall]; rfl))))
    · have hsc : s.readScales g (FmtBlock.ofBytes fb) fb (fmtK (FmtBlock.ofBytes fb).afmt) = .ok [] := by
        simp [State.readScales, ha, hb, Rd.then]
      have hnote : (s.noteRef g (rd64 g h b) 32).noteScales g (FmtBlock.ofBytes fb) fb (fmtK (FmtBlock.ofBytes fb).afmt) =
          s.noteRef g (rd64 g h b) 32 := by simp [State.noteScales, ha, hb]
      refine ⟨mmaStep s g (rd64 g h a) (FmtBlock.ofBytes fb) [] (fmtK (FmtBlock.ofBytes fb).afmt) none, rfl, ?_⟩
      rw [exec_mmaNew, execMmaNew, State.mma_dense (h := h) (d := some d) hi rfl ⟨hoff, hfen, hoth⟩ nofun hal hfb hf hsc, hnote]
      exact congrArg Host.Outcome.next (State.placeStep_parks hg ((s.noteRef_asks ..).munit u ▸ hk))

end Sys2Proof.Machine
end

section
/-! O33 and O35: ACCREL, ACCDR, CBLD and STRM; the steps and drains of the matrix units. -/

namespace Sys2Proof.Machine

/-- CBLD of a context without a step under way loads the codebook. -/
theorem State.loadCodebook_ok {s : State} {g : Group} {a : W64} {bs : List Byte} (hr : s.readSpan g.id a 4 256 = .ok bs)
    (trap : Trap → State) (done : State → State) :
    s.loadCodebook g a trap done =
      done ((s.noteSpan g.id a 4 256).updCtx g.id.ctx fun c => { c with codebook := codebookOf bs }) := by
  rw [State.loadCodebook, hr]

/-- Settles O33. -/
theorem unitInstructions : Obligations.UnitInstructions := by
  intro s g h ty r d a b ctl u m k
  refine ⟨fun hoff hfen => ⟨fun hi hall => ?rel, fun hi hall => ?relOther, fun hi hv hl => ?drain, fun hi hv hl => ?drainNone,
    fun hi ho => ?cnt, fun hi ho hs hn => ?drop⟩, fun bs hi hal hid hr => ?cbld⟩
  case rel =>
    rw [exec_accrel, execAccrel, State.issue_go (h := h) hi rfl]
    exact (if_neg (ne_true_of_eq_false hoff)).trans ((if_neg (ne_true_of_eq_false hfen)).trans
      (if_neg (by rw [show Slot.allocated _ _ = true from hall]; decide)))
  case relOther =>
    rw [exec_accrel, execAccrel, State.issue_go (h := h) hi rfl]
    exact (if_neg (ne_true_of_eq_false hoff)).trans ((if_neg (ne_true_of_eq_false hfen)).trans
      (if_pos (by rw [show Slot.allocated _ _ = false from hall]; rfl)))
  case drain =>
    rw [exec_accdr, execAccdr, State.issue_go (h := h) hi rfl]
    dsimp only
    rw [if_neg (by rw [hv, show s.unitOff g (rd64 g h a) = false from hoff]; decide)]
    cases he : lanesOf g h with
    | nil => exact absurd he hl
    | cons L ls => rfl
  case drainNone =>
    rw [exec_accdr, execAccdr, State.issue_go (h := h) hi rfl]
    dsimp only
    rw [if_neg (by rw [hv, show s.unitOff g (rd64 g h a) = false from hoff]; decide), hl]
    rfl
  case cnt =>
    rw [exec_strmCnt, execStrmCnt, State.issue_go (h := h) hi rfl]
    exact (if_neg (ne_true_of_eq_false hoff)).trans ((if_neg (ne_true_of_eq_false hfen)).trans
      (if_neg (ne_true_of_eq_false ho)))
  case drop =>
    rw [exec_strmDrop, execStrmDrop, State.issue_go (h := h) hi rfl]
    exact (if_neg (ne_true_of_eq_false hoff)).trans ((if_neg (ne_true_of_eq_false hfen)).trans
      ((if_neg (ne_true_of_eq_false ho)).trans ((if_neg hn).trans
        (if_neg (by rw [show MUnit.steps _ = [] from hs]; decide)))))
  case cbld =>
    rw [exec_cbld, execCbld, State.issue_go (h := h) hi rfl]
    refine (if_neg (not_not.mpr hal)).trans ((if_pos (List.isEmpty_iff.mpr hid)).trans ?_)
    exact congrArg Host.Outcome.next (State.loadCodebook_ok hr _ _)

/-! Steps and drains at their unit. -/

section
variable {s : State} {u n : Nat} {t : MStep} {rest : List MStep}

/-- A step that has begun, its tiles standing whole, takes effect. -/
theorem exec_matrixStepComplete_begun {c : Ctx} (hu : u < 128) (hs : (s.munit u).steps = t :: rest) (hb : t.begun = true)
    (hr : (s.munit u).ready t = true) (hc : s.ctx? t.ctx = some c) :
    exec (.matrixStepComplete u) s =
      let m := s.munit u
      let x := t.effect c.codebook m (m.slot t.slot)
      let s1 := s.setUnit u { (m.setSlot t.slot x.1) with steps := rest, a := m.a.drop 1, b := m.b.drop t.nb }
      .next ((if x.2 then s1
        else s1.reportCtx t.ctx (engineReport t.ctx 4 0 0 0 (u % 32) t.gid.task 0 (s.posOf (u / 32)))).unitService u) := by
  rw [exec_matrixStepComplete, execMatrixStepComplete]
  dsimp only
  rw [hs]
  dsimp only
  rw [if_pos (by simp [hu, hb, hr]), hc]

/-- Tiles of the classes of the step's formats give their products. -/
theorem MStep.effect_good {codebook : List W32} {m : MUnit} {x : Slot} {p : TilePos} (hp : m.a.head? = some p)
    (ha : p.esize = fmtEsize t.fmt.afmt) (hb : ∀ q ∈ m.b.take t.nb, q.esize = fmtEsize t.fmt.bfmt)
    (tile : Option TilePos → List Byte) (ht : ∀ o, tile o = match o with | some q => q.bytes | none => []) :
    t.effect codebook m x =
      (x.step ((List.range 8192).map fun e =>
        t.prods codebook p.bytes (tile (m.b.take t.nb).head?) (tile (m.b.take t.nb)[1]?) (e / 64) (e % 64)), true) := by
  unfold MStep.effect
  dsimp only
  rw [hp, if_neg (by simpa [ha] using hb), ht, ht] <;> rfl

/-- Tiles of another class make every element NaN. -/
theorem MStep.effect_bad {codebook : List W32} {m : MUnit} {x : Slot} {p : TilePos} (hp : m.a.head? = some p)
    (hbad : p.esize ≠ fmtEsize t.fmt.afmt ∨ ∃ q ∈ m.b.take t.nb, q.esize ≠ fmtEsize t.fmt.bfmt) :
    t.effect codebook m x = ({ x with elems := List.replicate 8192 (.nan, 0), bad := [] }, false) := by
  unfold MStep.effect
  dsimp only
  rw [hp]
  refine if_pos ?_
  simp only [Bool.not_eq_true', Bool.and_eq_false_iff, decide_eq_false_iff_not, List.all_eq_false, decide_eq_true_eq]
  exact hbad

/-- A drain at its unit. -/
theorem exec_accdrRead_at {l : Load} {k row : Nat} {lanes : List Nat} {bf : Bool}
    (hl : (s.loads.filter fun l => l.kind.isAcc)[n]? = some l) (hk : l.kind = .acc u k row lanes bf) :
    exec (.accdrRead n) s =
      if s.drainBehind l u k then .next s
      else if !((s.munit u).slot k).allocated l.gid.ctx then .next (s.failLoad l { cause := .accslot })
      else if ((s.munit u).slot k).bad.contains row then .next (s.failLoad l { cause := .uncorr, lanes := maskOf lanes })
      else .next { s with loads := s.loads.map fun y =>
          if y.id = l.id then { y with kind := .mem (((s.munit u).slot k).row row lanes bf) none } else y } := by
  rw [exec_accdrRead, execAccdrRead]
  split
  next hn => exact absurd (hn.symm.trans hl) nofun
  next l' hl' =>
    cases hl'.symm.trans hl
    rw [hk]
end

/-- Settles O35. -/
theorem matrixUnitSteps : Obligations.MatrixUnitSteps := by
  intro s u n t rest l hu m
  refine ⟨fun hs hb hr => ?begin_, fun c p hs hb hr hc hp => ?complete, fun k row lanes bf hl hk => ?drain⟩
  case begin_ =>
    rw [exec_matrixStepBegin, execMatrixStepBegin, show (s.munit u).steps = t :: rest from hs]
    exact if_pos (by simp [hu, hb]; exact hr)
  case complete =>
    intro bs done tile
    have hex := exec_matrixStepComplete_begun hu hs hb hr hc
    refine ⟨fun ha hbs => ?_, fun hbad => ?_⟩
    · rw [hex]
      dsimp only
      rw [MStep.effect_good (m := s.munit u) hp ha hbs tile fun _ => rfl]
      rfl
    · rw [hex]
      dsimp only
      rw [MStep.effect_bad (m := s.munit u) hp hbad]
      rfl
  case drain =>
    have hex := exec_accdrRead_at hl hk
    refine ⟨fun hd => hex.trans (if_pos hd), fun hd ha => ?_, fun hd ha hrow => ?_⟩
    · exact hex.trans ((if_neg (ne_true_of_eq_false hd)).trans (if_pos (by simp [ha])))
    · exact hex.trans ((if_neg (ne_true_of_eq_false hd)).trans ((if_neg (by simp [ha])).trans (if_neg (by simpa using hrow))))

end Sys2Proof.Machine
end

section
/-! O37: legs, data that lands, logical cores and probes. -/

namespace Sys2Proof.Machine

section
variable {s : State} {n : Nat} {p : Probe} {g : Group}

/-- A probe back at its origin, which is still blocked, raises DEADLOCK. -/
theorem State.probeReaches_origin (ht : p.target = p.origin.task) (hg : s.group? p.origin = some g) (hp : g.isParked = true)
    (hb : State.busy { s with probes := s.probes.filter fun x => x.id ≠ p.id } g = false) (hw : s.handlerWaits g = false) :
    s.probeReaches p = State.deadlock { s with probes := s.probes.filter fun x => x.id ≠ p.id } g p.hops := by
  have hg' : State.group? { s with probes := s.probes.filter fun x => x.id ≠ p.id } p.origin = some g := hg
  rw [State.probeReaches, if_pos ht]
  dsimp only
  rw [hg']
  dsimp only
  rw [if_neg (by rw [hp, hb]; decide), if_neg (by simp [hw])]

theorem State.probeReaches_far (ht : p.target ≠ p.origin.task) (hh : 15 ≤ p.hops.length) : s.probeReaches p = s.probeDies p := by
  rw [State.probeReaches, if_neg ht, if_pos (by unfold maxHops; omega)]

/-- A probe at another task within its hops. -/
theorem State.probeReaches_task {t : Team} (ht : p.target ≠ p.origin.task) (hh : p.hops.length < 15)
    (hteam : s.team? p.origin.ctx p.target = some t) :
    s.probeReaches p =
      let gs := (s.groupsOf p.origin.ctx p.target).filter fun g => g.st ≠ .exited
      if gs.any s.busy || !t.missing.isEmpty then s.probeDies p
      else match (sortBy (fun (a b : Group) => a.id.grp < b.id.grp) gs).head? with
        | none => s.probeDies p
        | some g => match s.edge edgeFuel g with
          | none => s.probeDies p
          | some r => { s with probes := s.probes.map fun x =>
              if x.id = p.id then { p with target := r, hops := p.hops ++ [p.target] } else x } := by
  rw [State.probeReaches, if_neg ht, if_neg (by unfold maxHops; omega)]
  dsimp only
  rw [hteam] <;> rfl

theorem exec_probeHop_at (hp : s.probes[n]? = some p) : exec (.probeHop n) s = .next (s.probeReaches p) := by
  rw [exec_probeHop, execProbeHop, hp]

theorem exec_loadDataLands_at {l : Load} (hl : (s.loads.filter fun l => l.kind.isMem)[n]? = some l) :
    exec (.loadDataLands n) s = .next (s.landLoad l) := by
  rw [exec_loadDataLands, execLoadDataLands, hl]
end

/-- Settles O37. -/
theorem coreSteps : Obligations.CoreSteps := by
  constructor
  · intro s site slot n core g l q
    refine ⟨fun hs hn hp => ?leg, fun h k t hh hk hd hdue ht => ?switch, fun vals hl hk => ?lands, fun vals lanes hl hk => ?fails,
      fun hq => ?qrs⟩
    case leg =>
      rw [exec_legIssue, execLegIssue, if_neg (by rw [hn]; simpa using hs), hp]
    case switch =>
      rw [exec_dmodeTimeshareSwitch, execDmodeTimeshareSwitch, hh]
      dsimp only
      rw [hk]
      dsimp only
      rw [if_neg (by obtain hd | hd := hd <;> simp [hd, hdue]), ht]
    case lands => rw [exec_loadDataLands_at hl, State.landLoad, hk]
    case fails => rw [exec_loadDataLands_at hl, State.landLoad, hk]
    case qrs => rw [exec_qrsStateLoad, execQrsStateLoad, hq]
  · intro s n g p t r
    refine ⟨fun s1 id hg hd he hf => ?timer, fun hp => ⟨?origin, ?far, ?runs, ?onward⟩, fun hi hg hst => ?ends⟩
    case timer =>
      rw [exec_probeTimer, execProbeTimer, hg]
      dsimp only
      rw [if_neg (by simp [hd]), he, hf]
    case origin =>
      intro s1 ht hg hpark hb hw
      rw [exec_probeHop_at hp, State.probeReaches_origin ht hg hpark hb hw]
    case far =>
      intro ht hh
      rw [exec_probeHop_at hp, State.probeReaches_far ht hh]
    case runs =>
      intro ht hh hteam hb
      rw [exec_probeHop_at hp, State.probeReaches_task ht hh hteam]
      exact congrArg Host.Outcome.next (if_pos (by rw [hb, Bool.true_or]))
    case onward =>
      intro ht hh hteam hm hgs hb he
      rw [exec_probeHop_at hp, State.probeReaches_task ht hh hteam]
      dsimp only
      rw [hgs, if_neg (by simp [hb, hm]), show sortBy (fun (a b : Group) => decide (a.id.grp < b.id.grp)) [g] = [g] from rfl]
      dsimp only [List.head?]
      rw [he]
    case ends =>
      have hg' : State.group? { s with probes := s.probes.filter fun x => x.id ≠ p.id } p.origin = some g := hg
      rw [State.probeDies]
      rw [if_pos hi, hg']
      simp only [hst]

end Sys2Proof.Machine
end

section
/-! O38: a team starts at its place, and teams move between distributors. -/

namespace Sys2Proof.Machine

/-! What entering a place leaves. -/

/-- An acquire changes the L1 alone. -/
theorem State.acquire_groups (s : State) (site : Site) (scope : Scope) : (s.acquire site scope).groups = s.groups := by
  cases site with
  | cc _ => rfl
  | core k =>
    rw [State.acquire]
    split <;> rfl

/-- So does each of a list of them. -/
theorem acquires_groups (s : State) (sites : List Site) :
    (sites.foldl (fun s x => s.acquire x .job) s).groups = s.groups := by
  induction sites generalizing s with
  | nil => rfl
  | cons x xs ih => exact (ih _).trans (s.acquire_groups x .job)

/-- The groups of a team that starts are added to those that stand, each new. -/
theorem State.start_groups (s : State) (t : Team) (r : LRec) (x : Spot) :
    (s.start t r x).groups =
      s.groups ++ x.sites.map fun (i, site) => newGroup r { ctx := t.ctx, task := t.task, grp := i } site s.now :=
  congrArg (· ++ _) (acquires_groups s _)

/-! Admission (03 R36, R41, R42). -/

/-- A physical team that has a place and has not run yet starts there. -/
theorem State.admitTeam_start {s : State} {cluster : Nat} {t : Team} {x : Spot} {l : Launch} {c : Ctx}
    (hx : s.spot cluster t = some x) (hl : s.launch? t.ctx t.serial = some l) (hc : s.ctx? t.ctx = some c)
    (hlog : l.lrec.logical = false) (hre : t.requeued = false) :
    s.admitTeam cluster t = some (s.start t l.lrec x) := by
  rw [State.admitTeam, hx, hl, hc]
  dsimp only
  rw [if_neg (ne_true_of_eq_false hlog), if_neg (ne_true_of_eq_false hre)]

/-- The head of the queue comes first. -/
theorem State.admitNext_head {s s1 : State} {cluster : Nat} {t : Team} (ha : s.admitting cluster = true)
    (ht : s.queueHead cluster = some t) (h1 : s.admitTeam cluster t = some s1) : s.admitNext cluster = some s1 := by
  rw [State.admitNext, if_neg (by rw [ha]; decide), ht]
  dsimp only
  rw [h1]

/-- A distributor admits the team that comes next, then asks for work. -/
theorem exec_teamAdmit_below {s : State} {cluster : Nat} (hc : cluster < 4) :
    exec (.teamAdmit cluster) s = .next (((s.admitNext cluster).getD s).sendSteals cluster) :=
  if_neg (Nat.not_le.mpr hc)

/-- Settles O38, from `admitNext_head` and `admitTeam_start` for the admission and from the two steps of a steal. -/
theorem teamsStartAndMove : Obligations.TeamsStartAndMove := by
  unfold Obligations.TeamsStartAndMove
  intro s cluster n t l c x m
  refine ⟨fun hc ha ht hx hl hctx hlog hre => ?admits, fun r id site now => ?starts, fun hc hn => ?idle, ?answers, ?hands⟩
  case admits =>
    refine ⟨s.start t l.lrec x, ?_, s.start_groups t l.lrec x⟩
    rw [exec_teamAdmit_below hc, State.admitNext_head ha ht (State.admitTeam_start hx hl hctx hlog hre)]
    rfl
  case starts =>
    refine ⟨rfl, rfl, fun j hj => ?_, rfl, rfl, rfl, rfl, rfl, rfl, rfl, rfl⟩
    obtain ⟨k, rfl⟩ := Nat.exists_eq_succ_of_ne_zero hj.ne'
    exact List.getD_eq_getElem?_getD.trans (List.getElem?_getD_replicate_default_eq 0 127 k)
  case idle =>
    rw [exec_teamAdmit_below hc, hn]
    rfl
  case answers =>
    intro hm hl
    rw [exec_stealMessage, execStealMessage, hm]
    dsimp only
    rw [hl]
  case hands =>
    intro got hm hgot
    rw [exec_stealHandover, execStealHandover, hm]
    dsimp only
    rw [hgot]
    rfl

end Sys2Proof.Machine
end

section
/-! O39, the ends: groups, teams, launches, discards and saves. -/

namespace Sys2Proof.Machine

section
variable {s : State}

/-! Steps of a launch's retirement at a reference (03 R39). -/

/-- Nothing keeps an update at a reference from being made, or none is named. -/
def State.RefFree (s : State) (l : Launch) (r : W64) : Prop :=
  r = 0 ∨ ∃ loc, s.mref l.ctx (s.lowCluster l.ctx) r = .ok loc ∧ s.locUnreached (s.lowCluster l.ctx) loc = false ∧
    s.locBad loc 64 = false

/-- The update at a reference, where one is named. -/
def State.updNamed (s : State) (l : Launch) (r : W64) (u : MsUpd) : State :=
  if r = 0 then s else s.updRef l.ctx 0 (s.lowCluster l.ctx) r u

/-- A step at a free reference is its update. -/
theorem State.retireStep_free {l : Launch} {r : W64} (h : s.RefFree l r) (u : MsUpd) :
    s.retireStep l r u = .inl (s.updNamed l r u) := by
  rw [State.retireStep, State.updNamed]
  split
  case isTrue _ => rfl
  case isFalse hr =>
    obtain ⟨loc, hloc, hun, hbad⟩ := h.resolve_left hr
    rw [hloc]
    dsimp only
    rw [if_neg (ne_true_of_eq_false hun), if_neg (ne_true_of_eq_false hbad)]

/-- A step at a reference whose page is missing waits for it. -/
theorem State.retireStep_miss {l : Launch} {r : W64} {ms : List (Miss × Bool)} (hr : r ≠ 0)
    (h : s.mref l.ctx (s.lowCluster l.ctx) r = .miss ms) (u : MsUpd) : s.retireStep l r u = .inr ms := by
  rw [State.retireStep, if_neg hr, h]

/-- The error that a launch hands on: 6 after an abort. -/
def Launch.endErr (l : Launch) : Nat := if l.aborted then 6 else 0

/-- A launch that lacks a page waits for it. -/
def State.launchWaits (s : State) (l : Launch) (ms : List (Miss × Bool)) : State :=
  (s.reportMiss l.ctx ms).updLaunch l.ctx l.serial fun x => { x with waits := ms.map (·.1) }

/-- A launch stands at a step of its retirement. -/
def State.atStep (s : State) (l : Launch) (k : Nat) : State := s.updLaunch l.ctx l.serial fun x => { x with step := k }

/-- The first step, at DONEMS, made. -/
theorem State.retireLaunch_donems {l : Launch} {s1 : State} {n : Nat} (h0 : l.step = 0)
    (h : s.retireStep l l.lrec.donems (.arrive 1 l.endErr) = .inl s1) :
    s.retireLaunch l (n + 1) = (s1.atStep l 2).retireLaunch { l with step := 2 } n := by
  rw [State.retireLaunch]
  simp only [h0, show (if l.aborted = true then 6 else 0) = l.endErr from rfl, h]
  rfl

/-- The first step, which waits. -/
theorem State.retireLaunch_donems_waits {l : Launch} {ms : List (Miss × Bool)} {n : Nat} (h0 : l.step = 0)
    (h : s.retireStep l l.lrec.donems (.arrive 1 l.endErr) = .inr ms) : s.retireLaunch l (n + 1) = s.launchWaits l ms := by
  rw [State.retireLaunch]
  simp only [h0, show (if l.aborted = true then 6 else 0) = l.endErr from rfl, h]
  rfl

/-- The second step, at RESOLVES, made: the launch is gone. -/
theorem State.retireLaunch_resolves {l : Launch} {s1 : State} {n : Nat} (h2 : l.step = 2)
    (h : s.retireStep l l.lrec.resolves (.resolve (l.serial.setWidth 64) l.endErr) = .inl s1) :
    s.retireLaunch l (n + 2) = (s1.atStep l 3).dropLaunch { l with step := 3 } := by
  rw [State.retireLaunch]
  simp only [h2, show (if l.aborted = true then 6 else 0) = l.endErr from rfl, h]
  rfl

/-- The second step, which waits. -/
theorem State.retireLaunch_resolves_waits {l : Launch} {ms : List (Miss × Bool)} {n : Nat} (h2 : l.step = 2)
    (h : s.retireStep l l.lrec.resolves (.resolve (l.serial.setWidth 64) l.endErr) = .inr ms) :
    s.retireLaunch l (n + 1) = s.launchWaits l ms := by
  rw [State.retireLaunch]
  simp only [h2, show (if l.aborted = true then 6 else 0) = l.endErr from rfl, h]
  rfl

/-- A launch from which nothing more comes goes through its steps. -/
theorem exec_launchRetire_done {l : Launch} (hl : s.launch? l.ctx l.serial = some l) (hd : s.launchDone l = true) :
    exec (.launchRetire l.ctx l.serial) s = .next (s.retireLaunch l 3) := by
  rw [exec_launchRetire, execLaunchRetire, hl]
  exact if_pos hd

/-! Teams. -/

/-- A team that is due publishes its version. -/
theorem exec_teamRetire_due {t : Team} (ht : s.team? t.ctx t.task = some t) (hd : s.retireDue t = true) :
    exec (.teamRetire t.ctx t.task) s =
      if (s.publish t.ctx t.task).2.isEmpty then
        .next (if (s.publish t.ctx t.task).1.published t.ctx t.task then (s.publish t.ctx t.task).1.dropTeam t
          else (s.publish t.ctx t.task).1)
      else .next (((s.publish t.ctx t.task).1.reportMiss t.ctx (s.publish t.ctx t.task).2 t.task).updTeam t.ctx t.task fun x =>
        { x with st := .retiring, missing := (s.publish t.ctx t.task).2.map (·.1) }) := by
  have hd' : ¬ (!s.retireDue t) = true := by rw [hd]; decide
  rw [exec_teamRetire, execTeamRetire, ht]
  exact if_neg hd'

/-- A drained team is switched out, unless something of it cannot be saved. -/
theorem exec_switchOutComplete_due {t : Team} {c : Ctx} (ht : s.team? t.ctx t.task = some t) (hc : s.ctx? t.ctx = some c)
    (hd : s.outDue t = true) :
    exec (.switchOutComplete t.ctx t.task) s =
      if s.saveBad t ((s.groupsOf t.ctx t.task).filter Group.isSaved) then
        .next (s.endTeam t.ctx t.task (imageRecord t.ctx t.task))
      else match s.takeFrames c (hbmPool (s.posOf (s.heldOn t)))
          (imageFrames (s.scratchOf t.ctx t.serial) ((s.groupsOf t.ctx t.task).filter Group.isSaved)) with
        | none => .next (s.awaitPool t (s.posOf (s.heldOn t)))
        | some (fs, s1) => .next (s1.writeImage t fs) := by
  have hd' : ¬ (!s.outDue t) = true := by rw [hd]; decide
  rw [exec_switchOutComplete, execSwitchOutComplete, ht, hc]
  exact if_neg hd'

end

end Sys2Proof.Machine
end

section
/-! O39: ends, acknowledgements, responses and rounds. -/

namespace Sys2Proof.Machine

section
variable {s : State}

/-! Acknowledgements (17 R321, R325, R329). -/

/-- One from the list is taken off it. -/
theorem exec_ackArrival_at {n p : Nat} {a : Ack} (h : s.acks[n]? = some (p, a)) :
    exec (.ackArrival n none) s = .next (State.ackAt { s with acks := s.acks.eraseIdx n } a) := by
  rw [exec_ackArrival, execAckArrival, h]

/-- One that is awaited is no longer. -/
theorem State.ackAt_awaited {a : Ack} {w : Await} (h : s.awaits.find? (fun w => w.tag = a.tag && w.from_.contains a.peer) = some w)
    (hs : s.stale (s.jobOf w.ctx) a.peer a.tag = none) :
    s.ackAt a = State.slotUpd
      { s with awaits := if (w.from_.erase a.peer).isEmpty then s.awaits.erase w
          else s.awaits.map fun x => if x = w then { w with from_ := w.from_.erase a.peer } else x }
      w.ctx w.cluster w.ms (if a.err = 0 then .arrive 1 0 else .fail a.err) := by
  rw [State.ackAt, h]
  dsimp only
  rw [hs]

/-- One sealed under an old key is dropped. -/
theorem State.ackAt_stale {a : Ack} {w : Await} {x : Rejoin} (h : s.awaits.find? (fun w => w.tag = a.tag && w.from_.contains a.peer) = some w)
    (hs : s.stale (s.jobOf w.ctx) a.peer a.tag = some x) : s.ackAt a = s.dropStale x := by
  rw [State.ackAt, h]
  dsimp only
  rw [hs]

/-- One that nothing awaits. -/
theorem State.ackAt_unawaited {a : Ack} (h : s.awaits.find? (fun w => w.tag = a.tag && w.from_.contains a.peer) = none) :
    s.ackAt a = s.unawaited a.peer a.tag := by
  rw [State.ackAt, h]

/-- What never comes of the n-th operation, at its time. -/
theorem exec_acknowledgementTimeout_at {n : Nat} {w : Await} (h : s.awaits[n]? = some w) (ho : s.overdue w = true) :
    exec (.acknowledgementTimeout n) s =
      .next (State.slotUpd
        { s with awaits :=
            if (w.from_.filter fun p => !(s.silent w).contains p).isEmpty then s.awaits.eraseIdx n
            else s.awaits.set n { w with from_ := w.from_.filter fun p => !(s.silent w).contains p } }
        w.ctx w.cluster w.ms (.fail 3)) := by
  rw [exec_acknowledgementTimeout, execAcknowledgementTimeout, h]
  exact if_neg (by rw [ho]; decide)

/-- An operation whose round is still pending, or whose peers all answer, is not overdue. -/
theorem State.overdue_not {w : Await} (h : s.inRound w.tag = true ∨ s.silent w = []) : s.overdue w = false := by
  rw [State.overdue]
  obtain h | h := h
  · rw [h]
    rfl
  · rw [h]
    exact Bool.and_false _

/-! Responses (17 R321, R322). -/

/-- One from the list is taken off it. -/
theorem exec_remoteResponse_at {n p : Nat} {r : Response} (h : s.resps[n]? = some (p, r)) :
    exec (.remoteResponse n none) s = .next (State.response { s with resps := s.resps.eraseIdx n } r) := by
  rw [exec_remoteResponse, execRemoteResponse, h]

/-- A response for a load that awaits it. -/
theorem State.response_awaited {r : Response} {l : Load} {ty g1 ms cl addrs u}
    (hl : s.loads.find? (fun l => l.id = r.tag && l.kind.isRemote) = some l) (hk : l.kind = .remote ty g1 ms cl addrs u)
    (hs : s.stale (s.jobOf l.gid.ctx) r.peer r.tag = none) :
    s.response r =
      if r.err = 0 then
        { s with loads := s.loads.map fun x =>
            if x.id = l.id then { x with kind := .mem (r.lanes.map fun v => (v.1, landedTo l.dst ty v.2)) none } else x }
      else
        let s1 := s.failLoad l {
          cause := if r.err = 4 then .uncorr else .prot
          info := if r.err = 4 then 0 else ((addrs.find? fun x => (r.lanes.map (·.1)).contains x.1).map (·.2)).getD 0
          lanes := if g1 then 0 else maskOf (r.lanes.map (·.1)) }
        if ms = 0 then s1 else s1.slotUpd l.gid.ctx cl ms (.fail r.err) := by
  have hl' : (s.loads.find? fun l => l.id = r.tag && match l.kind with | .remote .. => true | _ => false) = some l := hl
  rw [State.response]
  split
  next hn => exact absurd (hn.symm.trans hl') nofun
  next l' hl'' =>
    cases hl''.symm.trans hl'
    rw [hk]
    dsimp only
    rw [hs]
    cases addrs.find? fun x => (r.lanes.map (·.1)).contains x.1 <;> rfl

/-- The n-th remote load whose response did not come. -/
theorem exec_remoteTimeout_at {n : Nat} {l : Load} {ty g1 ms cl addrs u}
    (hl : (s.loads.filter fun l => l.kind.isRemote)[n]? = some l) (hk : l.kind = .remote ty g1 ms cl addrs u) (hu : u ≤ s.now) :
    exec (.remoteTimeout n) s =
      let s1 := s.failLoad l { cause := .mserr, info := ms, lanes := if g1 then 0 else maskOf (addrs.map (·.1)) }
      .next (if ms = 0 then s1 else s1.slotUpd l.gid.ctx cl ms (.fail 3)) := by
  have hl' : (s.loads.filter fun l => match l.kind with | .remote .. => true | _ => false)[n]? = some l := hl
  rw [exec_remoteTimeout, execRemoteTimeout]
  split
  next hn => exact absurd (hn.symm.trans hl') nofun
  next l' hl'' =>
    cases hl''.symm.trans hl'
    rw [hk]
    exact if_neg (Nat.not_lt.mpr hu)

end

end Sys2Proof.Machine
end

section
/-! O39: an error that lands alone, and the statement. -/

namespace Sys2Proof.Machine

section
variable (s : State) (ls : List Arrived)

/-! The landings that wait are no part of what a page walk or the check of a landing reads. -/

theorem State.owns_landings (p a : Nat) : State.owns { s with landings := ls } p a = s.owns p a := rfl

theorem State.clusters_landings (p : Nat) : State.clusters { s with landings := ls } p = s.clusters p := rfl

theorem State.ownsBytes_landings (p a n : Nat) : State.ownsBytes { s with landings := ls } p a n = s.ownsBytes p a n := by
  simp only [State.ownsBytes, State.owns_landings]

theorem State.leafOf_landings (p a e : Nat) : State.leafOf { s with landings := ls } p a e = s.leafOf p a e := by
  dsimp only [State.leafOf]
  rw [State.owns_landings, State.clusters_landings]

theorem State.dirAt_landings (p a : Nat) : State.dirAt { s with landings := ls } p a = s.dirAt p a := by
  rw [State.dirAt, State.ownsBytes_landings]
  rfl

theorem State.walk_landings (c : Ctx) (ia : Nat) : State.walk { s with landings := ls } c ia = s.walk c ia := by
  simp only [State.walk, State.dirAt_landings, State.ownsBytes_landings, State.leafOf_landings, State.read64]

theorem State.walkWaits_landings (c : Ctx) (ia : Nat) : State.walkWaits { s with landings := ls } c ia = s.walkWaits c ia := rfl

theorem State.span_landings (c : Ctx) (ia n : Nat) : State.span { s with landings := ls } c ia n = s.span c ia n := by
  simp only [State.span, State.walk_landings, State.walkWaits_landings]

theorem State.lineWaits_landings (c ia : Nat) (l : Leaf) : State.lineWaits { s with landings := ls } c ia l = s.lineWaits c ia l := rfl

theorem State.piecesWait_landings (c : Nat) (ps : List Piece) :
    State.piecesWait { s with landings := ls } c ps = s.piecesWait c ps := by
  simp only [State.piecesWait, State.lineWaits_landings]

theorem State.portFenced_landings (c : Nat) : State.portFenced { s with landings := ls } c = s.portFenced c := rfl

@[simp] theorem State.landAt_landings (c : Ctx) (r : Range) (off w : Nat) (b : Bool) :
    State.landAt { s with landings := ls } c r off w b = s.landAt c r off w b := by
  unfold State.landAt
  simp only [State.span_landings, State.piecesWait_landings, State.portFenced_landings]

end

section
variable {s : State}

/-- An error for a destination milestone that stands lands there (17 R317, R324). -/
theorem exec_remoteLanding_void {n : Nat} {x : Arrived} {c : Ctx} {rg : Range} {e : Nat} {ps : List Piece}
    (hx : s.landings[n]? = some x) (hw : x.waits = []) (hm : s.mayLand n x = true) (hj : s.jobRange x.part = some (c, rg))
    (hop : x.body.op = .void e) (he : e ≠ 0) (hacks : x.body.acks = []) (ho : x.body.msOff ≠ 0) (h64 : x.body.msOff % 64 = 0)
    (hps : s.landAt c rg x.body.msOff 64 true = .ok ps) (hk : ∀ q ∈ ps, 2 ≤ q.leaf.kind) :
    exec (.remoteLanding n none) s =
      .next (State.updLoc { s with landings := s.landings.eraseIdx n } c.no 0 (.mem c.no (iaOf ps)) (.fail e)) := by
  have hkind : ¬ (decide (x.body.msOff % 64 ≠ 0) || ps.any fun p => decide (p.leaf.kind < 2)) = true := by
    rw [h64]
    simpa using fun q hq => Nat.lt_of_succ_le (hk q hq)
  have hms : State.landMs { s with landings := s.landings.eraseIdx n } c rg x.body 0 e =
      (State.updLoc { s with landings := s.landings.eraseIdx n } c.no 0 (.mem c.no (iaOf ps)) (.fail e), e) := by
    rw [State.landMs, if_neg ho, State.landAt_landings, hps]
    dsimp only
    rw [if_neg hkind, if_neg he]
  have hstore : s.landStore n x c rg =
      State.updLoc { s with landings := s.landings.eraseIdx n } c.no 0 (.mem c.no (iaOf ps)) (.fail e) := by
    rw [State.landStore]
    simp [hop, ho, hps, he, hms, RemPieces, opError, failOf, missOf, movingOf, State.landPieces, isSegment, State.sendAcks, hacks]
  have hland : s.land n x = s.landStore n x c rg := by
    rw [State.land, hj]
    simp only [hop]
  rw [exec_remoteLanding, execRemoteLanding, hx]
  dsimp only
  rw [if_pos (by rw [hw, hm]; rfl), hland, hstore]

end

/-- Settles O39: the ends of groups, teams and launches by their steps, and each remote end by its rule above. -/
theorem endsOfWork : Obligations.EndsOfWork := by
  unfold Obligations.EndsOfWork
  refine ⟨fun s g t l c => ⟨fun hg hd => ?release, fun ht hd => ⟨fun hp => ?retire, fun m ms hp => ?lacks⟩,
    fun hl hd h0 => ?launch, fun body ht hst => ?abort, fun ht hc hd => ⟨fun hb => ?bad, fun fs s1 hb hn => ?image,
      fun hb hn => ?pool⟩⟩,
    fun s n p a w r l rd => ⟨fun ha hw hs => ?ack, fun x ha hw hs => ?stale, fun t hw ht hn hr hs => ?silence,
      fun hw h => ?awaited, fun ha hn => ?unawaited, fun ty g1 ms cl addrs u hr hl hk hs => ?response,
      fun ty g1 ms cl addrs u hl hk hu => exec_remoteTimeout_at hl hk hu, fun hr hu hw => ⟨?round, fun part f hp hf => ?fails⟩,
      fun hr h => ?pending, fun x c rg e ps hx hw hm hj hop he ha ho h64 hps hk =>
        exec_remoteLanding_void hx hw hm hj hop he ha ho h64 hps hk⟩⟩
  case release =>
    rw [exec_groupRelease, execGroupRelease, hg]
    exact if_neg (by rw [hd]; decide)
  case retire =>
    rw [exec_teamRetire_due ht hd, hp]
    rfl
  case lacks =>
    rw [exec_teamRetire_due ht hd, hp]
    rfl
  case launch =>
    intro err free upd s1 s2
    rw [exec_launchRetire_done hl hd]
    refine ⟨fun hf hf1 => ?_, fun ms hr hm => ?_, fun ms hf hr hm => ?_⟩
    · exact congrArg Host.Outcome.next ((State.retireLaunch_donems h0 (State.retireStep_free hf _)).trans
        (State.retireLaunch_resolves (l := { l with step := 2 }) (n := 0) rfl
          (State.retireStep_free (s := s1) (l := { l with step := 2 }) hf1 _)))
    · exact congrArg Host.Outcome.next (State.retireLaunch_donems_waits h0 (State.retireStep_miss hr hm _))
    · exact congrArg Host.Outcome.next ((State.retireLaunch_donems h0 (State.retireStep_free hf _)).trans
        (State.retireLaunch_resolves_waits (l := { l with step := 2 }) (n := 1) rfl
          (State.retireStep_miss (s := s1) (l := { l with step := 2 }) hr hm _)))
  case abort =>
    rw [exec_abortDiscardDone, execAbortDiscardDone, ht]
    dsimp only
    rw [hst]
  case bad =>
    rw [exec_switchOutComplete_due ht hc hd]
    exact if_pos hb
  case image =>
    rw [exec_switchOutComplete_due ht hc hd, if_neg (ne_true_of_eq_false hb), hn]
  case pool =>
    rw [exec_switchOutComplete_due ht hc hd, if_neg (ne_true_of_eq_false hb), hn]
  case ack =>
    rw [exec_ackArrival_at ha]
    exact congrArg _ (State.ackAt_awaited (s := { s with acks := s.acks.eraseIdx n }) hw hs)
  case stale =>
    rw [exec_ackArrival_at ha]
    exact congrArg _ (State.ackAt_stale (s := { s with acks := s.acks.eraseIdx n }) hw hs)
  case silence =>
    have ho : s.overdue w = true := by simp [State.overdue, hn, ht, hr, hs]
    rw [exec_acknowledgementTimeout_at hw ho]
    simp only [List.isEmpty_iff]
  case awaited =>
    rw [exec_acknowledgementTimeout, execAcknowledgementTimeout, hw]
    exact if_pos (by rw [State.overdue_not h]; rfl)
  case unawaited =>
    rw [exec_ackArrival_at ha]
    exact congrArg _ (State.ackAt_unawaited (s := { s with acks := s.acks.eraseIdx n }) hn)
  case response =>
    intro s1 lanes fails
    rw [exec_remoteResponse_at hr, State.response_awaited (s := { s with resps := s.resps.eraseIdx n }) hl hk hs]
    refine ⟨fun h0 => ?_, fun h4 => ?_, fun x h0 h4 hx => ?_⟩
    · rw [if_pos h0]
    · rw [if_neg (by rw [h4]; decide), if_pos h4, if_pos h4]
    · rw [if_neg h0, if_neg h4, if_neg h4, hx]
      rfl
  case round =>
    rw [exec_roundTimeout, execRoundTimeout, hr]
    exact if_neg (by rw [hw, Bool.or_false, decide_eq_true_eq]; exact Nat.not_lt.mpr hu)
  case fails =>
    rw [State.roundFails, hf]
    dsimp only
    rw [hp]
  case pending =>
    rw [exec_roundTimeout, execRoundTimeout, hr]
    exact if_pos (by simpa using h)

end Sys2Proof.Machine
end

section
/-! O40: pages that move, lines that leave, ordered contributions. -/

namespace Sys2Proof.Machine

section
variable {s : State} {n : Nat}

/-! Migrations and tier moves (11 R196, R214, R215). -/

/-- A page whose requester's pool is empty stays. -/
theorem State.movePage_stays {m : Migration} {c : Ctx} {l : Leaf} (hc : s.ctx? m.ctx = some c) (hw : s.walk c m.page = .ok l)
    (hlp : isLp l.frame = false)
    (hf : State.takeFrame { s with migrations := s.migrations.filter fun x => !(x.ctx = m.ctx && x.page = m.page) } c
      (hbmPool (s.posOf m.cluster)) = none) :
    s.movePage m = { s with migrations := s.migrations.filter fun x => !(x.ctx = m.ctx && x.page = m.page) } := by
  rw [State.movePage, hc]
  dsimp only
  rw [hw]
  dsimp only
  rw [if_neg (ne_true_of_eq_false hlp), hf]

/-- A page moves to a frame of its requester's pool. -/
theorem State.movePage_moves {m : Migration} {c : Ctx} {l : Leaf} {f : Nat} {s1 : State} (hc : s.ctx? m.ctx = some c)
    (hw : s.walk c m.page = .ok l) (hlp : isLp l.frame = false)
    (hf : State.takeFrame { s with migrations := s.migrations.filter fun x => !(x.ctx = m.ctx && x.page = m.page) } c
      (hbmPool (s.posOf m.cluster)) = some (f, s1)) :
    s.movePage m =
      let s2 := (((s1.copyFrame l.frame f).copyPoison l.frame f).writeLeaf { l with frame := f }).freeFrame m.ctx l.frame
      { s2 with counters := s2.counters.filter fun x => !(x.1.1 = m.ctx && x.1.2.2 = m.page) } := by
  rw [State.movePage, hc]
  dsimp only
  rw [hw]
  dsimp only
  rw [if_neg (ne_true_of_eq_false hlp), hf]

/-- The migration that ends. -/
theorem exec_pageMigration_at {m : Migration} (h : s.migrations[n]? = some m) :
    exec (.pageMigration n) s = .next (s.migrate m) := by
  rw [exec_pageMigration, execPageMigration, h]

/-- The first page of a tier move that can be moved: it is shared, uncorrectable, without a frame to go to, or moves. -/
theorem exec_tierPageMove_at {t : Tier} {page : Nat} {rest : List Nat} {c : Ctx} {l : Leaf}
    (h : (s.tiers.filter fun t => !t.pages.isEmpty)[n]? = some t) (hp : t.pages = page :: rest) (hc : s.ctx? t.ctx = some c)
    (hw : s.walk c page = .ok l) (h3 : l.kind ≠ 3) (hlp : isLp l.frame ≠ t.lp) (hm : s.migrating t.ctx page = false) :
    exec (.tierPageMove n) s = .next (
      if l.kind = 1 then s.setTier { t with pages := [], err := 2 }
      else if s.badMem l.frame 65536 then s.setTier { t with pages := [], err := 4 }
      else
        match s.takeFrame c (if t.lp then lpPool else hbmPool (s.posOf l.home)) with
        | none => s.setTier { t with pages := [], err := 6 }
        | some (f, s1) =>
          (((s1.copyFrame l.frame f).writeLeaf { l with frame := f }).freeFrame t.ctx l.frame).setTier
            { t with pages := rest }) := by
  have hskip : ¬ (decide (l.kind = 3) || decide (isLp l.frame = t.lp)) = true := by simp [h3, hlp]
  have hm' : ¬ s.migrating t.ctx page = true := ne_true_of_eq_false hm
  rw [exec_tierPageMove, execTierPageMove, h]
  dsimp only
  rw [State.tierPage, hp, hc]
  dsimp only
  rw [hw]
  exact congrArg _ ((if_neg hskip).trans (if_neg hm'))

/-- The n-th move that has no page left ends. -/
theorem exec_tierComplete_at {t : Tier} {s2 : State} (h : (s.tiers.filter fun t => t.pages.isEmpty && t.waits.isEmpty)[n]? = some t)
    (hf : State.finishAt { s with tiers := s.tiers.filter fun x => x.id ≠ t.id } t.ctx t.task t.cluster t.ms t.bytes t.err
      (fun e => engineReport t.ctx 3 e 0 0 0 t.task t.ms (s.posOf t.cluster)) = some s2) :
    exec (.tierComplete n) s = .next s2 := by
  rw [exec_tierComplete, execTierComplete, h]
  dsimp only
  rw [hf]

/-- An engine's end at a milestone that stands. -/
theorem State.finishAt_there {ctx cluster bytes err : Nat} {task ms : W64} {rep : Nat → Report} {loc : Loc} (h0 : ms ≠ 0)
    (h : s.mref ctx cluster ms = .ok loc) :
    s.finishAt ctx task cluster ms bytes err rep =
      some (s.updRef ctx task cluster ms (if err = 0 then .done bytes else .fail err)) := by
  rw [State.finishAt, if_neg h0, h]

/-! Ordered contributions (11 R207, R208). -/

/-- One that no earlier one of its group holds up reaches its slice. -/
theorem exec_atomoArrival_at {o : Ordered} (h : (s.ordered.filter fun o => o.st = .sent)[n]? = some o)
    (hb : s.orderedBehind o = false) : exec (.atomoArrival n) s = .next (s.arriveOrdered o) := by
  rw [exec_atomoArrival, execAtomoArrival, h]
  exact if_neg (ne_true_of_eq_false hb)

section
variable {o : Ordered} {home slice : Nat} {ps : List Piece} (hc : s.cellHome o = some (home, slice, ps))
  (hb : s.piecesBad o.gid.ctx ps = false)
include hc hb

/-- One whose rank its cell has not is discarded and reported. -/
theorem State.arriveOrdered_beyond (h0 : nat8 (s.readPieces o.gid.ctx ps) 12 4 ≠ 0)
    (hr : nat8 (s.readPieces o.gid.ctx ps) 12 4 ≤ o.rank.toNat) :
    s.arriveOrdered o = (s.dropOrdered o.id).reportCtx o.gid.ctx (discardReport o.gid.ctx 1 o.gid.task o.ia) := by
  rw [State.arriveOrdered, hc]
  dsimp only
  rw [if_neg (ne_true_of_eq_false hb), if_pos (by simp [h0, hr])]

/-- One whose rank comes next is applied, with those that waited for it. -/
theorem State.arriveOrdered_next
    (hr : nat8 (s.readPieces o.gid.ctx ps) 12 4 = 0 ∨ o.rank.toNat < nat8 (s.readPieces o.gid.ctx ps) 12 4)
    (hn : o.rank.toNat = nat8 (s.readPieces o.gid.ctx ps) 8 4) :
    s.arriveOrdered o = ((s.dropOrdered o.id).applyOrdered ps o).drainOrdered ps o.gid.ctx o.ia
      ((s.dropOrdered o.id).applyOrdered ps o).ordered.length := by
  rw [State.arriveOrdered, hc]
  dsimp only
  rw [if_neg (ne_true_of_eq_false hb), if_neg (by simp only [Bool.and_eq_true, decide_eq_true_eq]; omega), if_pos hn]

/-- A later one is buffered where its slice has room. -/
theorem State.arriveOrdered_later
    (hr : nat8 (s.readPieces o.gid.ctx ps) 12 4 = 0 ∨ o.rank.toNat < nat8 (s.readPieces o.gid.ctx ps) 12 4)
    (hn : o.rank.toNat ≠ nat8 (s.readPieces o.gid.ctx ps) 8 4)
    (hroom : (s.ordered.filter fun x => x.st = .buffered && x.cluster = home && x.slice = slice).length < Config.orderedEntries) :
    s.arriveOrdered o = { s with ordered := (s.ordered.filter fun x => x.id ≠ o.id)
      ++ [{ o with st := .buffered, cluster := home, slice }] } := by
  rw [State.arriveOrdered, hc]
  dsimp only
  rw [if_neg (ne_true_of_eq_false hb), if_neg (by simp only [Bool.and_eq_true, decide_eq_true_eq]; omega), if_neg hn,
    if_neg (Nat.not_le.mpr hroom)]

end

end

/-- Settles O40, each clause by what ends, leaves or arrives. -/
theorem memorySteps : Obligations.MemorySteps := by
  unfold Obligations.MemorySteps
  intro s n m t e o c l ps
  refine ⟨?migrates, fun page rest f s1 ht hp hc hw h3 hlp hm => ?moves, ?completes, fun s1 he hev hleft => ?leaves,
    fun he hev => ?stays, fun home slice ho hcell => ⟨fun hb => ?behind, ?arrives⟩, fun ho => ?resent⟩
  case migrates =>
    intro hm hc s0 ends hw hlp
    rw [exec_pageMigration_at hm, State.migrate]
    refine ⟨fun hf => ?_, fun f s1 hf => ?_⟩
    · rw [State.movePage_stays hc hw hlp hf]
    · rw [State.movePage_moves hc hw hlp hf]
  case moves =>
    rw [exec_tierPageMove_at ht hp hc hw h3 hlp hm]
    refine ⟨fun h1 => ?_, fun h1 hb => ?_, fun h1 hb hf => ?_, fun h1 hb hf => ?_⟩
    · rw [if_pos h1]
    · rw [if_neg h1, if_pos hb]
    · rw [if_neg h1, if_neg (ne_true_of_eq_false hb), hf]
    · rw [if_neg h1, if_neg (ne_true_of_eq_false hb), hf]
  case completes =>
    intro ht s1
    refine ⟨fun h0 he => exec_tierComplete_at ht ?_, fun loc h0 hl => exec_tierComplete_at ht (State.finishAt_there h0 hl)⟩
    rw [State.finishAt]
    exact (if_pos h0).trans (congrArg some (if_pos he))
  case leaves =>
    rw [exec_emberLineEvict, execEmberLineEvict, he]
    dsimp only
    rw [if_pos hev, State.leaveEmber, hleft]
  case stays =>
    rw [exec_emberLineEvict, execEmberLineEvict, he]
    exact if_neg (ne_true_of_eq_false hev)
  case behind =>
    rw [exec_atomoArrival, execAtomoArrival, ho]
    exact if_pos hb
  case arrives =>
    intro hbad hb cell
    rw [exec_atomoArrival_at ho hb]
    exact ⟨fun h0 hr => congrArg _ (State.arriveOrdered_beyond hcell hbad h0 hr),
      fun hr hn => congrArg _ (State.arriveOrdered_next hcell hbad hr hn),
      fun hr hn hroom => congrArg _ (State.arriveOrdered_later hcell hbad hr hn hroom)⟩
  case resent => rw [exec_atomoResend, execAtomoResend, ho]

end Sys2Proof.Machine
end

section
/-! O41: starts and copies of the block transfer engines. -/

namespace Sys2Proof.Machine

section
variable {s : State} {n cluster channel u : Nat} {b : Bool} {x : Start} {y : Copy} {c : Ctx}

/-! Starts (13 R257, R263). -/

/-- A start is a copy from now on. -/
def State.begun (s : State) (x : Start) : State :=
  { s with
    starts := s.starts.filter fun y => y.id ≠ x.id
    copies := s.copies ++ [{ id := x.id, start := x, row := 0, sent := 0, waits := [], err := 0 }] }

/-- The milestone of a start stands where its channel can reach it, or none is named. -/
def State.StartOpen (s : State) (cluster : Nat) (x : Start) : Prop :=
  x.t.ms = 0 ∨ ∃ loc, s.mref x.ctx cluster x.t.ms = .ok loc ∧ s.locUnreached cluster loc = false

/-- A stream with room takes the position of a start's tile. -/
def State.reserve (s : State) (x : Start) : State :=
  s.setUnit x.gunit ((s.munit x.gunit).setStream x.t.streamB ((s.munit x.gunit).stream x.t.streamB ++
    [{ ctx := x.ctx, copy := x.id, esize := x.t.esize, bytes := [], whole := false, entered := false }]))

/-- What a channel does with a start that nothing holds up: it fails, begins, or waits for its stream. -/
theorem exec_copyBegin_open (hx : s.starts.find? (fun t => t.cluster = cluster && t.channel = channel && t.st = .queued) = some x)
    (hw : x.waits = []) (ho : s.StartOpen cluster x) :
    exec (.copyBegin cluster channel) s =
      if x.misaligned then .next (s.failStart x 1)
      else if x.t.mode = 3 && x.vectorOnly then .next (s.failStart x 2)
      else if x.t.mode ≠ 3 then .next (s.begun x)
      else if s.fenced (unitCode cluster 3 x.t.unit) then .next s
      else if (s.munit x.gunit).heldByOther x.ctx || 4 ≤ ((s.munit x.gunit).stream x.t.streamB).length then .next s
      else .next ((s.reserve x).begun x) := by
  obtain ⟨loc, hr, hun⟩ : ∃ loc, (if x.t.ms = 0 then Ref.ok (.win cluster 0) else s.mref x.ctx cluster x.t.ms) = .ok loc ∧
      (decide (x.t.ms ≠ 0) && s.locUnreached cluster loc) = false := by
    by_cases h0 : x.t.ms = 0
    · exact ⟨_, if_pos h0, by simp [h0]⟩
    · obtain ⟨loc, hloc, hun⟩ := ho.resolve_left h0
      exact ⟨loc, (if_neg h0).trans hloc, by rw [hun, Bool.and_false]⟩
  have hw' : ¬ (!x.waits.isEmpty) = true := by simp [hw]
  rw [exec_copyBegin, execCopyBegin, hx]
  dsimp only
  rw [if_neg hw', hr]
  exact if_neg (ne_true_of_eq_false hun)

/-- A refused start that nothing holds up is offered again. -/
theorem exec_startResend_free (hx : (s.starts.filter fun t => t.st = .refused)[n]? = some x) (hb : s.startBehind x = false)
    (hq : s.queued x.cluster x.channel < Config.channelQueue) (hf : s.fenced (unitCode x.cluster 6 0) = false) :
    exec (.startResend n) s =
      .next (State.offer { s with starts := s.starts.filter fun y => y.id ≠ x.id } { x with st := .queued }) := by
  have hgo : ¬ (s.startBehind x || decide (Config.channelQueue ≤ s.queued x.cluster x.channel) ||
      s.fenced (unitCode x.cluster 6 0)) = true := by
    simp [hb, hf, hq]
  rw [exec_startResend, execStartResend, hx]
  exact if_neg hgo

/-! Copies (13 R260 to R263). -/

/-- A row that can be read and written lands. -/
theorem exec_copyRowLanded_lands {bs : List Byte} {s1 s2 : State} (hy : (s.running false)[n]? = some y)
    (hc : s.ctx? y.start.ctx = some c) (h3 : y.start.t.mode ≠ 3) (hr : s.rowRead c y 0 y.start.t.rowb = .ok (bs, s1))
    (hcw : y.start.t.dstCw = false)
    (hw : s1.bteWrite c y.start.cluster (y.start.t.dstAt y.start.param y.row) bs = .ok s2) :
    exec (.copyRowLanded n) s =
      .next ((s2.setCopy { y with row := y.row + 1 }).markChunks { y with row := y.row + 1 }) := by
  rw [exec_copyRowLanded, execCopyRowLanded, hy]
  dsimp only
  rw [State.copyRow, hc]
  dsimp only
  rw [hr, State.withAcc]
  dsimp only
  rw [if_neg h3, if_neg (ne_true_of_eq_false hcw), hw, State.withAcc]

/-- The first tile of a stream that has not entered it does when it is whole. -/
theorem exec_tostreamTileEnter_whole {p : TilePos} {i : Nat} (hu : u < 128)
    (hi : ((s.munit u).stream b).findIdx? (fun p => !p.entered) = some i) (hp : ((s.munit u).stream b)[i]? = some p)
    (hw : p.whole = true) :
    exec (.tostreamTileEnter u b) s =
      .next (s.setUnit u ((s.munit u).setStream b (((s.munit u).stream b).set i { p with entered := true }))) := by
  have hgo : (decide (u < 128) && p.whole) = true := by simp [hu, hw]
  rw [exec_tostreamTileEnter, execTostreamTileEnter, hi]
  dsimp only
  rw [hp]
  exact if_pos hgo

/-- What a copy leaves behind when it is over. -/
def State.copyOver (s : State) (y : Copy) : State :=
  ((if y.start.remote.isSome then s else s.markChunks y).dropCopy y.id).armAcks y.id

/-- A copy that is over, and whose end is told. -/
theorem exec_copyComplete_told {s2 : State}
    (hy : (s.copies.filter fun x => x.waits.isEmpty && (x.err ≠ 0 || (x.row = x.start.t.count && s.tileIn x)))[n]? = some y)
    (hf : (s.copyOver y).finishAt y.start.ctx y.start.task y.start.cluster y.start.t.ms y.start.t.bytes y.err
      (fun e => s.copyReport y.start e) = some s2) :
    exec (.copyComplete n) s = .next s2 := by
  rw [exec_copyComplete, execCopyComplete, hy]
  dsimp only
  rw [show State.finishAt (State.armAcks (State.dropCopy (if y.start.remote.isSome = true then s else s.markChunks y) y.id) y.id)
    y.start.ctx y.start.task y.start.cluster y.start.t.ms y.start.t.bytes y.err (fun e => s.copyReport y.start e) = some s2 from hf]

end

/-- Settles O41, from what a channel does with its first start and what a copy does with its row and its end. -/
theorem engineSteps : Obligations.EngineSteps := by
  unfold Obligations.EngineSteps
  intro s n cluster channel u b x y c
  refine ⟨exec_startResend_free, ?starts, fun bs s1 s2 hy hc h3 hr hcw hw => exec_copyRowLanded_lands hy hc h3 hr hcw hw,
    fun p i hu hi hp hw => exec_tostreamTileEnter_whole hu hi hp hw, ?ends⟩
  case starts =>
    intro hx hw ho begun
    rw [exec_copyBegin_open hx hw ho]
    refine ⟨fun hm => if_pos hm, fun hm h3 hv => ?_, fun hm h3 => ?_, fun hm h3 hv hf hh hroom => ?_⟩
    · rw [if_neg (ne_true_of_eq_false hm), if_pos (by simp [h3, hv])]
    · rw [if_neg (ne_true_of_eq_false hm), if_neg (by simp [h3]), if_pos h3]
      rfl
    · rw [if_neg (ne_true_of_eq_false hm), if_neg (by simp [hv]), if_neg (not_not.mpr h3), if_neg (ne_true_of_eq_false hf),
        if_neg (by simp [hh, hroom])]
      rfl
  case ends =>
    intro hy s1
    refine ⟨fun h0 => exec_copyComplete_told hy ?_, fun loc h0 hl => exec_copyComplete_told hy (State.finishAt_there h0 hl)⟩
    rw [State.finishAt]
    exact if_pos h0

end Sys2Proof.Machine
end

section
/-! O42: allowance, segments, switches, links and assignments. -/

namespace Sys2Proof.Machine

section
variable {s : State} {n k : Nat}

/-! Allowance (17 R307). -/

/-- The hop that returns costs is one of the slot's; one that has passed nothing on is chosen only where none has, for its room. -/
theorem returnHop_spec {hs : List Credit} {i : Nat} (h : returnHop hs = some i) :
    ∃ c, hs[i]? = some c ∧
      (c.passed = 0 → (∀ x ∈ hs, x.passed = 0) ∧ ∀ x ∈ hs, c.grant - c.owed ≤ x.grant - x.owed) := by
  rw [returnHop, Option.or_eq_some_iff] at h
  obtain h | ⟨hnone, h⟩ := h
  · obtain ⟨hi, hp, -⟩ := List.findIdx?_eq_some_iff_getElem.mp h
    exact ⟨hs[i], List.getElem?_eq_getElem hi, fun h0 => absurd h0 (of_decide_eq_true hp).ne'⟩
  · obtain ⟨hi, hp, -⟩ := List.findIdx?_eq_some_iff_getElem.mp h
    refine ⟨hs[i], List.getElem?_eq_getElem hi, fun _ => ⟨fun x hx => ?_, fun x hx => ?_⟩⟩
    · have hx0 := List.findIdx?_eq_none_iff.mp hnone x hx
      simpa using hx0
    · exact of_decide_eq_true (List.all_eq_true.mp hp x hx)

/-- A bound slot's allowance is the least of 4,095 and what its hops have left. -/
theorem Ctx.allowance_least {c : Ctx} {hs : List Credit} (hh : c.credits[k]? = some hs) (hb : (c.binding? k).isSome = true) :
    (4095 :: hs.map fun h => h.grant - h.owed).min? = some (c.allowance k) := by
  rw [List.min?_cons', Ctx.allowance, if_pos hb, List.getD_eq_getElem?_getD, hh]
  rfl

/-- A hop of a bound slot of the job context returns its costs. -/
theorem exec_allowanceReturn_bound {c : Ctx} {units : Nat} (hc : s.ctx? c.no = some c) (hb : (c.binding? k).isSome = true)
    (hj : s.jobCtx c.part = some c.no) (hst : c.st ≠ .saved) :
    exec (.allowanceReturn c.no k units) s =
      .next (s.updCtx c.no fun c => { c with credits := c.credits.modify k (giveBack units) }) := by
  have hgo : ((c.binding? k).isSome && decide (s.jobCtx c.part = some c.no) && decide (c.st ≠ .saved)) = true := by
    simp [hb, hj, hst]
  rw [exec_allowanceReturn, execAllowanceReturn, hc]
  exact if_pos hgo

/-! Remote copies (17 R323). -/

/-- A segment that does not end its row is sent where its slot has the units. -/
theorem State.segment_sends {x : Copy} {b : Binding} {c : Ctx} {r : Range} {bs : List Byte} {s1 : State}
    (hc : s.ctx? x.start.ctx = some c) (hr : s.fabricRange c = some r)
    (hcov : r.covers (x.start.t.dstAt x.start.param x.row).toNat = true)
    (hlim : (x.start.t.dstAt x.start.param x.row).toNat + x.start.t.rowb - 1 ≤ r.limit.toNat)
    (hcost : (min 65536 (x.start.t.rowb - x.sent) + 255) / 256 ≤ c.allowance k)
    (hrd : s.rowRead c x x.sent (min 65536 (x.start.t.rowb - x.sent)) = .ok (bs, s1))
    (hend : x.sent + min 65536 (x.start.t.rowb - x.sent) ≠ x.start.t.rowb) :
    s.segment x k b =
      ((s1.updCtx c.no fun c => c.deduct k ((min 65536 (x.start.t.rowb - x.sent) + 255) / 256)).send c.part (s.place c.part) b
        ((min 65536 (x.start.t.rowb - x.sent) + 255) / 256)
        (mkBody s1 (s.place c.part) k b
          (.segment ((x.start.t.dstAt x.start.param x.row).toNat - r.base.toNat + x.sent) bs none) [] x.id)).setCopy
        { x with sent := x.sent + min 65536 (x.start.t.rowb - x.sent) } := by
  have hin : ¬ (!(r.covers (x.start.t.dstAt x.start.param x.row).toNat &&
      decide ((x.start.t.dstAt x.start.param x.row).toNat + x.start.t.rowb - 1 ≤ r.limit.toNat))) = true := by
    rw [hcov, decide_eq_true hlim]
    decide
  rw [State.segment, hc]
  dsimp only
  rw [hr]
  dsimp only
  rw [if_neg hin, if_neg (Nat.not_lt.mpr hcost), hrd, State.withAcc]
  dsimp only
  rw [decide_eq_false hend, if_neg hend]
  rfl

/-! Switches and links (17 R326, R328). -/

/-- A copy that no earlier one holds up takes its next hop; else it waits. -/
theorem exec_switchCopy_at {f : FCopy} (h : s.fcopies[n]? = some f) :
    exec (.switchCopy n none) s = if s.mayMove f then .next (s.hop n f) else .next s := by
  rw [exec_switchCopy, execSwitchCopy, h]

/-- What a link becomes. -/
theorem State.updLink_at {l : Link} (h : s.links[n]? = some l) (f : Link → Link) :
    s.updLink n f = { s with links := s.links.set n (f l) } := by
  rw [State.updLink, h]

/-- A fit assignment gives the partition its place, and its contexts their credit. -/
theorem exec_fabricManagerAssignment_fit {a : Assignment} (hp : a.part < s.places.length) (ho : assignmentOk a = true)
    (hf : s.assignmentFits a = true) :
    ∃ t, exec (.fabricManagerAssignment a) s = .next t ∧
      t.places = s.places.set a.part
        { coord := a.coord, sizes := a.sizes, job := a.jobCtx, jobNo := a.job, switches := a.switches, attach := a.attach } ∧
      t.mem = s.mem ∧ t.groups = s.groups ∧ t.ctxs.map (·.no) = s.ctxs.map (·.no) := by
  have hgo : ¬ (decide (s.places.length ≤ a.part) || !assignmentOk a || !s.assignmentFits a) = true := by
    simp [hp, ho, hf]
  rw [exec_fabricManagerAssignment, execFabricManagerAssignment]
  refine ⟨_, if_neg hgo, rfl, rfl, rfl, ?_⟩
  refine (List.map_map ..).trans (List.map_congr_left fun c _ => ?_)
  dsimp only [Function.comp]
  split <;> rfl

end

/-- Settles O42, each clause by its own rule. -/
theorem fabricSteps : Obligations.FabricSteps := by
  unfold Obligations.FabricSteps
  intro s n k units c f ct x b l a
  refine ⟨fun hc hb hj hst => ?returns, fun hs i h => returnHop_spec h, fun hs hk hh hb => ?least, fun r bs s1 hx hrem hc hr => ?segment,
    fun hf hm => ?moves, fun hf hm => ?stays, rfl, fun lane hl hin h8 => ?spares, fun job coord key hl => ?rejoins,
    fun cor mar hl => ?samples, fun hp ho hf => exec_fabricManagerAssignment_fit hp ho hf⟩
  case returns =>
    rw [exec_allowanceReturn_bound hc hb hj hst]
    rfl
  case least =>
    obtain ⟨hmem, hle⟩ := List.min?_eq_some_iff.mp (Ctx.allowance_least hh hb)
    refine ⟨hle _ List.mem_cons_self, fun h hin => hle _ (List.mem_cons_of_mem _ (List.mem_map_of_mem hin)), ?_⟩
    obtain h | h := List.mem_cons.mp hmem
    · exact .inl h
    · obtain ⟨y, hy, he⟩ := List.mem_map.mp h
      exact .inr ⟨y, hy, he.symm⟩
  case segment =>
    intro t d m cost hcov hlim hcost hrd hend
    rw [exec_rcopySegment, execRcopySegment, hx]
    dsimp only
    rw [hrem]
    exact congrArg _ (State.segment_sends hc hr hcov hlim hcost hrd hend)
  case moves => rw [exec_switchCopy_at hf, if_pos hm]
  case stays => rw [exec_switchCopy_at hf, if_neg (ne_true_of_eq_false hm)]
  case spares =>
    rw [exec_laneSparing, execLaneSparing, State.updLink_at hl, if_pos (by rw [hin, h8]; rfl)]
  case rejoins =>
    intro ours acks resps landings
    rw [exec_peerRejoin, execPeerRejoin]
    exact congrArg _ (State.updLink_at (s := { s with
      acks, resps, landings
      rejoins := (s.rejoins.filter fun r => !(r.job = job && r.coord = coord)) ++ [{ job, coord, below := s.tick + 1, link := n }]
      rounds := s.rounds.map (fun r =>
        if r.first.job = job && !(r.parts.any fun c => c.origin.src = coord) then { r with lost := r.lost ++ [coord] } else r) }) hl _)
  case samples =>
    rw [exec_marginSampling, execMarginSampling, State.updLink_at hl]

end Sys2Proof.Machine
end

section
/-! O43: operations land. -/

namespace Sys2Proof.Machine

section
variable {s : State} {n : Nat} {a : Arrived} {c : Ctx} {r : Range} {ps : List Piece} {off L w : Nat}

/-- An operation that waits for nothing and that nothing holds up lands. -/
theorem exec_remoteLanding_free (ha : s.landings[n]? = some a) (hw : a.waits = []) (hm : s.mayLand n a = true) :
    exec (.remoteLanding n none) s = .next (s.land n a) := by
  have hgo : (a.waits.isEmpty && s.mayLand n a) = true := by rw [hw, hm]; rfl
  rw [exec_remoteLanding, execRemoteLanding, ha]
  exact if_pos hgo

/-- A store lands as a store of the job's context. -/
theorem State.land_store {pieces : List (Nat × List Byte)} (hj : s.jobRange a.part = some (c, r))
    (hop : a.body.op = .store pieces) : s.land n a = s.landStore n a c r := by
  rw [State.land, hj]
  simp only [hop]

section
variable {bs : List Byte} (hop : a.body.op = .store [(off, bs)]) (h0 : a.body.msOff = 0)
include hop h0

/-- A sector whose place passes its check and has room is stored whole, and acknowledged. -/
theorem State.landStore_ok {s1 : State} (hps : s.landAt c r off bs.length true = .ok ps)
    (hroom : State.roomFor { s with landings := s.landings.eraseIdx n } c.no ps = .ok s1) :
    s.landStore n a c r = (s1.iaWrite c (iaOf ps) bs).sendAcks a.body 0 := by
  rw [State.landStore]
  simp [hop, h0, hps, hroom, RemPieces, opError, failOf, missOf, movingOf, State.landPieces, isSegment, State.landMs]

/-- One whose place fails its check stores nothing and answers the error. -/
theorem State.landStore_fail {e : Nat} (he : e ≠ 0) (hps : s.landAt c r off bs.length true = .fail e) :
    s.landStore n a c r = State.sendAcks { s with landings := s.landings.eraseIdx n } a.body e := by
  rw [State.landStore]
  simp [hop, h0, hps, he, RemPieces, opError, failOf, missOf, movingOf, State.landPieces, isSegment, State.landMs]

/-- One whose page is missing waits for it. -/
theorem State.landStore_miss {ms : List (Miss × Bool)} (hne : ms ≠ []) (hps : s.landAt c r off bs.length true = .miss ms) :
    s.landStore n a c r = s.landWait n a c.no ms := by
  rw [State.landStore]
  simp [hop, h0, hps, hne, RemPieces, opError, failOf, missOf]

end

/-- A read of one lane answers its bytes, or that they are uncorrectable. -/
theorem State.land_load (hj : s.jobRange a.part = some (c, r)) (hop : a.body.op = .load w [(L, off)])
    (hps : s.landAt c r off w false = .ok ps) :
    s.land n a =
      if s.piecesBad c.no ps then State.respond { s with landings := s.landings.eraseIdx n } a.body 4 [(L, 0)]
      else (State.servesOwn { s with landings := s.landings.eraseIdx n } a.body).respond a.body 0
        [(L, BitVec.ofNat 64 (leNat (s.readPieces c.no ps)))] := by
  rw [State.land, hj]
  by_cases hb : s.piecesBad c.no ps = true
  · simp [hop, hps, hb, missOf, movingOf, respErr]
  · simp [hop, hps, hb, missOf, movingOf]

/-- An atomic of one lane at a place that passes its check and has room. -/
theorem State.landAtom_ok {fn : AtomFn} {ty : Ty} {x : Nat} {s1 : State} (hps : s.landAt c r off (ty.bits / 8) true = .ok ps)
    (hb : s.piecesBad c.no ps = false) (hroom : s.roomFor c.no ps = .ok s1) :
    s.landAtom c r fn ty L off x =
      .ok [(L, BitVec.ofNat 64 (leNat (s1.readPieces c.no (s1.span c (iaOf ps) (ty.bits / 8)).pieces)))] []
        (s1.writePieces c.no (s1.span c (iaOf ps) (ty.bits / 8)).pieces
          (leBytes (ty.bits / 8) (atomNew fn ty (leNat (s1.readPieces c.no (s1.span c (iaOf ps) (ty.bits / 8)).pieces)) x))) := by
  rw [State.landAtom]
  dsimp only
  rw [hps]
  dsimp only
  rw [if_neg (ne_true_of_eq_false hb), hroom]

/-- An RATOM of one lane answers the old value, stores the new one, and is acknowledged. -/
theorem State.land_atom {fn : AtomFn} {ty : Ty} {x y : W64} {s1 : State} (hj : s.jobRange a.part = some (c, r))
    (hop : a.body.op = .atom fn ty [(L, off, x, y)]) (hps : s.landAt c r off (ty.bits / 8) true = .ok ps)
    (hb : s.piecesBad c.no ps = false)
    (hroom : State.roomFor { s with landings := s.landings.eraseIdx n } c.no ps = .ok s1) :
    s.land n a =
      let now := (s1.span c (iaOf ps) (ty.bits / 8)).pieces
      let old := leNat (s1.readPieces c.no now)
      (((s1.writePieces c.no now
        (leBytes (ty.bits / 8) (atomNew fn ty old (x.toNat + 2 ^ ty.bits * y.toNat)))).servesOwn a.body).respond
          a.body 0 [(L, BitVec.ofNat 64 old)]).sendAcks a.body 0 := by
  have hatom := State.landAtom_ok (s := { s with landings := s.landings.eraseIdx n }) (L := L) (fn := fn)
    (x := x.toNat + 2 ^ ty.bits * y.toNat) ((State.landAt_landings ..).trans hps) hb hroom
  rw [State.land, hj]
  simp [hop, hps, hb, missOf, movingOf, State.landAtoms, hatom, respErr]

/-- An operation that the device answers to itself leaves no old line in the L1 of its load's core. -/
theorem State.servesOwn_of_load {l : Load} {b : Landing} (hl : s.loads.find? (fun l => l.id = b.tag && l.kind.isRemote) = some l) :
    s.servesOwn b = if b.origins.any (fun o => o.src = b.dst) then
      s.dropL1 (fun y => .core y.core = s.siteOf l.gid && !y.coherent) else s := by
  have hl' : (s.loads.find? fun x => x.id = b.tag && match x.kind with | .remote .. => true | _ => false) = some l := hl
  rw [State.servesOwn]
  split
  next x hx =>
    cases hx.symm.trans hl'
    rfl
  next hn => exact absurd (hn.symm.trans hl') nofun

end

/-- Settles O43, from what each kind of operation does when it lands. -/
theorem operationsLand : Obligations.OperationsLand := by
  unfold Obligations.OperationsLand
  intro s n a c r ps off L w bs fn ty x y ha hw hm h0 gone hj
  rw [exec_remoteLanding_free ha hw hm]
  refine ⟨fun hop => ⟨fun s1 hps hroom => ?stored, fun e he hps => ?fails, fun ms hne hps => ?misses⟩,
    fun hop hps => ⟨fun hb => ?reads, fun hb => ?bad⟩, fun s1 hop hps hb hroom => ?atomic, fun t l hl => State.servesOwn_of_load hl⟩
  case stored => rw [State.land_store hj hop, State.landStore_ok hop h0 hps hroom]
  case fails => rw [State.land_store hj hop, State.landStore_fail hop h0 he hps]
  case misses =>
    rw [State.land_store hj hop, State.landStore_miss hop h0 hne hps]
    rfl
  case reads => rw [State.land_load hj hop hps, if_neg (ne_true_of_eq_false hb)]
  case bad => rw [State.land_load hj hop hps, if_pos hb]
  case atomic => exact congrArg _ (State.land_atom hj hop hps hb hroom)

end Sys2Proof.Machine
end

section
/-! O44: pre-emption, saves and restores. -/

namespace Sys2Proof.Machine

section
variable {s : State} {i : Nat} {m : Msg} {c : Ctx}

/-- A message for a context that its function owns does its work. -/
theorem State.withOwned_at {type : Nat} (hm : s.headMsg i type = some m) (ho : s.owned i m = some c) (k : Msg → Ctx → State) :
    s.withOwned i type k = .next (k m c) := by
  rw [State.withOwned, hm]
  dsimp only
  rw [ho]

/-- One for a context that it does not own is a fault. -/
theorem State.withOwned_none {type : Nat} (hm : s.headMsg i type = some m) (ho : s.owned i m = none) (k : Msg → Ctx → State) :
    s.withOwned i type k = .next (s.msgFault i m 4) := by
  rw [State.withOwned, hm]
  dsimp only
  rw [ho]

/-- A request whose deadline has passed. -/
theorem State.deadlinePassed_of {ctx : Nat} (hc : s.ctx? ctx = some c) (hp : c.prq = true) (hst : c.st = .resident)
    (hd : c.pdlAt ≤ s.now) : s.deadlinePassed ctx = true := by
  rw [State.deadlinePassed, hc]
  simp [hp, hst, hd]

/-- A save that is due begins with the ember lines. -/
theorem exec_contextSave_due {ctx : Nat} (hc : s.ctx? ctx = some c) (hd : s.saveDue c = true) :
    exec (.contextSave ctx) s =
      if (s.flushEmber (s.ember.filter fun e => e.ctx = ctx)).2 then
        .next ((s.flushEmber (s.ember.filter fun e => e.ctx = ctx)).1.finishSave c)
      else .next (((s.flushEmber (s.ember.filter fun e => e.ctx = ctx)).1.reportCtx ctx (missingReport ctx .ember false 0)).updCtx ctx
        fun c => { c with st := .saving }) := by
  have hgo : ¬ (!s.saveDue c) = true := by rw [hd]; decide
  rw [exec_contextSave, execContextSave, hc]
  exact if_neg hgo

/-- A RESTORE of a saved context by its own, formed record: refused on another partition while something binds it to its own, or
where its matrix state would meet. -/
theorem exec_restore_formed (hm : s.headMsg i 5 = some m) (hc : s.ctx? m.ctx = some c) (hst : c.st = .saved)
    (hno : nat8 (s.ctxRec m.addr.toNat) 0 2 = m.ctx) (hrec : ctxRecFault (s.ctxRec m.addr.toNat) (s.clusters i).length = none) :
    exec (.restore i) s =
      if c.bound && i ≠ c.part then .next ((s.popMsg i m).reportCtx c.no (refusedReport c.no 2 19 m.addr.toNat))
      else if s.unitsMeet c (s.clusters i).length then
        .next ((s.popMsg i m).reportCtx c.no (refusedReport c.no 2 20 m.addr.toNat))
      else .next ((s.popMsg i m).restoreCtx c i m.addr.toNat (s.ctxRec m.addr.toNat)) := by
  have hgo : ¬ (decide (c.st ≠ .saved) || decide (nat8 (s.ctxRec m.addr.toNat) 0 2 ≠ m.ctx)) = true := by simp [hst, hno]
  rw [exec_restore, execRestore, hm]
  dsimp only
  rw [hc]
  dsimp only
  rw [if_neg hgo, hrec]

end

/-- Settles O44, each message by what it does for a context that its function owns. -/
theorem preemptionMessages : Obligations.PreemptionMessages := by
  unfold Obligations.PreemptionMessages
  intro s i m c
  refine ⟨fun hm ho hc hst => ?preempts, fun hm ho hst => ?withdraws, fun ctx hc hp hst hd => ?deadline,
    fun ctx s1 hc hd => ⟨fun hf => ?saves, fun hf => ?lacks⟩, fun hm hc hst hno hrec => ?restores⟩
  case preempts =>
    rw [exec_preempt, execPreempt, State.withOwned_at hm ho]
    exact congrArg _ (if_neg hst)
  case withdraws =>
    rw [exec_unpreempt, execUnpreempt, State.withOwned_at hm ho]
    exact congrArg _ (if_neg hst)
  case deadline =>
    rw [exec_preemptDeadline, execPreemptDeadline, if_pos (State.deadlinePassed_of hc hp hst hd)]
  case saves =>
    rw [exec_contextSave_due hc hd, hf]
    rfl
  case lacks =>
    rw [exec_contextSave_due hc hd, hf]
    rfl
  case restores =>
    rw [exec_restore_formed hm hc hst hno hrec]
    refine ⟨fun hb hu => ?_, fun hb hne => if_pos (by simp [hb, hne])⟩
    have hstay : ¬ (c.bound && decide (i ≠ c.part)) = true := by
      obtain hb | hb := hb <;> simp [hb]
    rw [if_neg hstay, if_neg (ne_true_of_eq_false hu)]

end Sys2Proof.Machine
end

section
/-! O45: host messages, registers and writes. -/

namespace Sys2Proof.Machine

section
variable {s : State} {i : Nat} {m : Msg} {c : Ctx} {f : Fn}

/-! LAUNCH (03 R30, R35, R37). -/

/-- A LAUNCH that waits for nothing tries its record. -/
theorem exec_launchMessage_tries (hm : s.headMsg i 1 = some m) (ho : s.owned i m = some c) (hf : s.fns[i]? = some f)
    (hw : f.waits = none) (ht : s.tableFull c.no = false) :
    exec (.launchMessage i) s = .next (match s.tryLaunch c m.addr with
      | .done s1 => s1.popMsg i m
      | .wait s1 none => s1
      | .wait s1 (some x) => s1.setFn i { (s1.fns.getD i f) with waits := some x }) := by
  have hgo : ¬ (f.waits.isSome || s.tableFull c.no) = true := by rw [hw, ht]; decide
  rw [exec_launchMessage, execLaunchMessage, State.withOwned_at hm ho, hf]
  exact congrArg _ (if_neg hgo)

/-- A good record is accepted where the table has room. -/
theorem State.tryLaunch_good {b : List Byte} {addr : W64} (hb : s.devRecord c addr = .ok b) (hg : recordFault b = none)
    (ht : s.tableFull c.no = false) : s.tryLaunch c addr = .done (s.acceptLaunch c (LRec.ofBytes b) 1 none).1 := by
  rw [State.tryLaunch, hb]
  dsimp only
  rw [hg]
  exact if_neg (ne_true_of_eq_false ht)

/-- Another is refused with its reason. -/
theorem State.tryLaunch_refused {b : List Byte} {addr : W64} {k : Nat} (hb : s.devRecord c addr = .ok b)
    (hk : recordFault b = some k) :
    s.tryLaunch c addr = .done (s.reportCtx c.no (refusedReport c.no 1 k addr.toNat)) := by
  rw [State.tryLaunch, hb]
  dsimp only
  rw [hk]

/-- A record whose page is missing is waited for. -/
theorem State.tryLaunch_miss {p : Nat} {bad : Bool} {ms : List (Miss × Bool)} {addr : W64}
    (hb : s.devRecord c addr = .miss ((.page p, bad) :: ms)) :
    s.tryLaunch c addr =
      .wait (s.reportCtx c.no (missingReport c.no (.page p) bad 0)) (some { page := p, fill := true }) := by
  rw [State.tryLaunch, hb]

/-! CTXSTART (21 R354, R357). -/

/-- A record of the context that the message names: a fault where that is live, else refused or taken. -/
theorem exec_ctxstart_named (hm : s.headMsg i 2 = some m) (hno : nat8 (s.ctxRec m.addr.toNat) 0 2 = m.ctx) :
    exec (.ctxstart i) s =
      if (s.ctx? m.ctx).isSome then
        .next ((s.msgFault i m 4).report i (refusedReport m.ctx 2
          ((ctxRecFault (s.ctxRec m.addr.toNat) (s.clusters i).length).getD 18) m.addr.toNat))
      else match ctxRecFault (s.ctxRec m.addr.toNat) (s.clusters i).length with
        | some k => .next ((s.popMsg i m).report i (refusedReport m.ctx 2 k m.addr.toNat))
        | none => .next { s.popMsg i m with
            ctxs := (s.popMsg i m).ctxs ++ [(newCtx m.ctx i).load m.addr.toNat (s.ctxRec m.addr.toNat)] } := by
  rw [exec_ctxstart, execCtxstart, hm]
  dsimp only
  rw [hno]
  exact if_neg (not_not.mpr rfl)

/-! Register writes (21 R352). -/

/-- A register that the device alone writes, or none, is left. -/
theorem exec_registerWrite_other {off : Nat} {v : W64} (h8 : off ≠ 0x08) (h18 : off ≠ 0x18) :
    exec (.registerWrite i off v) s = .next s := by
  rw [exec_registerWrite, execRegisterWrite]
  cases s.fns[i]? with
  | none => rfl
  | some f => exact (if_neg h8).trans (if_neg h18)

end

/-- Settles O45: the messages by their heads, the registers by their writes. -/
theorem hostMessages : Obligations.HostMessages := by
  unfold Obligations.HostMessages
  refine ⟨fun s i f m c => ⟨fun b hm ho hf hw ht hb => ⟨fun hg => ?accepts, fun k hk => ?refuses⟩,
      fun p bad ms hm ho hf hw ht hb => ⟨?waits, fun hp h1 => ?held⟩, fun h1 hp ho => ?free,
      fun hm hc hno => ⟨fun hrec => ?starts, fun k hk => ?unfit⟩, fun hm hno hc => ?live, fun hm hno => ?other,
      fun hm ho => ?fills, fun hm h0 => ?dumps, fun hm ho => ⟨fun hb => ?ends, fun hb => ?busy⟩,
      fun ho => ⟨fun hm => ?launch, fun hm => ?preempt, fun hm => ?unpreempt, fun hm => ?ctxend⟩⟩,
    fun s i addr f v w bytes => ⟨fun hf => ?registers, fun hin => ?writes⟩⟩
  case accepts => rw [exec_launchMessage_tries hm ho hf hw ht, State.tryLaunch_good hb hg ht]
  case refuses => rw [exec_launchMessage_tries hm ho hf hw ht, State.tryLaunch_refused hb hk]
  case waits => rw [exec_launchMessage_tries hm ho hf hw ht, State.tryLaunch_miss hb]
  case held =>
    obtain ⟨rest, hrest⟩ := List.head?_eq_some_iff.mp hp
    simp [State.headHeld, hrest, h1, ho]
  case free =>
    obtain ⟨rest, hrest⟩ := List.head?_eq_some_iff.mp hp
    simp [State.headHeld, hrest, ho]
  case starts => rw [exec_ctxstart_named hm hno, hc, hrec]; rfl
  case unfit => rw [exec_ctxstart_named hm hno, hc, hk]; rfl
  case live => rw [exec_ctxstart_named hm hno, if_pos hc]
  case other =>
    rw [exec_ctxstart, execCtxstart, hm]
    exact if_pos hno
  case fills =>
    rw [exec_fill, execFill, hm]
    dsimp only
    rw [ho]
  case dumps =>
    rw [exec_setdump, execSetdump, hm]
    exact if_neg (not_not.mpr h0)
  case ends =>
    rw [exec_ctxend, execCtxend, State.withOwned_at hm ho]
    exact congrArg _ (if_neg (ne_true_of_eq_false hb))
  case busy =>
    rw [exec_ctxend, execCtxend, State.withOwned_at hm ho]
    exact congrArg _ (if_pos hb)
  case launch => exact State.withOwned_none hm ho _
  case preempt => exact State.withOwned_none hm ho _
  case unpreempt => exact State.withOwned_none hm ho _
  case ctxend => exact State.withOwned_none hm ho _
  case registers =>
    refine ⟨?_, ?_, ?_, ?_, ?_, ?_, fun off hoff => exec_registerWrite_other ?_ ?_⟩
    · rw [exec_mrtail, execMrtail, hf]
    · rw [exec_mrbase, execMrbase, hf]
    · rw [exec_rqbase, execRqbase, hf]
    · rw [exec_rqhead, execRqhead, hf]
    · rw [exec_registerWrite, execRegisterWrite, hf]
      rfl
    · rw [exec_registerWrite, execRegisterWrite, hf]
      rfl
    · rintro rfl
      exact hoff (by decide)
    · rintro rfl
      exact hoff (by decide)
  case writes =>
    have hall : ((List.range bytes.length).all fun j => s.isMem (addr + j)) = true :=
      List.all_eq_true.mpr fun j hj => hin j (List.mem_range.mp hj)
    rw [exec_hostWriteToDeviceMemory, execHostWriteToDeviceMemory, if_pos hall]

end Sys2Proof.Machine
end

section
/-! O46: reset, fences, self-tests, power and fatal errors. -/

namespace Sys2Proof.Machine

/-! What reports change: host memory and the functions' records of them. -/

/-- A state differs from another by reports alone. -/
def State.OnlyReports (s t : State) : Prop := ∃ (hostMem : List (Nat × Byte)) (fns : List Fn), t = { s with hostMem, fns }

namespace State.OnlyReports

theorem refl (s : State) : s.OnlyReports s := ⟨s.hostMem, s.fns, rfl⟩

theorem trans {s t u : State} (h : s.OnlyReports t) (k : t.OnlyReports u) : s.OnlyReports u := by
  obtain ⟨hm, fs, rfl⟩ := h
  obtain ⟨hm', fs', rfl⟩ := k
  exact ⟨hm', fs', rfl⟩

theorem report (s : State) (i : Nat) (r : Report) : s.OnlyReports (s.report i r) := by
  rw [State.report]
  split
  · exact refl s
  · split
    · exact refl s
    · split
      · exact ⟨_, _, rfl⟩
      · exact ⟨s.hostMem, _, rfl⟩

theorem foldl {α : Type} (f : State → α → State) (hf : ∀ (s : State) (x : α), s.OnlyReports (f s x)) (xs : List α) (s : State) :
    s.OnlyReports (xs.foldl f s) := by
  induction xs generalizing s with
  | nil => exact refl s
  | cons x xs ih => exact (hf s x).trans (ih _)

theorem capability (s : State) (part : Nat) : s.OnlyReports (s.capability part) :=
  foldl _ (fun s r => report s part r) _ s

end State.OnlyReports

section
variable {s : State} {n watts celsius : Nat} {f : Fence}

/-! Reset (21 R359). -/

/-- The image and the record are verified. -/
def State.bootable (s : State) : Bool :=
  Config.imageOk s.image && Config.romMinimum ≤ Config.firmwareOf s.image && recordFormed s.recBytes && signatureOk s.recBytes

/-- The state that a reset reaches before it reports. -/
def State.booted (s : State) : State :=
  let s1 : State := { s.afterReset.applyRecord s.recBytes with firmware := Config.firmwareOf s.image }
  let n := (arrangement s1.arrange).length
  { s1 with fns := List.replicate n resetFn, places := List.replicate n noPlace }

/-- A reset that verifies only reports from there. -/
theorem exec_deviceReset_boots (h : s.bootable = true) :
    ∃ t, exec .deviceReset s = .next t ∧ s.booted.OnlyReports t := by
  have hgo : ¬ (!s.bootable) = true := by rw [h]; decide
  rw [exec_deviceReset, execDeviceReset]
  refine ⟨_, if_neg hgo, ?_⟩
  refine State.OnlyReports.trans (State.OnlyReports.foldl _ (fun s p => .report s p _) _ _) (.foldl _ (fun s p => ?_) _ _)
  split
  · exact .capability s p
  · exact .refl s

/-- Another leaves the device in the recovery state. -/
theorem exec_deviceReset_recovers (h : s.bootable = false) :
    exec .deviceReset s = .next { s.afterReset with recovery := true } := by
  have hgo : (!s.bootable) = true := by rw [h]; rfl
  rw [exec_deviceReset, execDeviceReset]
  exact if_pos hgo

/-! Self-tests (19 R347; 01 R26). -/

/-- What the end of a fenced unit's self-test does. -/
theorem exec_selfTestDone_at (hf : s.fences[n]? = some f) (passed spare : Bool) :
    exec (.selfTestDone n passed spare) s =
      if passed then .next (s.lift f)
      else if spare then .next (State.lift { s with spared := s.spared + 1 } f)
      else if s.lastSlice f.unit then .next (State.die { s with fences := s.fences.filter fun x => x.id ≠ f.id } 1 f.unit)
      else if [1, 3, 4, 5].contains (unitKind f.unit) then .next ((s.disableUnit f.unit).lift f)
      else .next (s.disableUnit f.unit) := by
  rw [exec_selfTestDone, execSelfTestDone, hf]

/-! Power (21 R361, R362). -/

/-- Power is beyond the envelope while the clock stands at its floor. -/
theorem State.overFloor_iff : s.overFloor watts = true ↔ s.mhz ≤ 1600 ∧ s.envelope < watts := by
  rw [State.overFloor, Bool.and_eq_true, decide_eq_true_iff, decide_eq_true_iff]
  rfl

/-- The device trips. -/
theorem exec_powerAverage_trips (h : 105 ≤ celsius ∨ (s.mhz ≤ 1600 ∧ s.envelope < watts)) :
    exec (.powerAverage watts celsius) s = .next (State.die { s with average := watts, celsius } 4 0) := by
  rw [exec_powerAverage, execPowerAverage]
  exact if_pos (by rw [Bool.or_eq_true, decide_eq_true_iff, State.overFloor_iff]; exact h)

/-- The clock falls, or rises. -/
theorem exec_powerAverage_steps (h105 : celsius < 105) (hf : ¬ (s.mhz ≤ 1600 ∧ s.envelope < watts)) :
    exec (.powerAverage watts celsius) s =
      if s.envelope < watts || 95 < celsius then .next { s with
        average := watts, celsius, mhz := max 1600 (s.mhz - 100), avgThrottled := true
        throttles := s.throttles + (!s.avgThrottled).toNat }
      else .next { s with
        average := watts, celsius, mhz := min 4000 (s.mhz + 100), avgThrottled := decide (min 4000 (s.mhz + 100) < 4000) } := by
  rw [exec_powerAverage, execPowerAverage]
  exact if_neg (by rw [Bool.or_eq_true, decide_eq_true_iff, State.overFloor_iff]; exact not_or.mpr ⟨Nat.not_le.mpr h105, hf⟩)

end

/-- Settles O46, each event by what the management controller does. -/
theorem managementSteps : Obligations.ManagementSteps := by
  unfold Obligations.ManagementSteps
  intro s n watts celsius p u cause f image record pw coolant cpw junction hbm good
  refine ⟨fun hg => exec_deviceReset_recovers hg, fun hg => ?boots, fun hr hi hrec => ?accepts, fun hr => ?keeps,
    fun id s1 hf => ?errs, fun hf => ?tested, rfl, rfl, fun near h => ?samples, exec_powerAverage_trips,
    fun h105 hm h => ?falls, fun hc hw => ?rises, rfl⟩
  case boots =>
    obtain ⟨_, ht, hm, fs, rfl⟩ := exec_deviceReset_boots (s := s) hg
    exact ⟨_, ht, rfl, rfl, rfl, rfl, rfl, rfl, rfl⟩
  case accepts =>
    rw [exec_newImageOrRecord, execNewImageOrRecord, if_neg (by rw [hr]; decide)]
    simp [hi, hrec]
  case keeps =>
    rw [exec_newImageOrRecord, execNewImageOrRecord]
    exact if_pos (by rw [hr]; rfl)
  case errs =>
    rw [exec_softError, execSoftError, exec_softError, execSoftError, hf]
    exact ⟨rfl, rfl⟩
  case tested =>
    refine ⟨exec_selfTestDone_at hf true false, exec_selfTestDone_at hf false true, fun hl => ?_, fun hl hk => ?_, fun hl hk => ?_⟩
    · exact (exec_selfTestDone_at hf false false).trans (if_pos hl)
    · exact (exec_selfTestDone_at hf false false).trans
        ((if_neg (ne_true_of_eq_false hl)).trans (if_pos (List.contains_iff_mem.mpr hk)))
    · exact (exec_selfTestDone_at hf false false).trans
        ((if_neg (ne_true_of_eq_false hl)).trans (if_neg fun h => hk (List.contains_iff_mem.mp h)))
  case samples =>
    rw [exec_powerSample, execPowerSample]
    exact congrArg _ (if_neg (mt State.overFloor_iff.mp h))
  case falls =>
    rw [exec_powerAverage_steps h105 fun hf => Nat.not_le.mpr hm hf.1]
    exact if_pos (by simpa using h)
  case rises =>
    rw [exec_powerAverage_steps (Nat.lt_of_le_of_lt hc (by decide)) fun hf => Nat.not_lt.mpr hw hf.2]
    exact if_neg (by simp only [Bool.or_eq_true, decide_eq_true_eq]; omega)

end Sys2Proof.Machine
end

section
/-! O48: what the checks of a store that passes say of its lanes. -/

namespace Sys2Proof.Machine

section
variable {s : State} {c : Ctx} {g : Group} {h : Hdr} {sp : Space} {k : AKind} {align w cluster : Nat} {va : W64}
  {addrs : List (Nat × W64)}

/-! An access that misses names what it misses. -/

theorem State.iaRead_miss_ne {ia n : Nat} {ms : List (Miss × Bool)} (h : s.iaRead c cluster ia n = .miss ms) : ms ≠ [] := by
  unfold State.iaRead at h
  dsimp only at h
  split at h
  · cases h
  · split at h
    next hm =>
      cases h
      intro he
      simp [he] at hm
    · split at h <;> cases h

theorem State.remap_miss_ne {r : Range} {ms : List (Miss × Bool)} (h : s.remap c cluster r = .miss ms) : ms ≠ [] := by
  unfold State.remap at h
  dsimp only at h
  split at h
  next hm =>
    cases h
    exact State.iaRead_miss_ne hm
  · cases h
  · split at h <;> cases h

theorem State.xlat_miss_ne {ms : List (Miss × Bool)} (h : s.xlat c cluster va = .miss ms) : ms ≠ [] := by
  unfold State.xlat at h
  split at h
  · cases h
  · split at h
    · cases h
    · cases h
    · cases h
    · split at h
      next hm =>
        cases h
        exact State.remap_miss_ne hm
      · cases h
      · cases h
      · dsimp only at h
        split at h
        · cases h
        · split at h
          next hm =>
            cases h
            exact State.iaRead_miss_ne hm
          · cases h
          · split at h <;> cases h

theorem State.resolve_go_miss_ne {ia : Nat} {row : Option (Remap × Nat × Nat)} {ms : List (Miss × Bool)}
    (h : State.resolve.go s g k w c ia row = .miss ms) : ms ≠ [] := by
  unfold State.resolve.go at h
  dsimp only at h
  split at h
  · cases h
  · split at h
    · cases h
    · split at h
      next hm =>
        cases h
        intro he
        simp [he] at hm
      · split at h <;> cases h

theorem State.resolve_miss_ne {ms : List (Miss × Bool)} (h : s.resolve g sp k w va = .miss ms) : ms ≠ [] := by
  unfold State.resolve at h
  split at h
  · split at h
    · cases h
    · split at h
      · cases h
      · split at h
        · cases h
        · split at h <;> cases h
  · split at h
    · cases h
    · split at h <;> cases h
  · split at h
    · cases h
    · split at h
      · cases h
      · cases h
      · split at h <;> cases h
      next hm =>
        cases h
        exact State.xlat_miss_ne hm
      · cases h
      · exact State.resolve_go_miss_ne h
      · split at h
        · cases h
        · exact State.resolve_go_miss_ne h

/-! The checks of all lanes. -/

/-- Where a resolution says that an access goes. -/
def Res.tgt : Res → ATgt
  | .ok t => t
  | _ => .scr 0 0

/-- Checks that pass have resolved every lane, and say where each goes. -/
theorem State.checkLanes_accs {accs : List (Nat × W64 × ATgt)} (hc : s.checkLanes g h sp k align w addrs = .ok accs) :
    accs = addrs.map (fun x => (x.1, x.2, (s.resolve g sp k w x.2).tgt)) ∧
      ∀ x ∈ addrs, s.resolve g sp k w x.2 = .ok (s.resolve g sp k w x.2).tgt := by
  have hm : (addrs.filter fun x => x.2.toNat % align ≠ 0) = [] := by
    by_contra hm
    rw [State.checkLanes_misaligned hm] at hc
    cases hc
  have hall : ∀ x ∈ addrs, s.resolve g sp k w x.2 = .ok (s.resolve g sp k w x.2).tgt := by
    intro x hx
    have hc' := hc
    rw [State.checkLanes_aligned hm] at hc'
    dsimp only at hc'
    split at hc'
    · cases hc'
    next hheld =>
      split at hc'
      · cases hc'
      next hprot =>
        split at hc'
        · cases hc'
        next hmiss =>
          split at hc'
          · cases hc'
          next hwait =>
            cases hr : s.resolve g sp k w x.2 with
            | ok t => rfl
            | prot => exact absurd (decide_eq_true hr) (List.filter_eq_nil_iff.mp (not_not.mp hprot) x hx)
            | held => exact absurd (List.any_eq_true.mpr ⟨x, hx, decide_eq_true hr⟩) hheld
            | wait => exact absurd (List.any_eq_true.mpr ⟨x, hx, decide_eq_true hr⟩) hwait
            | miss ms =>
              have hnil := List.flatMap_eq_nil_iff.mp (not_not.mp hmiss) x hx
              rw [hr] at hnil
              exact absurd hnil (State.resolve_miss_ne hr)
  refine ⟨?_, hall⟩
  have he := (State.checkLanes_ok (h := h) hm hall).symm.trans hc
  cases he
  rfl

end

end Sys2Proof.Machine
end

section
/-! O48: stores to scratchpad and to the aperture. -/

namespace Sys2Proof.Machine

/-! What a store leads to once its checks have passed. -/

section
variable {s : State} {g : Group} {h : Hdr} {ord : Order} {sp : Space} {ty : Ty} {d a b : Opd} {scope : Scope}
  {accs : List (Nat × W64 × ATgt)}

/-- What the lanes of a store that is no release come to, in order. -/
def storeLanes (s : State) (g : Group) (h : Hdr) (sp : Space) (ty : Ty) (d : Opd) (addrs : List (Nat × W64)) : Made :=
  s.eachLane g h sp .store (ty.bits / 8) (storeFn g h ty d false) addrs

/-- A store that is no release, with its checks passed and nothing to wait for, is its lanes in order. -/
theorem exec_st_lanes (hi : s.issues (.st h ord sp ty d a b scope) g = true) (ho : ord ≠ .rel) (ha : laneAddrs g h a b ≠ [])
    (hc : s.checkLanes g h sp .store (ty.bits / 8) (ty.bits / 8) (laneAddrs g h a b) = .ok accs)
    (hap : s.apertureCheck g h ty d accs = none) (hw : aperturesOf g h ty d accs = [] ∨ s.startWaits g.id = false)
    {xs : List (ATgt × Nat × Nat)} {s1 : State} (hl : storeLanes s g h sp ty d (laneAddrs g h a b) = .ok xs s1) :
    exec (.st h ord sp ty d a b scope) s = .next ((s1.askLines g (xs.map (·.1))).retire g h) := by
  have hm : storeMade s g h ord sp ty d a b scope = .ok xs s1 := by
    rw [storeMade, State.made_checked hc, decide_eq_false ho]
    exact hl
  rw [exec_st_checked hi ha hc hap hw, if_neg ho, hm]
  rfl

/-- A store of which no lane goes to the aperture passes the checks of the aperture. -/
theorem apertures_none (hx : ∀ x ∈ accs, ∀ off, x.2.2 ≠ .aperture off) : aperturesOf g h ty d accs = [] := by
  rw [aperturesOf, List.filterMap_eq_nil_iff]
  intro x hin
  split
  next off ho => exact absurd ho (hx x hin off)
  · rfl

theorem apertureCheck_none (hx : ∀ x ∈ accs, ∀ off, x.2.2 ≠ .aperture off) : s.apertureCheck g h ty d accs = none := by
  rw [State.apertureCheck, apertures_none hx]
  split <;> rfl

end

/-! What a store leaves, beside memory: asking for lines and retiring change no data. -/

/-- What an instruction's end keeps of the state before it. -/
theorem State.ends_data (s : State) (g : Group) (h : Hdr) (ts : List ATgt) :
    ((s.askLines g ts).retire g h).mem = s.mem ∧ ((s.askLines g ts).retire g h).scratch = s.scratch ∧
      ((s.askLines g ts).retire g h).hostMem = s.hostMem ∧ ((s.askLines g ts).retire g h).teams = s.teams ∧
      ((s.askLines g ts).retire g h).ember = s.ember ∧
      ((s.askLines g ts).retire g h).groups = (s.retire g h).groups := by
  obtain ⟨_, _, _, he⟩ := s.askLines_asks g ts
  rw [he]
  exact ⟨rfl, rfl, rfl, rfl, rfl, rfl⟩

/-! Scratchpad. -/

section
variable {s : State} {c : Ctx} {g : Group} {h : Hdr} {sp : Space} {k : AKind} {w : Nat} {va : W64} {ty : Ty} {d : Opd}

/-- An access to memory that is resolved goes to the pieces of its span. -/
theorem State.resolve_go_ok {ia : Nat} {row : Option (Remap × Nat × Nat)} {t : ATgt}
    (hgo : State.resolve.go s g k w c ia row = .ok t) : t = .pub (s.span c ia w).pieces row := by
  unfold State.resolve.go at hgo
  dsimp only at hgo
  split at hgo
  · cases hgo
  · split at hgo
    · cases hgo
    · split at hgo
      · cases hgo
      · split at hgo <;> cases hgo
        rfl

/-- A global address that resolves goes to the aperture, or to memory. -/
theorem State.resolve_gl_ok {t : ATgt} (hr : s.resolve g .gl k w va = .ok t) :
    ∃ c, s.ctx? g.id.ctx = some c ∧
      ((∃ off, s.xlat c g.site.cluster va = .aperture off ∧ k = .store ∧ w = 8 ∧ t = .aperture off) ∨
        ∃ ia row, t = .pub (s.span c ia w).pieces row) := by
  simp only [State.resolve] at hr
  split at hr
  · cases hr
  next c hc =>
    refine ⟨c, hc, ?_⟩
    split at hr
    · cases hr
    · cases hr
    next off hx =>
      split at hr
      next hk =>
        cases hr
        obtain ⟨hk, hw⟩ := Bool.and_eq_true_iff.mp hk
        exact .inl ⟨off, hx, of_decide_eq_true hk, of_decide_eq_true hw, rfl⟩
      · cases hr
    · cases hr
    · cases hr
    · exact .inr ⟨_, _, State.resolve_go_ok hr⟩
    · split at hr
      · cases hr
      · exact .inr ⟨_, _, State.resolve_go_ok hr⟩

/-- Global addresses do not resolve to a window. -/
theorem State.resolve_gl_ne_scr {cl off : Nat} : s.resolve g .gl k w va ≠ .ok (.scr cl off) := by
  intro hr
  obtain ⟨_, -, ⟨_, -, -, -, he⟩ | ⟨_, _, he⟩⟩ := State.resolve_gl_ok hr <;> cases he

/-- Only the scratchpads, and which of their words are uncorrectable, may differ. -/
def State.Scribbles (s t : State) : Prop := ∃ scratch poison, t = { s with scratch := scratch, poison := poison }

theorem State.Scribbles.refl (s : State) : s.Scribbles s := ⟨s.scratch, s.poison, rfl⟩

theorem State.Scribbles.trans {t u : State} (h1 : s.Scribbles t) (h2 : t.Scribbles u) : s.Scribbles u := by
  obtain ⟨_, _, rfl⟩ := h1
  obtain ⟨x, y, rfl⟩ := h2
  exact ⟨x, y, rfl⟩

/-- What the scratchpads hold has no part in where an address of theirs resolves. -/
theorem State.Scribbles.resolve {t : State} (hs : s.Scribbles t) (hsp : sp ≠ .gl) :
    t.resolve g sp k w va = s.resolve g sp k w va := by
  obtain ⟨_, _, rfl⟩ := hs
  cases sp with
  | sh => rfl
  | cw => rfl
  | gl => exact absurd rfl hsp

/-- A lane's bytes are written where it goes in a window. -/
def State.scribble (g : Group) (h : Hdr) (ty : Ty) (d : Opd) (s : State) (x : Nat × W64 × ATgt) : State :=
  match x.2.2 with
  | .scr cl off => s.writeScratch cl off (leBytes (ty.bits / 8) (rd g h ty d x.1))
  | _ => s

theorem State.scribble_scribbles (x : Nat × W64 × ATgt) : s.Scribbles (s.scribble g h ty d x) := by
  rw [State.scribble]
  split
  · exact ⟨_, _, rfl⟩
  · exact .refl s

theorem State.scribbles_foldl (accs : List (Nat × W64 × ATgt)) (s : State) :
    s.Scribbles (accs.foldl (State.scribble g h ty d) s) := by
  induction accs generalizing s with
  | nil => exact .refl s
  | cons x xs ih => exact (State.scribble_scribbles x).trans (ih _)

/-- The lanes of a store to scratchpad are written in order. -/
theorem storeLanes_scr (hsp : sp ≠ .gl) {addrs : List (Nat × W64)} {tgt : Nat × W64 → ATgt}
    (hx : ∀ x ∈ addrs, s.resolve g sp .store (ty.bits / 8) x.2 = .ok (tgt x)) (ht : ∀ x ∈ addrs, ∃ cl off, tgt x = .scr cl off)
    {s1 : State} (hs : s.Scribbles s1) :
    ∃ xs, storeLanes s1 g h sp ty d addrs =
      .ok xs ((addrs.map fun x => (x.1, x.2, tgt x)).foldl (State.scribble g h ty d) s1) := by
  induction addrs generalizing s1 with
  | nil => exact ⟨[], rfl⟩
  | cons x rest ih =>
    obtain ⟨cl, off, hto⟩ := ht x List.mem_cons_self
    have hr : s1.resolve g sp .store (ty.bits / 8) x.2 = .ok (.scr cl off) := by
      rw [hs.resolve hsp, hx x List.mem_cons_self, hto]
    have hdo : s1.scribble g h ty d (x.1, x.2, tgt x) = s1.writeScratch cl off (leBytes (ty.bits / 8) (rd g h ty d x.1)) := by
      rw [State.scribble, hto]
    obtain ⟨xs, hxs⟩ := ih (fun y hy => hx y (List.mem_cons_of_mem x hy)) (fun y hy => ht y (List.mem_cons_of_mem x hy))
      (s1 := s1.writeScratch cl off (leBytes (ty.bits / 8) (rd g h ty d x.1))) (hs.trans ⟨_, _, rfl⟩)
    refine ⟨(.scr cl off, x.1, 0) :: xs, ?_⟩
    rw [List.map_cons, List.foldl_cons, hdo, storeLanes, State.eachLane_ok (State.place1_scr hr) rfl,
      show State.eachLane _ g h sp .store (ty.bits / 8) (storeFn g h ty d false) rest = _ from hxs]


theorem leBytes_length (n x : Nat) : (leBytes n x).length = n := by
  induction n generalizing x with
  | zero => rfl
  | succ n ih => exact congrArg (· + 1) (ih _)

/-- A byte of a window that no lane's bytes reach stays. -/
theorem State.scribble_get {x : Nat × W64 × ATgt} {i : Nat} (hw : Memory.wf s.scratch = true)
    (ho : ∀ cl off, x.2.2 = .scr cl off →
      i < cl * Config.windowBytes + off ∨ cl * Config.windowBytes + off + ty.bits / 8 ≤ i) :
    cellGet (s.scribble g h ty d x).scratch i = cellGet s.scratch i := by
  rw [State.scribble]
  split
  next cl off ht =>
    have hout := ho cl off ht
    refine (cellGet_write _ _ _ hw).trans (if_neg ?_)
    rw [leBytes_length]
    omega
  · rfl

theorem State.scribble_wf {x : Nat × W64 × ATgt} (hw : Memory.wf s.scratch = true) :
    Memory.wf (s.scribble g h ty d x).scratch = true := by
  rw [State.scribble]
  split
  · exact cellWrite_wf _ _ hw
  · exact hw

theorem State.scribbles_get {accs : List (Nat × W64 × ATgt)} {i : Nat} {s : State} (hw : Memory.wf s.scratch = true)
    (ho : ∀ x ∈ accs, ∀ cl off, x.2.2 = .scr cl off →
      i < cl * Config.windowBytes + off ∨ cl * Config.windowBytes + off + ty.bits / 8 ≤ i) :
    cellGet (accs.foldl (State.scribble g h ty d) s).scratch i = cellGet s.scratch i := by
  induction accs generalizing s with
  | nil => rfl
  | cons x xs ih =>
    exact (ih (State.scribble_wf hw) fun y hy => ho y (List.mem_cons_of_mem x hy)).trans
      (State.scribble_get hw (ho x List.mem_cons_self))

/-! The aperture. -/

/-- Only a global address resolves to the aperture. -/
theorem State.resolve_aperture_gl {off : Nat} (hr : s.resolve g sp k w va = .ok (.aperture off)) : sp = .gl := by
  cases sp with
  | gl => rfl
  | sh =>
    simp only [State.resolve] at hr
    repeat' split at hr
    all_goals cases hr
  | cw =>
    simp only [State.resolve] at hr
    repeat' split at hr
    all_goals cases hr

/-- An address that translates to the aperture lies in an APERTURE range. -/
theorem State.xlat_aperture {cluster off : Nat} (hx : s.xlat c cluster va = .aperture off) :
    ∃ r, s.rangeOf c va.toNat = some r ∧ r.kind = 2 ∧ off = va.toNat - r.base.toNat := by
  unfold State.xlat at hx
  split at hx
  · cases hx
  next r hr =>
    split at hx
    · cases hx
    next hk =>
      cases hx
      exact ⟨r, hr, hk, rfl⟩
    · cases hx
    · split at hx
      · cases hx
      · cases hx
      · cases hx
      · dsimp only at hx
        repeat' split at hx
        all_goals cases hx

/-- Only the engines' starts, and the counter that numbers them, may differ. -/
def State.Starts (s t : State) : Prop := ∃ starts tick, t = { s with starts := starts, tick := tick }

theorem State.Starts.refl (s : State) : s.Starts s := ⟨s.starts, s.tick, rfl⟩

theorem State.Starts.trans {t u : State} (h1 : s.Starts t) (h2 : t.Starts u) : s.Starts u := by
  obtain ⟨_, _, rfl⟩ := h1
  obtain ⟨x, y, rfl⟩ := h2
  exact ⟨x, y, rfl⟩

theorem State.offer_starts (x : Start) : s.Starts (s.offer x) := by
  unfold State.offer
  split
  · exact ⟨_, s.tick, rfl⟩
  · exact ⟨_, s.tick, rfl⟩

theorem State.apertureStart_starts (off : Nat) (x : W64) : s.Starts (s.apertureStart g off x) :=
  .trans ⟨s.starts, s.tick + 1, rfl⟩ (State.offer_starts _)

/-- What starts there are has no part in whether an address is the aperture's. -/
theorem State.Starts.resolve {t : State} {off : Nat} (hs : s.Starts t) (hr : s.resolve g sp k w va = .ok (.aperture off)) :
    t.resolve g sp k w va = .ok (.aperture off) := by
  obtain rfl := State.resolve_aperture_gl hr
  obtain ⟨c, hc, ⟨off', hx, hk, hw, he⟩ | ⟨_, _, he⟩⟩ := State.resolve_gl_ok hr
  · obtain ⟨r, hrange, h2, rfl⟩ := State.xlat_aperture hx
    have hc' : t.ctx? g.id.ctx = some c := by
      obtain ⟨_, _, rfl⟩ := hs
      exact hc
    have hrange' : t.rangeOf c va.toNat = some r := by
      obtain ⟨_, _, rfl⟩ := hs
      exact hrange
    rw [State.resolve_aperture hc' hrange' h2, if_pos ⟨hk, hw⟩, ← he]
  · cases he

/-- Every lane of a store to the aperture is a start. -/
theorem storeLanes_aperture {addrs : List (Nat × W64)}
    (hx : ∀ x ∈ addrs, ∃ off, s.resolve g sp .store (ty.bits / 8) x.2 = .ok (.aperture off)) {s1 : State} (hs : s.Starts s1) :
    ∃ xs s2, storeLanes s1 g h sp ty d addrs = .ok xs s2 ∧ s.Starts s2 := by
  induction addrs generalizing s1 with
  | nil => exact ⟨[], s1, rfl, hs⟩
  | cons x rest ih =>
    obtain ⟨off, hr⟩ := hx x List.mem_cons_self
    obtain ⟨xs, s2, hxs, hs2⟩ := ih (fun y hy => hx y (List.mem_cons_of_mem x hy))
      (s1 := s1.apertureStart g off (BitVec.ofNat 64 (leNat (leBytes (ty.bits / 8) (rd g h ty d x.1)))))
      (hs.trans (State.apertureStart_starts ..))
    refine ⟨(.aperture off, x.1, 0) :: xs, s2, ?_, hs2⟩
    rw [storeLanes, State.eachLane_ok (State.place1_aperture (hs.resolve hr)) rfl,
      show State.eachLane _ g h sp .store (ty.bits / 8) (storeFn g h ty d false) rest = _ from hxs]

end

end Sys2Proof.Machine
end

section
/-! O48: what a store to a team's version changes (03 R49 to R52). -/

namespace Sys2Proof.Machine

/-! Bytes of a version. -/

/-- A byte that is set leaves every other as it was. -/
theorem verGet_set (v : List Host.Cell) {a k : Nat} (x : Byte) (h : k ≠ a) : verGet (cellSet v a x) k = verGet v k := by
  induction v with
  | nil => simp [cellSet, verGet, Ne.symm h]
  | cons p t ih =>
    obtain ⟨b, y⟩ := p
    rw [cellSet]
    split
    next hb =>
      subst hb
      simp only [verGet, if_neg (Ne.symm h)]
    next hb =>
      split
      next hlt =>
        rw [verGet, if_neg (Ne.symm h)]
        split
        next hka => rw [verGet, if_neg (by omega), if_pos (by omega)]
        · rfl
      next => simp only [verGet, ih]

theorem verGet_verSet (bs : List Byte) {v : List Host.Cell} {a k : Nat} (h : k < a ∨ a + bs.length ≤ k) :
    verGet (verSet v a bs) k = verGet v k := by
  induction bs generalizing v a with
  | nil => rfl
  | cons b bs ih =>
    rw [List.length_cons] at h
    exact (ih (by omega)).trans (verGet_set v b (by omega))

/-! Teams. -/

section
variable {s t : State} {ctx : Nat} {task : W64} {f : Team → Team}

/-- A change of a team that keeps its names is seen where the team is looked up. -/
theorem State.team?_updTeam (hf : ∀ x, (f x).ctx = x.ctx ∧ (f x).task = x.task) (ctx' : Nat) (task' : W64) :
    (s.updTeam ctx task f).team? ctx' task' =
      (s.team? ctx' task').map fun x => if x.ctx = ctx && x.task = task then f x else x := by
  unfold State.team? State.updTeam
  rw [List.find?_map]
  congr 2
  funext x
  dsimp only [Function.comp]
  split
  · rw [(hf x).1, (hf x).2]
  · rfl

/-- What a team's version holds. -/
def State.verAt (s : State) (ctx : Nat) (task : W64) : List Host.Cell :=
  match s.team? ctx task with
  | none => []
  | some t => t.version

theorem State.versionOf_eq (s : State) (id : GroupId) : s.versionOf id = s.verAt id.ctx id.task := rfl

/-- A change of a team that leaves versions leaves what they hold. -/
theorem State.verAt_updTeam (hf : ∀ x, (f x).ctx = x.ctx ∧ (f x).task = x.task) (hv : ∀ x, (f x).version = x.version)
    (ctx' : Nat) (task' : W64) : (s.updTeam ctx task f).verAt ctx' task' = s.verAt ctx' task' := by
  rw [State.verAt, State.verAt, State.team?_updTeam hf]
  cases s.team? ctx' task' with
  | none => rfl
  | some x =>
    dsimp only [Option.map]
    split
    · exact hv x
    · rfl

/-- The team that is looked up is the one that is asked for. -/
theorem State.team?_some {x : Team} (h : s.team? ctx task = some x) : x ∈ s.teams ∧ x.ctx = ctx ∧ x.task = task := by
  have hp := List.find?_some h
  rw [Bool.and_eq_true, decide_eq_true_iff, decide_eq_true_iff] at hp
  exact ⟨List.mem_of_find?_eq_some h, hp⟩

/-- A change of one team leaves the versions of the others. -/
theorem State.verAt_updTeam_ne (hf : ∀ x, (f x).ctx = x.ctx ∧ (f x).task = x.task) {ctx' : Nat} {task' : W64}
    (hne : ¬ (ctx' = ctx ∧ task' = task)) : (s.updTeam ctx task f).verAt ctx' task' = s.verAt ctx' task' := by
  rw [State.verAt, State.verAt, State.team?_updTeam hf]
  cases hx : s.team? ctx' task' with
  | none => rfl
  | some x =>
    obtain ⟨-, rfl, rfl⟩ := State.team?_some hx
    dsimp only [Option.map]
    rw [if_neg (by simpa using hne)]

end

/-! The frame. -/

/-- The spill entries that a context's teams hold are among some. -/
def State.SpilledIn (s : State) (c : Ctx) (E : Nat → Prop) : Prop := ∀ x ∈ s.teams, x.ctx = c.no → ∀ y ∈ x.spilled, E y.2

/-- Only a team's version may differ, not where `K` holds, and in memory only the spill entries of its context that are among
`E`. -/
structure State.HoldsOnly (c : Ctx) (task : W64) (K E : Nat → Prop) (s t : State) : Prop where
  ctxs : t.ctxs = s.ctxs
  scratch : t.scratch = s.scratch
  hostMem : t.hostMem = s.hostMem
  ember : t.ember = s.ember
  groups : t.groups = s.groups
  now : t.now = s.now
  spilled : s.SpilledIn c E → t.SpilledIn c E
  wf : Memory.wf s.mem = true → Memory.wf t.mem = true
  mem : Memory.wf s.mem = true → s.SpilledIn c E → ∀ k, (∀ e, E e → k < c.verEntry e ∨ c.verEntry e + 128 ≤ k) →
    cellGet t.mem k = cellGet s.mem k
  own : ∀ k, K k → verGet (t.verAt c.no task) k = verGet (s.verAt c.no task) k
  others : ∀ ctx' task', ¬ (ctx' = c.no ∧ task' = task) → t.verAt ctx' task' = s.verAt ctx' task'

section
variable {s t u : State} {c : Ctx} {task : W64} {K E : Nat → Prop}

theorem State.HoldsOnly.refl : s.HoldsOnly c task K E s :=
  ⟨rfl, rfl, rfl, rfl, rfl, rfl, id, id, fun _ _ _ _ => rfl, fun _ _ => rfl, fun _ _ _ => rfl⟩

theorem State.HoldsOnly.trans (h1 : s.HoldsOnly c task K E t) (h2 : t.HoldsOnly c task K E u) : s.HoldsOnly c task K E u where
  ctxs := h2.ctxs.trans h1.ctxs
  scratch := h2.scratch.trans h1.scratch
  hostMem := h2.hostMem.trans h1.hostMem
  ember := h2.ember.trans h1.ember
  groups := h2.groups.trans h1.groups
  now := h2.now.trans h1.now
  spilled h := h2.spilled (h1.spilled h)
  wf h := h2.wf (h1.wf h)
  mem hw hs k hk := (h2.mem (h1.wf hw) (h1.spilled hs) k hk).trans (h1.mem hw hs k hk)
  own k hk := (h2.own k hk).trans (h1.own k hk)
  others x y hne := (h2.others x y hne).trans (h1.others x y hne)

/-- A write to memory within an entry that the context's teams may hold. -/
theorem State.HoldsOnly.writeMem {a e : Nat} {bs : List Byte} (he : s.SpilledIn c E → E e) (ha : c.verEntry e ≤ a)
    (hb : a + bs.length ≤ c.verEntry e + 128) : s.HoldsOnly c task K E (s.writeMem a bs) where
  ctxs := rfl
  scratch := rfl
  hostMem := rfl
  ember := rfl
  groups := rfl
  now := rfl
  spilled := id
  wf := cellWrite_wf a bs
  mem hw hs k hk := by
    have hout := hk e (he hs)
    exact (cellGet_write a k bs hw).trans (if_neg (by omega))
  own _ _ := rfl
  others _ _ _ := rfl

/-- Data in memory that becomes uncorrectable. -/
theorem State.HoldsOnly.spoilMem {ws : List Nat} : s.HoldsOnly c task K E (s.spoilMem ws) :=
  ⟨rfl, rfl, rfl, rfl, rfl, rfl, id, id, fun _ _ _ _ => rfl, fun _ _ => rfl, fun _ _ _ => rfl⟩

/-- Version lines that enter or leave slices. -/
theorem State.HoldsOnly.vlines {vlines : List VLine} : s.HoldsOnly c task K E { s with vlines := vlines } :=
  ⟨rfl, rfl, rfl, rfl, rfl, rfl, id, id, fun _ _ _ _ => rfl, fun _ _ => rfl, fun _ _ _ => rfl⟩

/-- A team's line is noted as spilled to an entry. -/
theorem State.HoldsOnly.updTeam_spilled {ctx' : Nat} {task' : W64} {f : Team → Team}
    (hf : ∀ x, (f x).ctx = x.ctx ∧ (f x).task = x.task) (hv : ∀ x, (f x).version = x.version)
    (hs : ∀ x : Team, (∀ y ∈ x.spilled, E y.2) → ∀ y ∈ (f x).spilled, E y.2) :
    s.HoldsOnly c task K E (s.updTeam ctx' task' f) where
  ctxs := rfl
  scratch := rfl
  hostMem := rfl
  ember := rfl
  groups := rfl
  now := rfl
  spilled h x hx hc := by
    obtain ⟨z, hz, rfl⟩ := List.mem_map.mp hx
    by_cases hm : (decide (z.ctx = ctx') && decide (z.task = task')) = true
    · rw [if_pos hm] at hc ⊢
      exact hs z (h z hz ((hf z).1 ▸ hc))
    · rw [if_neg hm] at hc ⊢
      exact h z hz hc
  wf := id
  mem _ _ _ _ := rfl
  own _ _ := by rw [State.verAt_updTeam hf hv]
  others _ _ _ := State.verAt_updTeam hf hv _ _

/-- A team with bytes stored in its version. -/
def Team.holding (ia : Nat) (bs : List Byte) (t : Team) : Team :=
  { t with version := verSet t.version ia bs, verBad := keepBad t.verBad ia bs.length }

/-- Bytes of the team's version are set. -/
theorem State.HoldsOnly.updTeam_version {ia : Nat} {bs : List Byte} (hK : ∀ k, K k → k < ia ∨ ia + bs.length ≤ k) :
    s.HoldsOnly c task K E (s.updTeam c.no task (Team.holding ia bs)) where
  ctxs := rfl
  scratch := rfl
  hostMem := rfl
  ember := rfl
  groups := rfl
  now := rfl
  spilled h x hx hc := by
    obtain ⟨z, hz, rfl⟩ := List.mem_map.mp hx
    by_cases hm : (decide (z.ctx = c.no) && decide (z.task = task)) = true
    · rw [if_pos hm] at hc ⊢
      exact h z hz hc
    · rw [if_neg hm] at hc ⊢
      exact h z hz hc
  wf := id
  mem _ _ _ _ := rfl
  own k hk := by
    rw [State.verAt, State.verAt, State.team?_updTeam (f := Team.holding ia bs) fun _ => ⟨rfl, rfl⟩]
    cases hx : s.team? c.no task with
    | none => rfl
    | some x =>
      dsimp only [Option.map]
      split
      · exact verGet_verSet bs (hK k hk)
      · rfl
  others _ _ hne := State.verAt_updTeam_ne (f := Team.holding ia bs) (fun _ => ⟨rfl, rfl⟩) hne

theorem spillBytes_length (task : W64) (v : List Host.Cell) (line : Nat) : (spillBytes task v line).length = 128 := by
  simp [spillBytes, leBytes_length]

/-- A line goes to an entry of the spill area. -/
theorem State.spillLine_holds {task' : W64} {line e : Nat} (he : E e) :
    s.HoldsOnly c task K E (s.spillLine c task' line e) := by
  unfold State.spillLine
  split
  · exact .refl
  · refine ((State.HoldsOnly.writeMem (fun _ => he) (Nat.le_refl _) ?_).trans .spoilMem).trans
      (.updTeam_spilled (fun _ => ⟨rfl, rfl⟩) (fun _ => rfl) fun x hx y hy => ?_)
    · rw [spillBytes_length]
    · obtain hy | hy := List.mem_append.mp hy
      · exact hx y hy
      · rw [List.mem_singleton.mp hy]
        exact he

/-- A free entry of the spill area is one of its entries. -/
theorem State.spillFree_lt {e : Nat} (h : s.spillFree c = some e) : e < c.vsbytes / 128 := by
  have hp := List.find?_some (Option.filter_eq_some_iff.mp h).1
  exact of_decide_eq_true (Bool.and_eq_true_iff.mp hp).1

/-- Room for a version line. -/
theorem State.versionLine_holds {line : Nat} (hE : ∀ e < c.vsbytes / 128, E e) (h : s.versionLine c task line = some t) :
    s.HoldsOnly c task K E t := by
  unfold State.versionLine at h
  dsimp only at h
  split at h
  · cases h
  · split at h
    · cases h
      exact .refl
    · split at h
      · cases h
        exact .vlines
      · split at h
        · cases h
          exact .vlines
        · split at h
          · cases h
          next e he =>
            have hin := hE e (State.spillFree_lt he)
            split at h
            · cases h
              exact State.spillLine_holds hin
            · cases h
              exact (State.spillLine_holds hin).trans .vlines

/-- A line that stands in the spill area is kept there. -/
theorem State.respill_holds {ia : Nat} {bs : List Byte} (hlen : ia % 64 + bs.length ≤ 64) :
    s.HoldsOnly c task K E (s.respill c task ia bs) := by
  unfold State.respill
  split
  · exact .refl
  next x hx =>
    obtain ⟨hmem, hc, -⟩ := State.team?_some hx
    split
    · exact .refl
    next line e he =>
      have hin : ∀ u : State, u.teams = s.teams → u.SpilledIn c E → E e := fun u hu hs =>
        hs x (hu ▸ hmem) hc (line, e) (List.mem_of_find?_eq_some he)
      split
      · exact .refl
      · refine (State.HoldsOnly.writeMem (hin s rfl) (Nat.le_add_right ..) ?_).trans
          (.writeMem (hin _ rfl) (Nat.le_add_right ..) ?_)
        · omega
        · rw [leBytes_length]
          omega

/-- A store into a team's version changes the bytes that it stores. -/
theorem State.holdStore_holds {ia : Nat} {bs : List Byte} (hE : ∀ e < c.vsbytes / 128, E e) (hlen : ia % 64 + bs.length ≤ 64)
    (hK : ∀ k, K k → k < ia ∨ ia + bs.length ≤ k) (h : s.holdStore c task ia bs = some t) : s.HoldsOnly c task K E t := by
  unfold State.holdStore at h
  split at h
  · cases h
  next s1 h1 =>
    cases h
    exact ((State.versionLine_holds hE h1).trans (.updTeam_version hK)).trans (State.respill_holds hlen)

end

end Sys2Proof.Machine
end

section
/-! O48: the lanes of a store to pages (03 R49; 07 R145; 11 R218). -/

namespace Sys2Proof.Machine

/-! Pieces. -/

section
variable {s t : State} {c : Ctx} {g : Group} {h : Hdr} {sp : Space} {k : AKind} {w : Nat} {va : W64} {ty : Ty} {d : Opd}
  {K E : Nat → Prop}

/-- Bytes that are cut at lines lie each on one. -/
theorem cutLine_line {ia n : Nat} (hn : n ≤ 64) {x : Nat × Nat} (hx : x ∈ cutLine ia n) : x.1 % 64 + x.2 ≤ 64 := by
  unfold cutLine at hx
  dsimp only at hx
  split at hx
  · rw [List.mem_singleton.mp hx]
    dsimp only
    omega
  · obtain rfl | rfl := List.mem_pair.mp hx
    · dsimp only
      omega
    · dsimp only
      omega

/-- The pieces of a span lie each on one line. -/
theorem State.span_line {ia n : Nat} (hn : n ≤ 64) {p : Piece} (hp : p ∈ (s.span c ia n).pieces) : p.ia % 64 + p.n ≤ 64 := by
  obtain ⟨y, hy, hyp⟩ := List.mem_filterMap.mp hp
  obtain ⟨x, hx, rfl⟩ := List.mem_map.mp hy
  split at hyp
  · cases hyp
    exact cutLine_line hn hx
  · cases hyp

/-- Only a global address resolves to memory, to pieces that lie each on one line. -/
theorem State.resolve_pub {ps : List Piece} {row : Option (Remap × Nat × Nat)} (hw : w ≤ 64)
    (hr : s.resolve g sp k w va = .ok (.pub ps row)) :
    (∃ c, s.ctx? g.id.ctx = some c) ∧ ∀ p ∈ ps, p.ia % 64 + p.n ≤ 64 := by
  cases sp with
  | gl =>
    obtain ⟨c, hc, ⟨_, -, -, -, he⟩ | ⟨ia, row', he⟩⟩ := State.resolve_gl_ok hr
    · cases he
    · cases he
      exact ⟨⟨c, hc⟩, fun p hp => State.span_line hw hp⟩
  | sh =>
    simp only [State.resolve] at hr
    repeat' split at hr
    all_goals cases hr
  | cw =>
    simp only [State.resolve] at hr
    repeat' split at hr
    all_goals cases hr

/-- No row, or one that is not shared. -/
def Unshared (row : Option (Remap × Nat × Nat)) : Prop := ∀ x, row = some x → bitsN x.2.2 49 49 ≠ 1

/-- An access whose lines have room, through no shared row, is made in the state as it is. -/
theorem State.place1_roomy {ps : List Piece} {row : Option (Remap × Nat × Nat)}
    (hr : s.resolve g sp k w va = .ok (.pub ps row)) (ho : Unshared row) (hroom : s.roomFor g.id.ctx ps = .ok s) :
    s.place1 g sp k w va = .ok s (.pub ps row) := by
  cases row with
  | none => simp [State.place1, State.placeRoom, hr, hroom]
  | some x =>
    obtain ⟨dd, r, e⟩ := x
    have he : bitsN e 49 49 = 0 := by
      have hne := ho _ rfl
      have hlt : bitsN e 49 49 < 2 := Nat.mod_lt _ (by decide)
      dsimp only at hne
      omega
    cases hc : s.ctx? g.id.ctx <;> simp [State.place1, State.placeRoom, hr, hroom, he, hc]

/-! The version. -/

/-- Where a lane of a store goes: to pages of kind P, S or C, through no shared row, and to no byte of `K`. -/
structure PlainTgt (K : Nat → Prop) (ps : List Piece) (row : Option (Remap × Nat × Nat)) : Prop where
  kind : ∀ p ∈ ps, p.leaf.kind ≠ 3
  row : Unshared row
  line : ∀ p ∈ ps, p.ia % 64 + p.n ≤ 64
  out : ∀ p ∈ ps, ∀ i, K i → i < p.ia ∨ p.ia + p.n ≤ i

/-- Bytes stored to such pages go to the team's version. -/
theorem State.storePieces_holds (hE : ∀ e < c.vsbytes / 128, E e) {ps : List Piece} {bs : List Byte} {x : Nat}
    (hk : ∀ p ∈ ps, p.leaf.kind ≠ 3) (hl : ∀ p ∈ ps, p.ia % 64 + p.n ≤ 64)
    (hK : ∀ p ∈ ps, ∀ i, K i → i < p.ia ∨ p.ia + p.n ≤ i) (h : s.storePieces g c false ps bs = .ok x t) :
    s.HoldsOnly c g.id.task K E t := by
  induction ps generalizing s bs with
  | nil =>
    cases h
    exact .refl
  | cons p ps ih =>
    rw [List.forall_mem_cons] at hk hl hK
    rw [State.storePieces] at h
    dsimp only at h
    rw [if_neg hk.1, if_neg (by decide)] at h
    split at h
    · cases h
    · split at h
      · cases h
      next s1 hs1 =>
        have hlen : (bs.take p.n).length ≤ p.n := List.length_take_le ..
        have hline := hl.1
        refine (State.holdStore_holds hE ?_ (fun i hi => ?_) hs1).trans (ih hk.2 hl.2 hK.2 h)
        · omega
        · have hout := hK.1 i hi
          omega

/-- A lane of such a store. -/
theorem State.plainLane_holds (hE : ∀ e < c.vsbytes / 128, E e) (hc : s.ctx? g.id.ctx = some c) {L x : Nat}
    {ps : List Piece} {row : Option (Remap × Nat × Nat)} (hp : PlainTgt K ps row)
    (h : storeFn g h ty d false L (.pub ps row) s = .ok x t) : s.HoldsOnly c g.id.task K E t := by
  rw [storeFn, State.storeLane] at h
  rw [hc] at h
  exact State.storePieces_holds hE hp.kind hp.line hp.out h

/-- Lanes that all answer one after the other, and then others in the state that they left. -/
theorem State.eachLane_append_ok {act : LaneFn} {pre suf : List (Nat × W64)} {ys zs : List (ATgt × Nat × Nat)} {sj : State}
    (h1 : s.eachLane g h sp k w act pre = .ok ys sj) (h2 : sj.eachLane g h sp k w act suf = .ok zs t) :
    s.eachLane g h sp k w act (pre ++ suf) = .ok (ys ++ zs) t := by
  induction pre generalizing s ys with
  | nil =>
    cases h1
    exact h2
  | cons p pre ih =>
    obtain ⟨s1, tgt, x, s2, ys', hp, ha, hr, rfl⟩ := State.eachLane_cons_ok h1
    rw [List.cons_append, State.eachLane_ok hp ha, ih hr]
    rfl

/-- The lanes of a store to such pages, each of which resolves where it did when the store was checked. -/
theorem storeLanes_holds (hE : ∀ e < c.vsbytes / 128, E e) (hc : s.ctx? g.id.ctx = some c) {addrs : List (Nat × W64)}
    (hres : ∀ pre x suf ys sj, addrs = pre ++ x :: suf → storeLanes s g h sp ty d pre = .ok ys sj →
      ∃ ps row, sj.resolve g sp .store (ty.bits / 8) x.2 = .ok (.pub ps row) ∧ PlainTgt K ps row)
    {pre suf : List (Nat × W64)} {ys zs : List (ATgt × Nat × Nat)} {sj : State} (hsplit : addrs = pre ++ suf)
    (hpre : storeLanes s g h sp ty d pre = .ok ys sj) (hj : s.HoldsOnly c g.id.task K E sj)
    (hsuf : storeLanes sj g h sp ty d suf = .ok zs t) : s.HoldsOnly c g.id.task K E t := by
  induction suf generalizing pre ys zs sj with
  | nil =>
    cases hsuf
    exact hj
  | cons x suf ih =>
    obtain ⟨ps, row, hr, hp⟩ := hres pre x suf ys sj hsplit hpre
    have hplace := State.place1_roomy hr hp.row (State.roomFor_plain sj g.id.ctx ps hp.kind)
    obtain ⟨s1, tgt, y, s2, zs', hp1, hact, hrest, -⟩ := State.eachLane_cons_ok hsuf
    obtain ⟨rfl, rfl⟩ : sj = s1 ∧ ATgt.pub ps row = tgt := by
      cases hplace.symm.trans hp1
      exact ⟨rfl, rfl⟩
    have hcj : sj.ctx? g.id.ctx = some c := by
      rw [State.ctx?, hj.ctxs]
      exact hc
    have hone : storeLanes sj g h sp ty d [x] = .ok [(.pub ps row, x.1, y)] s2 := State.eachLane_ok hplace hact
    exact ih (hsplit.trans (List.append_cons pre x suf)) (State.eachLane_append_ok hpre hone)
      (hj.trans (State.plainLane_holds hE hcj hp hact)) hrest

end

end Sys2Proof.Machine
end

section
/-! O48: a store to an ember line, and the statement. -/

namespace Sys2Proof.Machine

/-! Bytes that are patched (11 R216). -/

/-- The bytes that are patched in are read back. -/
theorem patch_read {old new : List Byte} {off : Nat} (h : off + new.length ≤ old.length) :
    ((patch old off new).drop off).take new.length = new := by
  have hoff : (old.take off).length = off := List.length_take_of_le (by omega)
  rw [patch, List.append_assoc, List.drop_append_of_le_length hoff.ge, List.drop_eq_nil_of_le hoff.le, List.nil_append,
    List.take_left]

/-- A byte apart from them stays. -/
theorem patch_apart {old new : List Byte} {off i : Nat} (h : off + new.length ≤ old.length)
    (hi : i < off ∨ off + new.length ≤ i) : (patch old off new)[i]? = old[i]? := by
  have hoff : (old.take off).length = off := List.length_take_of_le (by omega)
  obtain hi | hi := hi
  · rw [patch, List.append_assoc, List.getElem?_append_left (by omega), List.getElem?_take_of_lt hi]
  · rw [patch, List.getElem?_append_right (by rw [List.length_append]; omega), List.getElem?_drop, List.length_append, hoff]
    congr 1
    omega

/-- One byte of a list. -/
theorem take_one_drop (l : List Byte) (i : Nat) : (l.drop i).take 1 = l[i]?.toList := by
  rw [List.take_one, List.head?_drop]

section
variable {s t : State} {g : Group} {h : Hdr} {sp : Space} {k : AKind} {va : W64} {ty : Ty} {d : Opd} {lf : Leaf} {ctx ia : Nat}
  {bs : List Byte}

/-- An ember line with bytes written to it. -/
def State.emberWritten (s : State) (lf : Leaf) (ctx ia : Nat) (bs : List Byte) : Ember :=
  { ctx, cluster := lf.home, line := lineOf ia, bytes := patch (s.emberBytes lf ctx (lineOf ia)) (ia % 64) bs
    bad := keepBad (s.emberBad lf ctx (lineOf ia)) ia bs.length }

/-- A write to a line that its slice holds. -/
theorem State.pubWrite_held (hk : lf.kind = 3) (hl : (s.emberLine? ctx (lineOf ia)).isSome = true) :
    s.pubWrite lf ctx ia bs = { s with ember := s.ember.map fun x =>
      if x.ctx = ctx && x.line = lineOf ia then s.emberWritten lf ctx ia bs else x } := by
  rw [State.pubWrite, if_pos hk]
  exact if_pos hl

/-- Where a line is looked up after it: the line that was written, and every other as it was. -/
theorem State.emberLine?_pubWrite (hk : lf.kind = 3) (hl : (s.emberLine? ctx (lineOf ia)).isSome = true) (ctx' line' : Nat) :
    (s.pubWrite lf ctx ia bs).emberLine? ctx' line' = (s.emberLine? ctx' line').map fun x =>
      if x.ctx = ctx && x.line = lineOf ia then s.emberWritten lf ctx ia bs else x := by
  rw [State.pubWrite_held hk hl, State.emberLine?, State.emberLine?, List.find?_map]
  congr 2
  funext x
  dsimp only [Function.comp]
  split
  next hx =>
    obtain ⟨hc, hline⟩ := Bool.and_eq_true_iff.mp hx
    rw [of_decide_eq_true hc, of_decide_eq_true hline]
    rfl
  · rfl

theorem State.emberLine?_pubWrite_ne (hk : lf.kind = 3) (hl : (s.emberLine? ctx (lineOf ia)).isSome = true) {ctx' line' : Nat}
    (hne : ¬ (ctx' = ctx ∧ line' = lineOf ia)) :
    (s.pubWrite lf ctx ia bs).emberLine? ctx' line' = s.emberLine? ctx' line' := by
  rw [State.emberLine?_pubWrite hk hl]
  cases hx : s.emberLine? ctx' line' with
  | none => rfl
  | some x =>
    have hp := List.find?_some hx
    rw [Bool.and_eq_true, decide_eq_true_iff, decide_eq_true_iff] at hp
    exact congrArg some (if_neg (by rw [hp.1, hp.2]; simpa using hne))

/-- The line that was written holds the bytes. -/
theorem State.emberBytes_pubWrite (hk : lf.kind = 3) (hl : (s.emberLine? ctx (lineOf ia)).isSome = true) :
    (s.pubWrite lf ctx ia bs).emberBytes lf ctx (lineOf ia) = patch (s.emberBytes lf ctx (lineOf ia)) (ia % 64) bs := by
  obtain ⟨x, hx⟩ := Option.isSome_iff_exists.mp hl
  have hp := List.find?_some hx
  rw [State.emberBytes, State.emberLine?_pubWrite hk hl, hx]
  exact congrArg Ember.bytes (if_pos hp)

/-- What is read of an E page depends on the ember lines and on memory alone. -/
theorem State.pubRead_congr (hm : t.mem = s.mem) (he : t.ember = s.ember) (n : Nat) :
    t.pubRead lf ctx ia n = s.pubRead lf ctx ia n := by
  simp only [State.pubRead, State.emberBytes, State.emberLine?, hm, he]

/-- A line that its slice holds has room. -/
theorem State.roomFor_held {p : Piece} (hl : (s.emberLine? ctx (lineOf p.ia)).isSome = true) : s.roomFor ctx [p] = .ok s := by
  simp [State.roomFor, State.emberRoom, hl]

/-- The context that is looked up is the one that is asked for. -/
theorem State.ctx?_no {c : Ctx} {n : Nat} (hc : s.ctx? n = some c) : c.no = n := by
  have hp := List.find?_some hc
  exact of_decide_eq_true hp

/-- The one lane of a store to such a line writes its bytes. -/
theorem storeLanes_ember {c : Ctx} {L : Nat} {row : Option (Remap × Nat × Nat)} (hc : s.ctx? g.id.ctx = some c)
    (hr : s.resolve g sp .store (ty.bits / 8) va = .ok (.pub [⟨ia, ty.bits / 8, lf⟩] row)) (ho : Unshared row)
    (hk : lf.kind = 3) (hl : (s.emberLine? g.id.ctx (lineOf ia)).isSome = true) :
    storeLanes s g h sp ty d [(L, va)] =
      .ok [(.pub [⟨ia, ty.bits / 8, lf⟩] row, L, 0)] (s.pubWrite lf g.id.ctx ia (leBytes (ty.bits / 8) (rd g h ty d L))) := by
  have hno := State.ctx?_no hc
  have hact : storeFn g h ty d false L (.pub [⟨ia, ty.bits / 8, lf⟩] row) s =
      .ok 0 (s.pubWrite lf g.id.ctx ia (leBytes (ty.bits / 8) (rd g h ty d L))) := by
    rw [storeFn, State.storeLane, hc, ← hno]
    dsimp only
    rw [State.storePieces]
    dsimp only
    rw [if_pos hk, List.take_of_length_le (leBytes_length ..).le]
    rfl
  exact State.eachLane_ok (State.place1_roomy hr ho (State.roomFor_held hl)) hact

/-- What retiring leaves of the groups depends on the groups and the time alone. -/
theorem State.retire_groups (hg : t.groups = s.groups) (hn : t.now = s.now) : (t.retire g h).groups = (s.retire g h).groups := by
  simp only [State.retire, State.setGroup, hg, hn]

/-- What a team's version holds depends on the teams alone. -/
theorem State.verAt_congr (ht : t.teams = s.teams) (ctx : Nat) (task : W64) : t.verAt ctx task = s.verAt ctx task := by
  simp only [State.verAt, State.team?, ht]

/-- The entries that a context's lines take are those that its teams hold. -/
theorem State.spilledIn_spillUsed {c : Ctx} {E : Nat → Prop} (h : ∀ e, (s.spillUsed c.no).contains e = true → E e) : s.SpilledIn c E :=
  fun x hx hc y hy => h y.2 (List.contains_iff_mem.mpr
    (List.mem_flatMap.mpr ⟨x, List.mem_filter.mpr ⟨hx, decide_eq_true hc⟩, List.mem_map_of_mem hy⟩))

end

end Sys2Proof.Machine
end

section
/-! O48: the frame of a store. -/

namespace Sys2Proof.Machine

section
variable {s t : State} {g : Group} {h : Hdr} {ord : Order} {sp : Space} {ty : Ty} {d a b : Opd} {scope : Scope}
  {accs : List (Nat × W64 × ATgt)}
  (hi : s.issues (.st h ord sp ty d a b scope) g = true) (ho : ord ≠ .rel) (ha : laneAddrs g h a b ≠ [])
  (hc : s.checkLanes g h sp .store (ty.bits / 8) (ty.bits / 8) (laneAddrs g h a b) = .ok accs)
  (ht : exec (.st h ord sp ty d a b scope) s = .next t)
include hi ho ha hc ht

/-- What a store leaves, from what its lanes leave. -/
theorem store_ends (hap : s.apertureCheck g h ty d accs = none) (hw : aperturesOf g h ty d accs = [] ∨ s.startWaits g.id = false)
    {xs : List (ATgt × Nat × Nat)} {s1 : State} (hl : storeLanes s g h sp ty d (laneAddrs g h a b) = .ok xs s1) :
    t.mem = s1.mem ∧ t.scratch = s1.scratch ∧ t.hostMem = s1.hostMem ∧ t.teams = s1.teams ∧ t.ember = s1.ember ∧
      t.groups = (s1.retire g h).groups := by
  have he : t = (s1.askLines g (xs.map (·.1))).retire g h :=
    Host.Outcome.next.inj (ht.symm.trans (exec_st_lanes hi ho ha hc hap hw hl))
  rw [he]
  exact s1.ends_data g h _

/-- So for one of which no lane goes to the aperture. -/
theorem store_ends_plain (hx : ∀ x ∈ accs, ∀ off, x.2.2 ≠ .aperture off) {xs : List (ATgt × Nat × Nat)} {s1 : State}
    (hl : storeLanes s g h sp ty d (laneAddrs g h a b) = .ok xs s1) :
    t.mem = s1.mem ∧ t.scratch = s1.scratch ∧ t.hostMem = s1.hostMem ∧ t.teams = s1.teams ∧ t.ember = s1.ember ∧
      t.groups = (s1.retire g h).groups :=
  store_ends hi ho ha hc ht (apertureCheck_none hx) (.inl (apertures_none hx)) hl

/-- A store to scratchpad writes its lanes' bytes there and nothing else. -/
theorem store_scr (hx : ∀ x ∈ accs, ∃ cl off, x.2.2 = .scr cl off) :
    t.mem = s.mem ∧ t.hostMem = s.hostMem ∧ t.teams = s.teams ∧ t.ember = s.ember ∧ t.groups = (s.retire g h).groups ∧
      t.scratch = (accs.foldl (State.scribble g h ty d) s).scratch := by
  obtain ⟨haccs, hres⟩ := State.checkLanes_accs hc
  have htgt : ∀ x ∈ laneAddrs g h a b, ∃ cl off, (s.resolve g sp .store (ty.bits / 8) x.2).tgt = .scr cl off := fun x hin =>
    hx (x.1, x.2, _) (haccs ▸ List.mem_map_of_mem hin)
  have hsp : sp ≠ .gl := by
    rintro rfl
    obtain ⟨x, hin⟩ := List.exists_mem_of_ne_nil _ ha
    obtain ⟨cl, off, he⟩ := htgt x hin
    exact State.resolve_gl_ne_scr ((hres x hin).trans (congrArg Res.ok he))
  obtain ⟨xs, hl⟩ := storeLanes_scr (h := h) (d := d) hsp hres htgt (.refl s)
  rw [← haccs] at hl
  obtain ⟨hm, hsc, hh, hte, he, hg⟩ := store_ends_plain hi ho ha hc ht
    (fun x hin off => by obtain ⟨cl, o, hxo⟩ := hx x hin; rw [hxo]; nofun) hl
  obtain ⟨_, _, hs⟩ := State.scribbles_foldl (g := g) (h := h) (ty := ty) (d := d) accs s
  rw [hs] at hm hh hte he hg
  exact ⟨hm, hh, hte, he, hg, hsc⟩

/-- A store to the aperture starts engines and changes no memory. -/
theorem store_aperture (hx : ∀ x ∈ accs, ∃ off, x.2.2 = .aperture off) (hap : s.apertureCheck g h ty d accs = none)
    (hw : s.startWaits g.id = false) :
    t.mem = s.mem ∧ t.scratch = s.scratch ∧ t.hostMem = s.hostMem ∧ t.teams = s.teams ∧ t.ember = s.ember ∧
      t.groups = (s.retire g h).groups := by
  obtain ⟨haccs, hres⟩ := State.checkLanes_accs hc
  have hall : ∀ x ∈ laneAddrs g h a b, ∃ off, s.resolve g sp .store (ty.bits / 8) x.2 = .ok (.aperture off) := fun x hin => by
    obtain ⟨off, he⟩ := hx (x.1, x.2, _) (haccs ▸ List.mem_map_of_mem hin)
    exact ⟨off, (hres x hin).trans (congrArg Res.ok he)⟩
  obtain ⟨xs, s1, hl, _, _, hs⟩ := storeLanes_aperture (h := h) (d := d) hall (.refl s)
  have hends := store_ends hi ho ha hc ht hap (.inr hw) hl
  rw [hs] at hends
  exact hends

/-- A store to a line that its slice holds writes it. -/
theorem store_ember {L ia : Nat} {va : W64} {lf : Leaf} {row : Option (Remap × Nat × Nat)}
    (hx : accs = [(L, va, .pub [⟨ia, ty.bits / 8, lf⟩] row)]) (hk : lf.kind = 3) (hrow : Unshared row)
    (hl : (s.emberLine? g.id.ctx (lineOf ia)).isSome = true) :
    let s1 := s.pubWrite lf g.id.ctx ia (leBytes (ty.bits / 8) (rd g h ty d L))
    t.mem = s1.mem ∧ t.scratch = s1.scratch ∧ t.hostMem = s1.hostMem ∧ t.teams = s1.teams ∧ t.ember = s1.ember ∧
      t.groups = (s1.retire g h).groups := by
  obtain ⟨haccs, hres⟩ := State.checkLanes_accs hc
  obtain ⟨y, hy, hone⟩ : ∃ y, laneAddrs g h a b = [y] ∧
      (y.1, y.2, (s.resolve g sp .store (ty.bits / 8) y.2).tgt) = (L, va, ATgt.pub [⟨ia, ty.bits / 8, lf⟩] row) := by
    obtain ⟨y, hy, he⟩ := List.map_eq_singleton_iff.mp (haccs.symm.trans hx)
    exact ⟨y, hy, he⟩
  obtain ⟨hL, hva, htgt⟩ : y.1 = L ∧ y.2 = va ∧
      (s.resolve g sp .store (ty.bits / 8) y.2).tgt = ATgt.pub [⟨ia, ty.bits / 8, lf⟩] row := by
    simpa using hone
  have hr : s.resolve g sp .store (ty.bits / 8) va = .ok (.pub [⟨ia, ty.bits / 8, lf⟩] row) := by
    rw [← hva, ← htgt]
    exact hres y (hy ▸ List.mem_singleton_self y)
  have hw : ty.bits / 8 ≤ 64 := by cases ty <;> decide
  obtain ⟨⟨c, hctx⟩, -⟩ := State.resolve_pub hw hr
  have hlanes : laneAddrs g h a b = [(L, va)] := by rw [hy, ← hL, ← hva]
  refine store_ends_plain hi ho ha hc ht (fun x hin off => ?_)
    ((congrArg _ hlanes).trans (storeLanes_ember hctx hr hrow hk hl))
  rw [hx, List.mem_singleton] at hin
  rw [hin]
  nofun

/-- A store to pages of the other kinds, whose lanes resolve as they did when it was checked, changes its bytes of the version. -/
theorem store_version {K : Nat → Prop} {E : Nat → Prop}
    (hx : ∀ x ∈ accs, ∃ ps row, x.2.2 = .pub ps row ∧ (∀ p ∈ ps, p.leaf.kind ≠ 3) ∧ Unshared row)
    (hok : ∃ xs s1, storeLanes s g h sp ty d (laneAddrs g h a b) = .ok xs s1)
    (hsame : ∀ j x xs sj, accs[j]? = some x → storeLanes s g h sp ty d ((laneAddrs g h a b).take j) = .ok xs sj →
      sj.resolve g sp .store (ty.bits / 8) x.2.1 = .ok x.2.2)
    (hK : ∀ x ∈ accs, ∀ ps row, x.2.2 = .pub ps row → ∀ p ∈ ps, ∀ i, K i → i < p.ia ∨ p.ia + p.n ≤ i)
    (hE : ∀ c, s.ctx? g.id.ctx = some c → ∀ e < c.vsbytes / 128, E e) :
    ∃ c s1, s.ctx? g.id.ctx = some c ∧ s.HoldsOnly c g.id.task K E s1 ∧ t.mem = s1.mem ∧ t.scratch = s1.scratch ∧
      t.hostMem = s1.hostMem ∧ t.teams = s1.teams ∧ t.ember = s1.ember ∧ t.groups = (s1.retire g h).groups := by
  obtain ⟨haccs, hres⟩ := State.checkLanes_accs hc
  obtain ⟨xs, s1, hl⟩ := hok
  have hw : ty.bits / 8 ≤ 64 := by cases ty <;> decide
  have hpub : ∀ x ∈ laneAddrs g h a b, ∃ ps row, (s.resolve g sp .store (ty.bits / 8) x.2).tgt = .pub ps row ∧
      PlainTgt K ps row := fun x hin => by
    have hacc : (x.1, x.2, (s.resolve g sp .store (ty.bits / 8) x.2).tgt) ∈ accs := haccs ▸ List.mem_map_of_mem hin
    obtain ⟨ps, row, he, hk, hrow⟩ := hx _ hacc
    exact ⟨ps, row, he, hk, hrow, (State.resolve_pub hw ((hres x hin).trans (congrArg Res.ok he))).2, hK _ hacc ps row he⟩
  obtain ⟨x0, hin0⟩ := List.exists_mem_of_ne_nil _ ha
  obtain ⟨ps0, row0, he0, -⟩ := hpub x0 hin0
  obtain ⟨⟨c, hctx⟩, -⟩ := State.resolve_pub hw ((hres x0 hin0).trans (congrArg Res.ok he0))
  refine ⟨c, s1, hctx, ?_, store_ends_plain hi ho ha hc ht (fun x hin off => ?_) hl⟩
  · refine storeLanes_holds (hE c hctx) hctx (addrs := laneAddrs g h a b) (pre := []) (fun pre x suf ys sj hsplit hpre => ?_) rfl rfl .refl hl
    have hin : x ∈ laneAddrs g h a b := by simp [hsplit]
    obtain ⟨ps, row, he, hp⟩ := hpub x hin
    have hj : accs[pre.length]? = some (x.1, x.2, (s.resolve g sp .store (ty.bits / 8) x.2).tgt) := by
      rw [haccs, hsplit]
      simp
    have hpre' : storeLanes s g h sp ty d ((laneAddrs g h a b).take pre.length) = .ok ys sj := by
      rw [hsplit, List.take_left]
      exact hpre
    exact ⟨ps, row, (hsame _ _ _ _ hj hpre').trans (congrArg Res.ok he), hp⟩
  · obtain ⟨ps, row, he, -⟩ := hx x hin
    rw [he]
    nofun

end

/-- Settles O48: the frame of each kind of target, from what the lanes of a store do there. -/
theorem storesChangeOnlyTheirBytes : Obligations.StoresChangeOnlyTheirBytes := by
  unfold Obligations.StoresChangeOnlyTheirBytes
  intro s t g h ord sp ty d a b scope accs w own fn hi ho ha hc hwf ht
  obtain ⟨⟨hmem, hscr⟩, -⟩ : (Memory.wf s.mem = true ∧ Memory.wf s.scratch = true) ∧ Memory.wf s.hostMem = true := by
    simpa [State.memOk] using hwf
  refine ⟨fun hx => ?scratch, fun hx hok hsame => ?version, fun L va ia lf row hx hk hrow hfit hl hlen => ?ember,
    fun hx hap hw => store_aperture hi ho ha hc ht hx hap hw⟩
  case scratch =>
    obtain ⟨hm, hh, hte, he, hg, hs⟩ := store_scr hi ho ha hc ht hx
    refine ⟨hm, hh, hte, he, hg, fun k hk => ?_, fun L va cl off hone => ?_⟩
    · rw [hs]
      exact State.scribbles_get hscr hk
    · have hread := cellRead_write (cl * Config.windowBytes + off) (leBytes w (rd g h ty d L)) hscr
      rw [leBytes_length] at hread
      rw [State.readScratch, hs, hone]
      exact hread
  case version =>
    obtain ⟨c, s1, hctx, hj, hm, hsc, hh, hte, he, hg⟩ := store_version
      (K := fun k => ∀ x ∈ accs, ∀ ps row, x.2.2 = .pub ps row → ∀ p ∈ ps, k < p.ia ∨ p.ia + p.n ≤ k)
      (E := fun e => ∃ c, s.ctx? g.id.ctx = some c ∧ (e < c.vsbytes / 128 ∨ (s.spillUsed c.no).contains e = true))
      hi ho ha hc ht hx hok hsame (fun x hin ps row hp p hpin i hi => hi x hin ps row hp p hpin)
      (fun c hctx e he => ⟨c, hctx, .inl he⟩)
    have hno := State.ctx?_no hctx
    have hspill := State.spilledIn_spillUsed (s := s) (c := c)
      (E := fun e => ∃ c, s.ctx? g.id.ctx = some c ∧ (e < c.vsbytes / 128 ∨ (s.spillUsed c.no).contains e = true))
      fun e he => ⟨c, hctx, .inr he⟩
    refine ⟨fun k hk => ?_, hsc.trans hj.scratch, hh.trans hj.hostMem, he.trans hj.ember,
      hg.trans (State.retire_groups hj.groups hj.now), fun k hk => ?_, fun id hne => ?_⟩
    · rw [hm]
      refine hj.mem hmem hspill k fun e he => ?_
      obtain ⟨c', hc', he⟩ := he
      cases hctx.symm.trans hc'
      exact hk c e hctx he
    · rw [State.versionOf_eq, State.versionOf_eq, State.verAt_congr hte, ← hno]
      exact hj.own k hk
    · rw [State.versionOf_eq, State.versionOf_eq, State.verAt_congr hte]
      exact hj.others _ _ (hno ▸ hne)
  case ember =>
    obtain ⟨hm, hsc, hh, hte, he, hg⟩ := store_ember hi ho ha hc ht hx hk hrow hl
    have hpw := State.pubWrite_held (s := s) (bs := leBytes (ty.bits / 8) (rd g h ty d L)) hk hl
    have hbytes := State.emberBytes_pubWrite (s := s) (bs := leBytes (ty.bits / 8) (rd g h ty d L)) hk hl
    have hroom : ia % 64 + (leBytes (ty.bits / 8) (rd g h ty d L)).length ≤ (s.emberBytes lf g.id.ctx (lineOf ia)).length := by
      rw [leBytes_length, hlen]
      exact hfit
    refine ⟨hm.trans (by rw [hpw]), hsc.trans (by rw [hpw]), hh.trans (by rw [hpw]), hte.trans (by rw [hpw]),
      hg.trans (by rw [hpw]; rfl), ?_, fun k hline hout => ?_, fun ctx line hne => ?_⟩
    · rw [State.pubRead_congr hm he, State.pubRead, if_pos hk, hbytes]
      have hread := patch_read hroom
      rw [leBytes_length] at hread
      exact hread
    · rw [State.pubRead_congr hm he, State.pubRead, State.pubRead, if_pos hk, if_pos hk, hline, hbytes, take_one_drop,
        take_one_drop, patch_apart hroom]
      rw [leBytes_length]
      simp only [lineOf] at hline
      omega
    · rw [State.emberLine?, he]
      exact State.emberLine?_pubWrite_ne hk hl hne

end Sys2Proof.Machine
end
